-- ==== Sys2Proof/Word.lean ====
section
/-! DEFINITION. The words of the machine and the one keyed store that State is built of. -/
namespace Sys2Proof

abbrev Byte := BitVec 8
abbrev Word := BitVec 32
abbrev Dword := BitVec 64

/-- A store keyed by Nat: (key, value) pairs, keys strictly rising, no entry equal to what an unlisted key reads as. -/
abbrev SMap (α : Type) := List (Nat × α)

namespace SMap

variable {α : Type}

/-- The value at key `k`; an unlisted key reads as `d`. -/
def get (m : SMap α) (d : α) (k : Nat) : α :=
  match m with
  | [] => d
  | (a, v) :: r => if a = k then v else get r d k

/-- Removes key `k`. -/
def erase (m : SMap α) (k : Nat) : SMap α :=
  match m with
  | [] => []
  | (a, v) :: r => if a = k then erase r k else (a, v) :: erase r k

/-- Puts `(k, v)` before the first key above `k`. -/
def insertAt (m : SMap α) (k : Nat) (v : α) : SMap α :=
  match m with
  | [] => [(k, v)]
  | (a, w) :: r => if k < a then (k, v) :: (a, w) :: r else (a, w) :: insertAt r k v

/-- Sets key `k` to `v`; setting what an unlisted key reads as removes the entry. -/
def set [DecidableEq α] (m : SMap α) (d : α) (k : Nat) (v : α) : SMap α :=
  if v = d then erase m k else insertAt (erase m k) k v

/-- The keys rise strictly. -/
def rising (m : SMap α) : Bool :=
  match m with
  | [] => true
  | (a, _) :: r => (match r with | [] => true | (b, _) :: _ => decide (a < b)) && rising r

end SMap
end Sys2Proof
end

