-- ==== Sys2Proof/Syntax.lean ====
section
/-! DEFINITION. The commands of the part and their operands: one constructor per row of opcode_table.json. -/
namespace Sys2Proof

abbrev Stall := Fin 16
abbrev Chan := Fin 256
abbrev GroomIx := Fin 2048
abbrev LpChan := Fin 64
abbrev Fn := Fin 257
abbrev Port := Fin 8
abbrev Paddock := Fin 16
abbrev LedgerIx := Fin 8192
abbrev Dch := Fin 8
abbrev XReg := Fin 32
abbrev GReg := Fin 16

/-- Who sends a register or memory access (18_register_map.md R479). -/
inductive Requester
  | ostler
  | fn (f : Fn)
  | sccSup (st : Stall)
  | sccTen (st : Stall)
  | dma (st : Stall)
deriving DecidableEq, Repr

/-- The second source of an SCC integer instruction: a register or a 16-bit signed immediate (13_control_core.md). -/
inductive Src2
  | reg (r : XReg)
  | imm (i : BitVec 16)
deriving DecidableEq, Repr

/-- The loop register set of a LOOP (R344). -/
abbrev LoopIx := Fin 3

/-- The supervisor system registers that SYSR and SYSW name (R346, R367); the tenant loop bank is TLC, TLS and TLE. -/
inductive SysReg
  | trapStat | trapPc | trapCause | trapInfo | trapEntry | trapSave | intMask | tbAlarm
  | tlc (n : LoopIx)
  | tls (n : LoopIx)
  | tle (n : LoopIx)
deriving DecidableEq, Repr

/-- The integer operations of a groom core: add, subtract, logic, shifts, compare, set-if (06_grooms.md, "The core and its
microprograms"; their exact list is not given, notes/assumptions/20.md). -/
inductive GIntOp
  | add | sub | and | or | xor | shl | shr | shra | cmpEq | cmpLt | cmpLtu | setIf
deriving DecidableEq, Repr

/-- The second source of a groom integer instruction: a register or a 16-bit immediate, sign-extended. -/
inductive GSrc
  | reg (r : GReg)
  | imm (i : BitVec 16)
deriving DecidableEq, Repr

/-- The conditions of a groom branch. -/
inductive GCond
  | eq | ne | lt | ge | ltu | geu
deriving DecidableEq, Repr

/-- Branch, call and return of a groom core; targets are byte offsets in the microprogram store. -/
inductive GBranchOp
  | cond (c : GCond) (a b : GReg) (target : BitVec 14)
  | jump (target : BitVec 14)
  | call (link : GReg) (target : BitVec 14)
  | ret (link : GReg)
deriving DecidableEq, Repr

/-- Load and store sizes of a groom core. -/
inductive GWidth
  | b8 | b16 | b32
deriving DecidableEq, Repr

/-- The fields of a GMUL ("The multiply array"). -/
structure GMulArgs where
  add : Bool
  nc : BitVec 12
  b : BitVec 4
  kTotal : BitVec 24
  partsCode : BitVec 2
  part : BitVec 3
  wAddr : BitVec 31
  fmt : BitVec 4
  comp : Bool
  slot : Fin 8
  zpEn : Bool
  zp : Byte
  scaleEn : Bool
  scaleBase : BitVec 9
  tag : BitVec 16
  blist : BitVec 16
  a : BitVec 16
  aStride : BitVec 16
  out : BitVec 16
deriving DecidableEq, Repr

/-- A B or C operand of GVEC: an immediate, a vector, or a scalar from scratch (R161). -/
inductive GOperand
  | none
  | imm (w : BitVec 32)
  | vec (addr : BitVec 16)
  | scalar (addr : BitVec 16)
deriving DecidableEq, Repr

inductive GRedOp
  | sum | max | min | maxi | mini
deriving DecidableEq, Repr

/-- Where GSEND sends: a groom of the sender's stack by its stack-local index, or the owning stall's STB (R165). -/
inductive GDest
  | groom (i : Fin 256)
  | stb (off : BitVec 24)
deriving DecidableEq, Repr

/-- The engines a GWAIT names. -/
inductive GEngine
  | gmul | gvec | gred | gnar | gtbl | gscl | gsend | grecv | bank
deriving DecidableEq, Repr

/-- A row of the table of tested combinations (16_tack_image_and_boot.md R429). -/
structure FwRow where
  fw : Word
  uc : Word
  abiLo : BitVec 16
  abiHi : BitVec 16
deriving DecidableEq, Repr

/-- What the firmware bundle carries: versions FW and UC and the table; its layout is not given. -/
structure Bundle where
  fw : Word
  uc : Word
  rows : List FwRow
deriving DecidableEq, Repr

/-- The results of the tests of a cold boot, as the environment finds them (R440, R441). -/
structure BootResults where
  /-- Version FW, UC and table rows (FW, UC, lowest and highest ABI) of the firmware bundle that verifies; none where neither does. -/
  bundle : Option Bundle
  /-- Channel, bank and row of the rows in which a line miscompares or needs correction. -/
  badRows : List (Nat × Nat × Nat)
  /-- Channel and lane group of the groups that fail. -/
  badLanes : List (Nat × Nat)
  /-- Channels that fail training. -/
  badChannels : List Nat
  badGrooms : List Nat
  badStalls : List Nat
  badLp : List Nat
deriving DecidableEq, Repr

/-- What a configuration read asks for: the items of the table of 14_host_interface.md R368, and `absent` for every option that the table
does not name or says is not supported. -/
inductive CfgItem
  | maxPayload
  | maxReadRequest
  | completionTimeout
  | ari
  | totalVfs
  | firstVfOffset
  | vfStride
  | numVfs
  | vfEnable
  | msixVectors
  | msixEnable
  | smallestTranslationUnit
  | atsEnable
  | priEnable
  | pageRequestAllocation
  | aer
  | aerStatus
  | msixFunctionMask
  | maxLinkSpeed
  | maxLinkWidth
  | linkSpeed
  | linkWidth
  | tagBits
  | functionLevelReset
  | powerState
  | noSoftReset
  | absent
deriving DecidableEq, Repr

/-- A configuration request (14_host_interface.md R368): what a write changes (Max_Payload_Size and Max_Read_Request_Size in bytes, the
completion timeout, 0 the default and 1 to 4 the ranges A to D, ATS and PRI enable, the Outstanding Page Request Allocation, the power state,
MSI-X enable and Function Mask, error status bits cleared by writing 1, NumVFs, VF Enable, a function-level reset), or a read. -/
inductive CfgReq
  | read (item : CfgItem)
  | maxPayload (bytes : BitVec 16)
  | maxReadRequest (bytes : BitVec 16)
  | completionTimeout (range : BitVec 3)
  | ats (on : Bool)
  | pri (on : Bool)
  | prAlloc (n : Word)
  | powerState (d3 : Bool)
  | msix (on : Bool)
  | msixMask (on : Bool)
  | aerClear (bits : Word)
  | numVfs (n : BitVec 9)
  | vfEnable (on : Bool)
  | flr
deriving DecidableEq, Repr

/-- A write transfer on the SMBus (R497): its target address, its command code and its data byte. -/
structure SmbWrite where
  addr : BitVec 7
  code : Byte := 0x30
  data : Byte
deriving DecidableEq, Repr

/-- What a scan of the boundary register brings (R500): the level of TRST#, asserted or not, which stays until another scan says otherwise,
and the bits shifted in. -/
structure TapScan where
  trst : Bool := false
  data : Dword
deriving DecidableEq, Repr

/-- The commands of the part: one constructor per row of opcode_table.json, those without operands last. -/
inductive Instr
  /-- R7. A write to a register field that has no row of its own takes effect by its access code. -/
  | regWrite (req : Requester) (off : BitVec 32) (size : Nat) (v : Dword)
  /-- R350. The dispatcher dispatches the oldest window command whose latches are released and whose engine is free. -/
  | dispatch (st : Stall)
  /-- R351. A command completing with status OK releases latch REL of stall REL_STALL. -/
  | commandComplete (st : Stall) (seq : Word)
  /-- R353. A write of DSP_CTRL.SKIP releases the rejected command's latch and resumes dispatch. -/
  | dspSkip (st : Stall)
  /-- R353. A write of DSP_CTRL.FLUSH discards every window command and resumes dispatch. -/
  | dspFlush (st : Stall)
  /-- R106. A matrix instruction computes a canonical product or part into accumulator banks. -/
  | mmul (st : Stall) (seq : Word)
  /-- R112. The weight path preloads the next matrix instruction's first tile once its conditions hold. -/
  | weightPreload (st : Stall)
  /-- R108. Zeroes a rectangle of an accumulator bank and clears covered POISON tags. -/
  | accZero (st : Stall) (seq : Word)
  /-- R109. Narrows an accumulator rectangle into the STB. -/
  | accStore (st : Stall) (seq : Word)
  /-- R129. Runs a fused element-wise chain with optional store, reduction and summary slot. -/
  | vchain (st : Stall) (seq : Word)
  /-- R137. Combines the part results of a split sum or MAXI/MINI exactly. -/
  | combine (st : Stall) (seq : Word)
  /-- R64. The CVU converts a tensor between formats with an optional factor. -/
  | cvt (st : Stall) (seq : Word)
  /-- R66. The HGU bins a tensor's elements into 256 bins. -/
  | hist (st : Stall) (seq : Word)
  /-- R68. A write of HGU_CTRL.CLEAR zeroes all bins and HGU_NAN_CNT. -/
  | hguClear (st : Stall)
  /-- R77. Checks a code table image and loads it into a stall or groom table slot. -/
  | tblLoad (st : Stall) (seq : Word)
  /-- R151. Checks a microprogram image and loads it into the targeted grooms. -/
  | gpLoad (st : Stall) (seq : Word)
  /-- R269. Appends K and V and computes fused attention for a ragged batch of sequences. -/
  | attn (st : Stall) (seq : Word)
  /-- R275. Merges attention part nodes into final rows or a higher node. -/
  | attnMerge (st : Stall) (seq : Word)
  /-- R321. The tumbler samples tokens from logit rows and assembles token records. -/
  | sample (st : Stall) (seq : Word)
  /-- R352. Clears every latch in its mask once earlier users have completed. -/
  | latchArm (st : Stall) (seq : Word)
  /-- R351. Releases latch REL once its waits are met. -/
  | latchRel (st : Stall) (seq : Word)
  /-- R354. Completes after all earlier commands and signals the step-end latch to the sequencer. -/
  | stepEnd (st : Stall) (seq : Word)
  /-- R354. The sequencer's step-start message arrives at a stall and is held for WSTEP. -/
  | stepStartMsg (st : Stall)
  /-- R339. A write of SCC_CTRL.RUN starts or halts the SCC. -/
  | sccRun (st : Stall) (run : Bool)
  /-- R367. A write to SCC_MBOX raises the OSTLER interrupt. -/
  | sccMboxWrite (st : Stall) (msg : Word)
  /-- R363. A pending enabled interrupt is taken at an instruction boundary and enters the handler. -/
  | interruptTake (st : Stall)
  /-- R358. TB reaching TB_ALARM makes the TIMER interrupt pending. -/
  | tbAlarm (st : Stall) (t : Dword)
  /-- R365. The oldest store buffer entry leaves when its destination accepts it. -/
  | storeBufferLeave (st : Stall)
  /-- R338. Integer add. -/
  | iadd (st : Stall) (word : Bool) (rd : XReg) (rs : XReg) (b : Src2)
  /-- R338. Integer subtract. -/
  | isub (st : Stall) (word : Bool) (rd : XReg) (rs : XReg) (b : Src2)
  /-- R338. Bitwise and. -/
  | iand (st : Stall) (word : Bool) (rd : XReg) (rs : XReg) (b : Src2)
  /-- R338. Bitwise or. -/
  | ior (st : Stall) (word : Bool) (rd : XReg) (rs : XReg) (b : Src2)
  /-- R338. Bitwise exclusive or. -/
  | ixor (st : Stall) (word : Bool) (rd : XReg) (rs : XReg) (b : Src2)
  /-- R338. Shift left. -/
  | shl (st : Stall) (word : Bool) (rd : XReg) (rs : XReg) (b : Src2)
  /-- R338. Logical shift right. -/
  | shr (st : Stall) (word : Bool) (rd : XReg) (rs : XReg) (b : Src2)
  /-- R338. Arithmetic shift right. -/
  | shra (st : Stall) (word : Bool) (rd : XReg) (rs : XReg) (b : Src2)
  /-- R338. Signed compare less than. -/
  | cmplt (st : Stall) (word : Bool) (rd : XReg) (rs : XReg) (b : Src2)
  /-- R338. Unsigned compare less than. -/
  | cmpltu (st : Stall) (word : Bool) (rd : XReg) (rs : XReg) (b : Src2)
  /-- R338. Places a 32-bit immediate in one half of a register. -/
  | immh (st : Stall) (rd : XReg) (high : Bool) (imm : Word)
  /-- R338. Integer multiply, low half. -/
  | imul (st : Stall) (rd : XReg) (a : XReg) (b : XReg)
  /-- R338. Signed multiply, high half. -/
  | imulh (st : Stall) (rd : XReg) (a : XReg) (b : XReg)
  /-- R338. Unsigned multiply, high half. -/
  | imulhu (st : Stall) (rd : XReg) (a : XReg) (b : XReg)
  /-- R338. Signed divide with defined division by zero. -/
  | idiv (st : Stall) (rd : XReg) (a : XReg) (b : XReg)
  /-- R338. Unsigned divide. -/
  | idivu (st : Stall) (rd : XReg) (a : XReg) (b : XReg)
  /-- R338. Signed remainder. -/
  | imod (st : Stall) (rd : XReg) (a : XReg) (b : XReg)
  /-- R338. Unsigned remainder. -/
  | imodu (st : Stall) (rd : XReg) (a : XReg) (b : XReg)
  /-- R45. FP32 compare less than. -/
  | fcmplt (st : Stall) (rd : XReg) (a : XReg) (b : XReg)
  /-- R45. FP32 compare less or equal. -/
  | fcmple (st : Stall) (rd : XReg) (a : XReg) (b : XReg)
  /-- R45. FP32 compare equal. -/
  | fcmpeq (st : Stall) (rd : XReg) (a : XReg) (b : XReg)
  /-- R45. FP32 to integer conversion. -/
  | f2i (st : Stall) (rd : XReg) (a : XReg)
  /-- R45. Integer to FP32 conversion. -/
  | i2f (st : Stall) (rd : XReg) (a : XReg)
  /-- R340. Sign-extending 8-bit load. -/
  | ld8 (st : Stall) (rd : XReg) (base : XReg) (off : Dword)
  /-- R340. Sign-extending 16-bit load. -/
  | ld16 (st : Stall) (rd : XReg) (base : XReg) (off : Dword)
  /-- R340. Sign-extending 32-bit load. -/
  | ld32 (st : Stall) (rd : XReg) (base : XReg) (off : Dword)
  /-- R340. 64-bit load. -/
  | ld64 (st : Stall) (rd : XReg) (base : XReg) (off : Dword)
  /-- R340. Zero-extending 8-bit load. -/
  | ld8u (st : Stall) (rd : XReg) (base : XReg) (off : Dword)
  /-- R340. Zero-extending 16-bit load. -/
  | ld16u (st : Stall) (rd : XReg) (base : XReg) (off : Dword)
  /-- R340. Zero-extending 32-bit load. -/
  | ld32u (st : Stall) (rd : XReg) (base : XReg) (off : Dword)
  /-- R365. 8-bit store. -/
  | st8 (st : Stall) (src : XReg) (base : XReg) (off : Dword)
  /-- R365. 16-bit store. -/
  | st16 (st : Stall) (src : XReg) (base : XReg) (off : Dword)
  /-- R365. 32-bit store. -/
  | st32 (st : Stall) (src : XReg) (base : XReg) (off : Dword)
  /-- R365. 64-bit store. -/
  | st64 (st : Stall) (src : XReg) (base : XReg) (off : Dword)
  /-- R342. Branch if equal, with one delay slot. -/
  | brEq (st : Stall) (a : XReg) (b : XReg) (off : Dword)
  /-- R342. Branch if not equal. -/
  | brNe (st : Stall) (a : XReg) (b : XReg) (off : Dword)
  /-- R342. Branch if signed less than. -/
  | brLt (st : Stall) (a : XReg) (b : XReg) (off : Dword)
  /-- R342. Branch if signed greater or equal. -/
  | brGe (st : Stall) (a : XReg) (b : XReg) (off : Dword)
  /-- R342. Branch if unsigned less than. -/
  | brLtu (st : Stall) (a : XReg) (b : XReg) (off : Dword)
  /-- R342. Branch if unsigned greater or equal. -/
  | brGeu (st : Stall) (a : XReg) (b : XReg) (off : Dword)
  /-- R342. PC-relative jump. -/
  | goto (st : Stall) (off : Dword)
  /-- R338. PC-relative call writing the named link register. -/
  | call (st : Stall) (rd : XReg) (off : Dword)
  /-- R342. Jump to a register address. -/
  | jumpr (st : Stall) (rs : XReg)
  /-- R338. Call to a register address writing the named link register. -/
  | callr (st : Stall) (rd : XReg) (rs : XReg)
  /-- R344. Sets up a hardware loop. -/
  | loop (st : Stall) (n : LoopIx) (rs : XReg) (last : Dword)
  /-- R357. Reads a summary slot's value and index once valid. -/
  | sumr (st : Stall) (rd : XReg) (slot : Fin 8)
  /-- R357. Reads a summary slot's flag byte once valid. -/
  | sumf (st : Stall) (rd : XReg) (slot : Fin 8)
  /-- R357. Branches on selected summary flags once the slot is valid. -/
  | bsum (st : Stall) (slot : Fin 8) (mask : Byte) (off : Dword)
  /-- R350. Passes a command record to the dispatcher window. -/
  | cmd (st : Stall) (rs : XReg)
  /-- R356. Starts a short transfer. -/
  | short (st : Stall) (rs : XReg)
  /-- R356. Waits for a short transfer tag or all and returns its status. -/
  | shortWait (st : Stall) (rd : XReg) (rs : XReg)
  /-- R355. Waits until selected groom ready lines are high after prior port stores. -/
  | wready (st : Stall) (a : XReg) (b : XReg)
  /-- R354. Takes the step-start message and returns step, band, role set and REPLAY. -/
  | wstep (st : Stall) (rd : XReg)
  /-- R29. Reads the device timebase. -/
  | rdtb (st : Stall) (rd : XReg)
  /-- R358. Raises the TRAP exception. -/
  | trap (st : Stall) (imm : BitVec 16)
  /-- R358. Raises the BREAK exception. -/
  | breakOp (st : Stall)
  /-- R362. Returns from an exception restoring mode and IE. -/
  | tret (st : Stall)
  /-- R346. Reads a supervisor system register. -/
  | sysr (st : Stall) (rd : XReg) (sys : SysReg)
  /-- R346. Writes a supervisor system register. -/
  | sysw (st : Stall) (sys : SysReg) (rs : XReg)
  /-- R365. Waits until the store buffer is empty. -/
  | drain (st : Stall)
  /-- R363. Waits until an enabled interrupt is pending. -/
  | idle (st : Stall)
  /-- R152. A GO to a groom starts or queues a sequence with snapshotted arguments. -/
  | groomGo (st : Stall) (gi : Fin 256) (entry : BitVec 4) (seq : BitVec 16)
  /-- R153. An ABORT stops the groom's sequence, discards pending GO and drains. -/
  | groomAbort (st : Stall) (gi : Fin 256)
  /-- R153. The end of a groom drain starts any PENDING_ENABLE GO. -/
  | groomDrainEnd (p : GroomIx)
  /-- R154. A groom sequence completes, adds its counts and starts its pending GO. -/
  | groomSequenceComplete (p : GroomIx) (cycles : Word)
  /-- R156. A sequence exceeding GPORT_WDOG BCLK is aborted and WDOG set. -/
  | groomWatchdog (p : GroomIx) (cycles : Word)
  /-- R146. A groom core integer instruction. -/
  | groomIntegerOp (n : GroomIx) (op : GIntOp) (rd : GReg) (a : GReg) (b : GSrc)
  /-- R146. A groom core branch, call or return. -/
  | groomBranchOp (n : GroomIx) (op : GBranchOp)
  /-- R146. A groom core scratch load or store. -/
  | groomScratchOp (n : GroomIx) (store : Bool) (signed : Bool) (w : GWidth) (r : GReg) (base : GReg) (off : BitVec 16)
  /-- R148. Moves a 64-byte line from an open bank granule to scratch. -/
  | gld (n : GroomIx) (bank : GReg) (sc : GReg)
  /-- R148. Moves a 64-byte line from scratch to an open bank granule. -/
  | gst (n : GroomIx) (bank : GReg) (sc : GReg)
  /-- R158. The groom multiply array computes one part of a matrix product. -/
  | gmul (n : GroomIx) (f : GMulArgs)
  /-- R161. Applies an element-wise operation to scratch vectors. -/
  | gvec (n : GroomIx) (op : Fin 26) (a : BitVec 16) (b : GOperand) (c : GOperand) (dst : BitVec 16) (count : BitVec 12)
  /-- R162. Reduces a scratch vector. -/
  | gred (n : GroomIx) (op : GRedOp) (src : BitVec 16) (count : BitVec 12) (idxBase : Word) (kTotal : BitVec 24) (partsCode : BitVec 2) (part : BitVec 3) (dst : BitVec 16) (idxDst : BitVec 16)
  /-- R163. Narrows a scratch vector with ties away from zero. -/
  | gnar (n : GroomIx) (fmt : BitVec 4) (zpEn : Bool) (zp : Byte) (src : BitVec 16) (dst : BitVec 16) (count : BitVec 12)
  /-- R77. Loads a groom table slot from scratch. -/
  | gtbl (n : GroomIx) (slot : Fin 8) (src : BitVec 16)
  /-- R160. Loads groom scale entries from scratch. -/
  | gscl (n : GroomIx) (entry : BitVec 9) (src : BitVec 16) (count : BitVec 10)
  /-- R165. Sends flits from scratch along the hitch chain. -/
  | gsend (n : GroomIx) (dest : GDest) (src : BitVec 16) (flits : BitVec 9)
  /-- R166. Takes received flits into scratch, waiting while the queue is empty. -/
  | grecv (n : GroomIx) (dst : BitVec 16) (flits : BitVec 9)
  /-- R146. Waits until a named groom engine is idle. -/
  | gwait (n : GroomIx) (engine : GEngine)
  /-- R154. Marks the groom sequence complete. -/
  | gend (n : GroomIx)
  /-- R166. A flit stuck 65,536 BCLK in one hop aborts its source's sequence. -/
  | chainStuck (k : Nat)
  /-- R167. An exit node writes a received line into the STB and acknowledges its flits. -/
  | xNodeLineWrite (q : Chan)
  /-- R181. A write through a groom port window reaches the selected groom or is discarded. -/
  | gportWindowWrite (st : Stall) (off : BitVec 16) (size : Nat) (v : Dword)
  /-- R172. A channel's refresh interval expires; refresh runs or is postponed, pausing grooms at OWED 8. -/
  | refreshDue (q : Chan)
  /-- R172. Owed refreshes complete and grooms are released. -/
  | refreshRelease (q : Chan)
  /-- R208. The base die samples stack sensors and sets HOT, THROTTLE or trip. -/
  | stackTempSample (stack : Fin 8) (temps : List Byte)
  /-- R467. A stall samples its junction sensor and throttles or trips. -/
  | stallTempSample (st : Stall) (temp : Byte)
  /-- R466. The ostler island sensor is sampled every 100 µs. -/
  | ostlerTempSample (temp : Byte)
  /-- R466. An LPDDR5X controller reads MR4 and sets the refresh rate. -/
  | lpMr4Sample (p : LpChan) (hot : Bool)
  /-- R197. A stack channel's scheduler serves its next request. -/
  | channelRequestServe (q : Chan) (upset : List (Nat × Byte))
  /-- R205. The patrol scrubber reads a protected line and writes back a correction. -/
  | scrubRead (tier : Bool) (q : Chan) (upset : List (Nat × Byte))
  /-- R219. An LPDDR5X controller serves a data line read or write with its check line. -/
  | lpRequestServe (p : LpChan) (upset : List (Nat × Byte))
  /-- R215. Per-bank refresh of an LPDDR5X channel. -/
  | lpRefresh (p : LpChan) (bank : Fin 16)
  /-- R214. Binds a spare row to the named row. -/
  | softRow (req : Requester)
  /-- R214. Fuses an existing soft row binding. -/
  | fuseRow (req : Requester)
  /-- R214. Steers a lane group onto the spare group and retrains. -/
  | spareLane (req : Requester)
  /-- R214. Returns a bank's free spare rows and the spare group's use. -/
  | query (req : Requester)
  /-- R231. A write to DMA_CH_PUSH queues a descriptor. -/
  | descPush (st : Stall) (c : Dch) (v : Word)
  /-- R232. A descriptor at the queue head is checked and accepted or rejected. -/
  | descStart (st : Stall) (c : Dch)
  /-- R233. An accepted descriptor's trigger condition is met and it starts. -/
  | dmaTrigger (st : Stall) (c : Dch)
  /-- R241. The issue point sends up to four transfers by slack order. -/
  | transferIssue (st : Stall)
  /-- R235. A descriptor completes after its last write and releases its latch. -/
  | descriptorComplete (st : Stall) (c : Dch)
  /-- R239. A consumer waiting on a finished stream is rejected. -/
  | streamEnd (st : Stall) (seq : Word)
  /-- R248. A RESUME continues a halted channel from its saved positions. -/
  | dmaResume (st : Stall) (c : Dch)
  /-- R251. Clearing EN stops issue and drains the channel. -/
  | dmaEnClear (st : Stall) (c : Dch)
  /-- R251. Setting EN continues a stopped walk or is held during a drain. -/
  | dmaEnSet (st : Stall) (c : Dch)
  /-- R251. In-flight transfers complete and the channel becomes STOPPED or applies a held enable. -/
  | dmaDrainEnd (st : Stall) (c : Dch)
  /-- R252. An ABORT stops issue, drains and discards the queue. -/
  | dmaAbort (st : Stall) (c : Dch)
  /-- R245. A short transfer completes or fails as a whole. -/
  | shortTransferComplete (st : Stall) (tag : BitVec 16)
  /-- R382. A PRG Response resumes or fails the accesses waiting on the page. -/
  | prgResponse (fn : Fn) (idx : BitVec 9) (code : BitVec 4)
  /-- R382. No PRG Response within FN_PRI_TMO acts as Response Failure. -/
  | priTimeout (fn : Fn) (page : Dword) (t : Dword)
  /-- R381. A Translation Completion fills the cache or leads to a page request. -/
  | translationCompletion (fn : Fn) (page : Dword) (size : Dword) (pa : Dword) (r : Bool) (w : Bool)
  /-- R383. An ATS Invalidation Request removes entries and completes after their accesses. -/
  | atsInvalidation (fn : Fn) (addr : Dword) (size : Dword)
  /-- R375. The device fetches a command from a function's command ring. -/
  | ledgerFetch (fn : Fn)
  /-- R288. A SUBMIT takes a FREE entry, queues the request and issues OPENED. -/
  | submit (fn : Fn)
  /-- R301. Sets CANCEL_REQ on the request. -/
  | cancel (fn : Fn)
  /-- R304. Sets PAUSE_REQ with a TTL. -/
  | pause (fn : Fn)
  /-- R306. Sets RESUME_REQ on a paused request. -/
  | resume (fn : Fn)
  /-- R288. Sets IMPORT_DONE and LAST_TOK for an imported request. -/
  | importDone (fn : Fn)
  /-- R290. The paddock sequencer plans the next step. -/
  | hingePlan (p : Paddock)
  /-- R291. The plan becomes visible in one MCLK and the stalls are started. -/
  | hingeCommit (p : Paddock)
  /-- R289. A 1 ms boundary of TB starts a hinge for an idle or stopped paddock. -/
  | hingeTick (p : Paddock) (t : Dword)
  /-- R304. A pause, eviction or restore copy completes and takes effect at the next commit. -/
  | kvCopyDone (ix : LedgerIx)
  /-- R308. At each 1 ms boundary every tenant budget is refilled up to its cap. -/
  | tntRefill (t : Dword)
  /-- R312. A write of PDK_CTRL.OPEN opens admission or is held during ABORTING. -/
  | pdkOpen (p : Paddock) (v : Bool)
  /-- R312. Cancels every live entry of the slice and clears OPEN. -/
  | abortAll (p : Paddock)
  /-- R335. A token record is issued to the output ring and the ledger counters update. -/
  | recordIssue (ix : LedgerIx)
  /-- R333. Every 1,000 TB counts the ledger rereads TAIL while records are held. -/
  | tailReread (ix : LedgerIx)
  /-- R333. After RING_WAIT µs the hinge plans without the holding requests. -/
  | ringWaitTimeout (p : Paddock) (t : Dword)
  /-- R374. Enabling a function's command ring checks its configuration. -/
  | fnEnSet (fn : Fn)
  /-- R377. Clearing FN_CTRL.EN stops fetches and drains. -/
  | fnEnClear (fn : Fn)
  /-- R377. A function's ring drain ends and any held enable takes effect. -/
  | fnDrainEnd (fn : Fn)
  /-- R375. A command doorbell write announces new commands. -/
  | fnLqDbell (fn : Fn) (tail : Word)
  /-- R375. A completion doorbell write updates CTAIL. -/
  | fnCqDbell (fn : Fn) (tail : Word)
  /-- R379. A stall doorbell write announces direct-queue records. -/
  | stlDbell (st : Stall) (tail : Word)
  /-- R378. A stall takes a record from its direct queue into the dispatcher window. -/
  | directQueueTake (st : Stall)
  /-- R372. A posted write through a BAR2 aperture lands in device memory. -/
  | apertureWrite (off : BitVec 40) (data : List Byte)
  /-- R372. A read through a BAR2 aperture returns device memory. -/
  | apertureRead (off : BitVec 40) (len : Nat)
  /-- R385. FN_COAL.TIME after an unsignalled event sends an MSI-X message. -/
  | coalTimer (fn : Fn) (src : Nat) (t : Dword)
  /-- R386. A function-level reset of a VF. -/
  | vfFlr (k : Fn)
  /-- R396. A Dartin port receives a flit, checks it and delivers or forwards it. -/
  | flitReceive (k : Port) (flit : List Byte) (fec : Bool) (corrected : Nat)
  /-- R395. An IDLE flit carries link fields only. -/
  | idleFlit (k : Port)
  /-- R397. A received NAK resends held flits from ACK + 1. -/
  | nak (k : Port)
  /-- R409. Collective data is written to STAGE when its round is open. -/
  | collData (k : Port)
  /-- R410. The lead records a member's vote and may commit the round. -/
  | collVote (k : Port)
  /-- R411. A member commits STAGE to OUT or aborts the round. -/
  | collDecide (k : Port)
  /-- R416. A follower applies the lead's plan once every part has arrived. -/
  | hinge (k : Port)
  /-- R418. A ledger command arriving over Dartin is checked and applied. -/
  | ledgerCmd (k : Port)
  /-- R418. A completion of a remote ledger command arrives. -/
  | ledgerCpl (k : Port)
  /-- R420. The importer applies a KV page or side-table write and acknowledges it. -/
  | importWr (k : Port)
  /-- R421. The export engine records acknowledgements of its writes. -/
  | importAck (k : Port)
  /-- R421. The export engine starts walking and sending pages. -/
  | importReady (k : Port)
  /-- R393. A PING flit carries the sender's ID and TB. -/
  | ping (k : Port)
  /-- R395. A PONG flit answers a PING. -/
  | pong (k : Port)
  /-- R398. A port goes DOWN after failed replays or 4 µs without a good flit. -/
  | portDown (k : Port) (t : Dword)
  /-- R398. A down port retrains at once, after 1 s and after 10 s. -/
  | portRetrain (k : Port) (t : Dword)
  /-- R393. Port training ends and the peer ID is checked. -/
  | portTrainDone (k : Port) (ok : Bool) (peer : BitVec 16)
  /-- R409. A member opens a collective round and sends its data. -/
  | roundOpen (st : Stall) (place : BitVec 24)
  /-- R410. The lead's deadline for a round passes and it aborts. -/
  | roundDeadline (p : Paddock) (t : Dword)
  /-- R411. A member without a decision after 2 × DEADLINE_US aborts and breaks the group. -/
  | noDecision (p : Paddock) (t : Dword)
  /-- R417. A missing plan part after 2 × DEADLINE_US sets DIVERGED. -/
  | planPartTimeout (p : Paddock) (t : Dword)
  /-- R421. A write to EXP_PUSH queues an export descriptor. -/
  | expPush (v : Dword)
  /-- R421. An import write unacknowledged for 100 µs is sent again. -/
  | exportResend (t : Dword)
  /-- R421. No IMPORT_READY within 1 s fails the export with NO_READY. -/
  | exportReadyTimeout (t : Dword)
  /-- R440. After release of cold reset the device boots, tests memory and loads the tack image. -/
  | coldBoot (r : BootResults)
  /-- R444. A device reset reloads the image and frees every entry. -/
  | deviceReset (cause : BitVec 4)
  /-- R445. A paddock reset resets its stalls and marks the step for replay. -/
  | paddockReset (p : Paddock)
  /-- R445. 200 SCLK after a paddock reset the ostler tests each stall and sets RUN. -/
  | quickSelfTest (p : Paddock) (failed : BitVec 16)
  /-- R253. A stall reset stops engines, channels and grooms without a drain. -/
  | stallReset (st : Stall)
  /-- R443. 100 ms without service raises a device reset. -/
  | ostlerWatchdog (t : Dword)
  /-- R446. Steps not at STEP_END 2 ms into a power-down are abandoned. -/
  | powerdownStepTimeout (t : Dword)
  /-- R454. A write to FLT_TAIL frees log entries or sets TAIL_BAD. -/
  | fltTailWrite (v : Word)
  /-- R455. A full or 100 ms old page of log entries is programmed to flash. -/
  | persistPageProgram (t : Dword)
  /-- R463. Every 50 µs the ostler evaluates package power and moves the cap level. -/
  | powerEval (avg : BitVec 16) (last : BitVec 16)
  /-- R462. A write to PWR_CTRL.LIMIT sets the power limit or is ignored. -/
  | pwrLimitWrite (v : BitVec 12)
  /-- R498. The ostler polls regulator telemetry over PMBus. -/
  | pmbusPoll (rail : Fin 9) (answer : Option (BitVec 16 × BitVec 16))
  /-- R498. PMB_ALERT# low starts a STATUS_WORD poll of every rail. -/
  | pmbAlert (words : List (Option (BitVec 16)))
  /-- R469. A supply sag stops flash operations and abandons pending writes. -/
  | supplySag (aux : Bool) (bod : Bool)
  /-- R471. A droop detector stretches its island's clock and counts. -/
  | droopTrip (n : Fin 25)
  /-- R497. SMBus command 0x30 with 0xA5 requests an orderly power-down. -/
  | smbPowerdownRequest (v : SmbWrite)
  /-- R500. JTAG SAMPLE/PRELOAD instruction. -/
  | samplePreload (preload : TapScan)
  /-- R500. JTAG EXTEST boundary scan, only in cold reset. -/
  | extest (drive : TapScan)
  /-- R7. A register read by a PCIe function or the ostler returns the field and, for an RC field, clears it, and a low-half read of a 64-bit register captures the high half. -/
  | regRead (req : Requester) (off : BitVec 32) (size : Nat)
  /-- R368. A PCIe configuration request changes a function's capabilities, such as its power state, ATS or PRI enable, or NumVFs. -/
  | configurationRequest (fn : Fn) (w : CfgReq)
  /-- R380. A non-posted read of host memory that gets no completion within the completion timeout fails with ADDR_FAULT and sets CPL_ERR. -/
  | completionTimeout (fn : Fn)
  /-- R343. The SCC meets an unlisted instruction encoding or a misaligned or out-of-range fetch and raises ILLEGAL or FETCH without executing anything. -/
  | illegal (st : Stall) (word : Word)
  /-- R149. A groom core meets an unlisted instruction or fetches beyond CODE_LEN, faults and ends its sequence with ERR. -/
  | groomUnlistedInstruction (n : GroomIx)
  /-- R387. A function-level reset of the PF. -/
  | pfFlr
  /-- R388. Clearing VF Enable resets every VF. -/
  | vfEnableClear
  /-- R388. Setting VF Enable, held while a drain runs. -/
  | vfEnableSet
  /-- R405. DRT_CTRL.REVERT returns routes to PRIMARY. -/
  | revert
  /-- R436. A tack load of a whole image. -/
  | loadImage
  /-- R437. Replaces or creates one paddock. -/
  | loadPaddock
  /-- R436. The paddock ceases. -/
  | unloadPaddock
  /-- R436. Writes staged bytes to a flash region and slot. -/
  | flashWrite
  /-- R436. Sets the boot slot in the flash directory. -/
  | slotSelect
  /-- R428. Empties the flash map-out list. -/
  | maplistClear
  /-- R426. Programs the tack key hash into fuses once. -/
  | keyProg
  /-- R435. Releases the next hinge of a paddock waiting after a stall loss. -/
  | shrinkDone
  /-- R436. Copies flash bytes to the staged bytes. -/
  | flashRead
  /-- R446. An orderly power-down runs its steps and sets POWERDOWN_READY. -/
  | powerdown
  /-- R453. The ostler appends a queued event to the fault log or drops it. -/
  | faultAppend
  /-- R464. An over-current estimate or warning sets cap level 4 within 1 µs. -/
  | fastLimit
  /-- R469. On recovery the ostler retries map-out and repair-table entries. -/
  | sagClear
  /-- R489. PWRGD rising, with PERST# high, releases cold reset. `gpio`: the levels of GPIO[7:0] (R496). -/
  | pwrgdRise
  /-- R490. PWRGD falling enters cold reset within 1 µs. -/
  | pwrgdFall
  /-- R489. PERST# asserted with PWRGD high takes a cold reset. -/
  | perstAssert
  /-- R489. PERST# deasserting releases cold reset. -/
  | perstDeassert
  /-- R493. REFCLK_PCIE stopped 10 µs causes a cold reset. -/
  | refclkPcieLoss
  /-- R493. The device leaves cold reset 1 ms after REFCLK_PCIE returns. -/
  | refclkPcieReturn
  /-- R493. REFCLK_DRT stopping takes every Dartin port down. -/
  | refclkDrtLoss
  /-- R497. SMBus command 0x01 returns DEV_ID[31:16]. -/
  | smbReadDevIdHi
  /-- R497. SMBus command 0x02 returns DEV_ID[15:8]. -/
  | smbReadDevIdStep
  /-- R497. SMBus command 0x10 returns the highest stack temperature. -/
  | smbReadStackTemp
  /-- R497. SMBus command 0x11 returns the highest stall temperature. -/
  | smbReadStallTemp
  /-- R497. SMBus command 0x12 returns the 1 ms average power. -/
  | smbReadPower
  /-- R497. SMBus command 0x20 returns trip, throttle, cap and mode bits. -/
  | smbReadStatus
  /-- R497. SMBus command 0x21 returns GPIO[7:4]. -/
  | smbReadGpio
  /-- R500. JTAG BYPASS instruction. -/
  | bypass
  /-- R500. JTAG IDCODE instruction returns the 32-bit ID. -/
  | idcode
  /-- R500. IEEE 1149.6 EXTEST_PULSE on PCIe and Dartin lanes. -/
  | extestPulse
  /-- R500. IEEE 1149.6 EXTEST_TRAIN on PCIe and Dartin lanes. -/
  | extestTrain
  /-- R493. REFCLK_DRT returns and the Dartin ports may retrain on the schedule of R398. -/
  | refclkDrtReturn
deriving DecidableEq, Repr

end Sys2Proof
end

