-- ==== Sys2Proof/Decode.lean ====
section
/-! DEFINITION. The commands of the part have no encoding: opcode_table.json gives no row bits. -/
namespace Sys2Proof

/-- The command a word spells by the table's bits: no row has bits. -/
def decodeTableWord (_nbits _w : Nat) : Option Instr := none

end Sys2Proof
end

