-- ==== Sys2Proof/Machine/Float.lean ====
section
/-! DEFINITION. The number formats and the arithmetic every engine shares (02_numerics.md R35 to R63): exact values, one rounding. -/
namespace Sys2Proof.Machine

/-- A value taken exactly: a NaN, an infinity, or ± m × 2^e (zero has m = 0 and keeps its sign, R52). -/
inductive Fv
  | nan
  | inf (neg : Bool)
  | fin (neg : Bool) (m : Nat) (e : Int)
deriving DecidableEq, Repr

/-- A float format of 02_numerics.md: exponent and fraction bits, bias, the largest finite code magnitude, the code magnitude of
infinity and of the canonical NaN where the format has them (R38). -/
structure FFmt where
  ebits : Nat
  fbits : Nat
  bias : Nat
  maxFin : Nat
  inf : Option Nat
  nan : Option Nat
deriving DecidableEq, Repr

def fE2M1 : FFmt := ⟨2, 1, 1, 0x7, none, none⟩
def fE3M2 : FFmt := ⟨3, 2, 3, 0x1F, none, none⟩
def fE4M3 : FFmt := ⟨4, 3, 7, 0x7E, none, some 0x7F⟩
def fE5M2 : FFmt := ⟨5, 2, 15, 0x7B, some 0x7C, some 0x7F⟩
def fEX16 : FFmt := ⟨8, 7, 127, 0x7F7F, some 0x7F80, some 0x7FC0⟩
def fFP16 : FFmt := ⟨5, 10, 15, 0x7BFF, some 0x7C00, some 0x7E00⟩
def fFP32 : FFmt := ⟨8, 23, 127, 0x7F7FFFFF, some 0x7F800000, some 0x7FC00000⟩

/-- The value a code names. -/
def fvDecode (f : FFmt) (c : Nat) : Fv :=
  let neg := decide (c / 2 ^ (f.ebits + f.fbits) % 2 = 1)
  let mag := c % 2 ^ (f.ebits + f.fbits)
  if mag > f.inf.getD f.maxFin then .nan
  else if f.inf = some mag then .inf neg
  else
    let ex := mag / 2 ^ f.fbits
    let fr := mag % 2 ^ f.fbits
    if ex = 0 then .fin neg fr (1 - (f.bias : Int) - f.fbits)
    else .fin neg (fr + 2 ^ f.fbits) ((ex : Int) - f.bias - f.fbits)

/-- m / 2^s rounded to an integer: to nearest, ties to even (R45) or, with `away`, ties away from zero (R46). -/
def roundShift (away : Bool) (m s : Nat) : Nat :=
  let q := m >>> s
  let r := m - (q <<< s)
  if 2 * r > 2 ^ s then q + 1
  else if 2 * r = 2 ^ s then (if away || q % 2 = 1 then q + 1 else q)
  else q

/-- m × 2^e as an integer number of units of 2^q. -/
def roundTo (away : Bool) (m : Nat) (e q : Int) : Nat :=
  if e ≥ q then m <<< (e - q).toNat else roundShift away m (q - e).toNat

/-- The code magnitude of m × 2^e rounded once to the format, the exponent unbounded above (R47 rounds before it compares). -/
def roundMag (away : Bool) (f : FFmt) (m : Nat) (e : Int) : Nat :=
  if m = 0 then 0
  else
    let top := e + (Nat.log2 m : Int)
    let q := max (top - f.fbits) (1 - (f.bias : Int) - f.fbits)
    let r := roundTo away m e q
    (q + f.bias + f.fbits).toNat * 2 ^ f.fbits + r - 2 ^ f.fbits

def signBit (f : FFmt) (neg : Bool) : Nat := if neg then 2 ^ (f.ebits + f.fbits) else 0

/-- Rounding as IEEE 754 arithmetic gives it: beyond the largest finite value comes the infinity of the sign (R42, R54). Only for
formats that have an infinity and a NaN. -/
def fvEncode (f : FFmt) (v : Fv) : Nat :=
  match v with
  | .nan => f.nan.getD 0
  | .inf n => signBit f n + f.inf.getD f.maxFin
  | .fin n m e =>
    let c := roundMag false f m e
    signBit f n + (if c > f.maxFin then f.inf.getD f.maxFin else c)

def fvIsNan (v : Fv) : Bool := match v with | .nan => true | _ => false
def fvIsInf (v : Fv) : Bool := match v with | .inf _ => true | _ => false
def fvIsFin (v : Fv) : Bool := match v with | .fin .. => true | _ => false

/-- The exact sum of two finite values: an exact zero is +0 unless both addends are negative (R52). -/
def fvAdd (a b : Fv) : Fv :=
  match a, b with
  | .nan, _ => .nan
  | _, .nan => .nan
  | .inf x, .inf y => if x = y then .inf x else .nan
  | .inf x, _ => .inf x
  | _, .inf y => .inf y
  | .fin x m e, .fin y k g =>
    let q := min e g
    let i : Int := (m : Int) * 2 ^ (e - q).toNat
    let j : Int := (k : Int) * 2 ^ (g - q).toNat
    let s := (if x then -i else i) + (if y then -j else j)
    .fin (if s = 0 then x && y else decide (s < 0)) s.natAbs q

def fvMul (a b : Fv) : Fv :=
  match a, b with
  | .nan, _ => .nan
  | _, .nan => .nan
  | .inf x, .inf y => .inf (x != y)
  | .inf x, .fin y m _ => if m = 0 then .nan else .inf (x != y)
  | .fin x m _, .inf y => if m = 0 then .nan else .inf (x != y)
  | .fin x m e, .fin y k g => .fin (x != y) (m * k) (e + g)

def fvNeg (a : Fv) : Fv :=
  match a with
  | .nan => .nan
  | .inf x => .inf (!x)
  | .fin x m e => .fin (!x) m e

/-- Quotient carried to 64 bits beyond the divisor with a sticky bit below, so that one rounding of it is the correct one. -/
def fvDiv (a b : Fv) : Fv :=
  match a, b with
  | .nan, _ => .nan
  | _, .nan => .nan
  | .inf _, .inf _ => .nan
  | .inf x, .fin y _ _ => .inf (x != y)
  | .fin x _ _, .inf y => .fin (x != y) 0 0
  | .fin x m e, .fin y k g =>
    if k = 0 then (if m = 0 then .nan else .inf (x != y))
    else
      let s := 64 + Nat.log2 k
      let n := m <<< s
      .fin (x != y) (2 * (n / k) + (if n % k = 0 then 0 else 1)) (e - g - s - 1)

/-- The integer square root, one bit of the root at a time from bit `b` down. -/
def isqrtGo (n : Nat) : Nat → Nat → Nat
  | 0, r => r
  | b + 1, r =>
    let t := r + 2 ^ b
    isqrtGo n b (if t * t ≤ n then t else r)

def isqrt (n : Nat) : Nat := isqrtGo n (Nat.log2 n / 2 + 1) 0

/-- Square root with 64 or more bits and a sticky bit: −0 gives −0, a negative value NaN (IEEE 754). -/
def fvSqrt (a : Fv) : Fv :=
  match a with
  | .nan => .nan
  | .inf x => if x then .nan else .inf false
  | .fin x m e =>
    if m = 0 then .fin x 0 0
    else if x then .nan
    else
      let s := if e % 2 = 0 then 128 else 129
      let n := m <<< s
      let r := isqrt n
      .fin false (2 * r + (if r * r = n then 0 else 1)) ((e - s) / 2 - 1)

/-- a < b on exact values, neither NaN; +0 and −0 are equal (R61). -/
def fvLt (a b : Fv) : Bool :=
  match a, b with
  | .nan, _ => false
  | _, .nan => false
  | .inf x, .inf y => x && !y
  | .inf x, _ => x
  | _, .inf y => !y
  | .fin x m e, .fin y k g =>
    let q := min e g
    let i : Int := (m : Int) * 2 ^ (e - q).toNat
    let j : Int := (k : Int) * 2 ^ (g - q).toNat
    decide ((if x then -i else i) < (if y then -j else j))

def fvEq (a b : Fv) : Bool := !fvIsNan a && !fvIsNan b && !fvLt a b && !fvLt b a

/- FP32 on words -/

def f32Dec (w : Word) : Fv := fvDecode fFP32 w.toNat
def f32Enc (v : Fv) : Word := BitVec.ofNat 32 (fvEncode fFP32 v)
def f32NaN : Word := 0x7FC00000#32
def f32Zero : Word := 0#32
def f32One : Word := 0x3F800000#32
def f32IsNan (w : Word) : Bool := fvIsNan (f32Dec w)
def f32IsInf (w : Word) : Bool := fvIsInf (f32Dec w)
def f32IsFin (w : Word) : Bool := fvIsFin (f32Dec w)
/-- One FP32 addition, to nearest, ties to even (R54). -/
def f32Add (a b : Word) : Word := f32Enc (fvAdd (f32Dec a) (f32Dec b))
def f32Mul (a b : Word) : Word := f32Enc (fvMul (f32Dec a) (f32Dec b))
def f32Sub (a b : Word) : Word := f32Enc (fvAdd (f32Dec a) (fvNeg (f32Dec b)))
def f32Div (a b : Word) : Word := f32Enc (fvDiv (f32Dec a) (f32Dec b))
def f32Sqrt (a : Word) : Word := f32Enc (fvSqrt (f32Dec a))
def f32Lt (a b : Word) : Bool := fvLt (f32Dec a) (f32Dec b)
def f32Eq (a b : Word) : Bool := fvEq (f32Dec a) (f32Dec b)
def f32Le (a b : Word) : Bool := f32Lt a b || f32Eq a b
/-- One fused product and sum, rounded once. -/
def f32Fma (a b c : Word) : Word := f32Enc (fvAdd (fvMul (f32Dec a) (f32Dec b)) (f32Dec c))
/-- A NaN of any payload becomes the canonical quiet NaN (R38). -/
def f32Canon (a : Word) : Word := if f32IsNan a then f32NaN else a
/-- A Nat as FP32, rounded once. -/
def f32OfNat (n : Nat) : Word := f32Enc (.fin false n 0)

/-! ### Format codes (R35 to R41) -/

def fmtBits (c : Nat) : Nat :=
  match c with
  | 0 => 4 | 1 => 6 | 2 => 8 | 3 => 8 | 4 => 4 | 5 => 8 | 6 => 16 | 7 => 16 | 8 => 32 | _ => 0

def fmtOk (c : Nat) : Bool := decide (c ≤ 8)
def fmtIsInt (c : Nat) : Bool := c == 4 || c == 5
/-- Codes the MXE and the grooms take as operands: all but FP32 (R35). -/
def fmtMatrixOk (c : Nat) : Bool := decide (c ≤ 7)

def fmtFloat (c : Nat) : FFmt :=
  match c with
  | 0 => fE2M1 | 1 => fE3M2 | 2 => fE4M3 | 3 => fE5M2 | 6 => fEX16 | 7 => fFP16 | _ => fFP32

/-- The value of a stored code, an integer's zero point subtracted exactly in one extra bit (R39, R40). -/
def widen (fmt : Nat) (zp : Option Nat) (code : Nat) : Fv :=
  if fmtIsInt fmt then
    let w := fmtBits fmt
    let i : Int := match zp with
      | some z => (code : Int) - z
      | none => if code ≥ 2 ^ (w - 1) then (code : Int) - 2 ^ w else code
    .fin (decide (i < 0)) i.natAbs 0
  else fvDecode (fmtFloat fmt) code

/-- What narrowing one element answers: the code, whether it saturated (R47, R48, R51) and whether a NaN met a format without one
(R50). -/
structure Narrowed where
  code : Nat
  sat : Bool := false
  nanLost : Bool := false
deriving DecidableEq, Repr

/-- A signed integer as an INT4 or INT8 code: the nearest end of the range of R39 where it lies outside (R48). -/
def narrowInt (w : Nat) (zp : Option Nat) (i : Int) : Narrowed :=
  match zp with
  | some z =>
    let j := i + z
    if j < 0 then ⟨0, true, false⟩
    else if j > 2 ^ w - 1 then ⟨2 ^ w - 1, true, false⟩
    else ⟨j.toNat, false, false⟩
  | none =>
    if i < -(2 ^ (w - 1) : Int) then ⟨2 ^ (w - 1), true, false⟩
    else if i > 2 ^ (w - 1) - 1 then ⟨2 ^ (w - 1) - 1, true, false⟩
    else ⟨(i % 2 ^ w).toNat, false, false⟩

/-- Narrowing of an exact value to a format for storage (R46 to R51); widening is the same function where nothing rounds. -/
def narrow (away : Bool) (fmt : Nat) (zp : Option Nat) (v : Fv) : Narrowed :=
  if fmtIsInt fmt then
    let w := fmtBits fmt
    match v with
    | .nan => ⟨zp.getD 0, false, true⟩
    | .inf n =>
      match zp with
      | some _ => ⟨if n then 0 else 2 ^ w - 1, true, false⟩
      | none => ⟨if n then 2 ^ (w - 1) else 2 ^ (w - 1) - 1, true, false⟩
    | .fin n m e =>
      let r : Int := roundTo away m e 0
      narrowInt w zp (if n then -r else r)
  else
    let f := fmtFloat fmt
    match v with
    | .nan => match f.nan with | some c => ⟨c, false, false⟩ | none => ⟨0, false, true⟩
    | .inf n =>
      match f.inf with
      | some c => ⟨signBit f n + c, false, false⟩
      | none => ⟨signBit f n + f.maxFin, true, false⟩
    | .fin n m e =>
      let c := roundMag away f m e
      if c > f.maxFin then ⟨signBit f n + f.maxFin, true, false⟩ else ⟨signBit f n + c, false, false⟩

/-- The FP32 word a stored code widens to, exactly. -/
def widen32 (fmt : Nat) (zp : Option Nat) (code : Nat) : Word := f32Enc (widen fmt zp code)

/-- An FP32 word of a value produced by an engine, with the two accumulation conditions of R54. -/
structure FAcc where
  v : Word
  inf : Bool := false
  nan : Bool := false
deriving DecidableEq, Repr

/-- Expansion of a stored code to EX16 at the operand port (R41), times the BF16 scale of its output channel, rounded once (R42). The
`inf` mark: a finite code and a finite scale gave an infinity. -/
def expandEX16 (fmt : Nat) (zp : Option Nat) (scale : Option Nat) (code : Nat) : FAcc :=
  let x := fvEncode fEX16 (widen fmt zp code)
  match scale with
  | none => ⟨BitVec.ofNat 32 (x * 65536), false, false⟩
  | some c =>
    let a := fvDecode fEX16 x
    let b := fvDecode fEX16 c
    let y := fvEncode fEX16 (fvMul a b)
    ⟨BitVec.ofNat 32 (y * 65536), fvIsFin a && fvIsFin b && fvIsInf (fvDecode fEX16 y), false⟩

/-- The product of two EX16 operands (held as the FP32 words of the same value), exact and rounded once to FP32 (R53). It counts as
part of the accumulation: one that overflows sets ACC_INF, and ∞ × 0 sets ACC_NAN (DESIGN CHOICE, notes/assumptions/75.md). -/
def accMul (a b : Word) : FAcc :=
  let p := f32Mul a b
  ⟨p, f32IsInf p && f32IsFin a && f32IsFin b, f32IsNan p && !f32IsNan a && !f32IsNan b⟩

/-- fp32_add of R57, its conditions of R54 joined to those of its operands. -/
def accAdd (a b : FAcc) : FAcc :=
  let s := f32Add a.v b.v
  ⟨s, a.inf || b.inf || (f32IsInf s && f32IsFin a.v && f32IsFin b.v),
    a.nan || b.nan || (f32IsNan s && !f32IsNan a.v && !f32IsNan b.v)⟩

/-- One level of a pairwise tree. -/
def pairUp : List FAcc → List FAcc
  | a :: b :: r => accAdd a b :: pairUp r
  | l => l

/-- The value of a balanced tree over 2^n leaves. -/
def treeAdd : Nat → List FAcc → FAcc
  | 0, l => l.headD ⟨0, false, false⟩
  | n + 1, l => treeAdd n (pairUp l)

/-- The length of one eighth of a dot product of length K (R57). -/
def eighth (k : Nat) : Nat := 32 * ((k + 255) / 256)

/-- One chunk of 32 products, the positions at or beyond K padded with +0. -/
def chunkSum (prod : Nat → FAcc) (k start : Nat) : FAcc :=
  treeAdd 5 ((List.range 32).map fun i => if start + i < k then prod (start + i) else ⟨0, false, false⟩)

/-- leaf[j] of R57: its chunks added in index order. -/
def leafSum (prod : Nat → FAcc) (k j : Nat) : FAcc :=
  let e := eighth k
  match (List.range (e / 32)).map fun c => chunkSum prod k (j * e + c * 32) with
  | [] => ⟨0, false, false⟩
  | s :: r => r.foldl accAdd s

/-- The result of part `p` of `parts` (1, 2, 4 or 8) of a dot product of full length `k` (R57, R58). -/
def partDot (prod : Nat → FAcc) (k parts p : Nat) : FAcc :=
  let n := 8 / parts
  treeAdd (Nat.log2 n) ((List.range n).map fun i => leafSum prod k (p * n + i))

/-- Comparison of two (value, index) candidates of MAX (or MIN), the lowest index winning a tie, the lowest-indexed NaN winning
all (R61, R62). -/
def maxStep (isMin : Bool) (best : Option (Word × Nat)) (v : Word) (i : Nat) : Option (Word × Nat) :=
  match best with
  | none => some (if f32IsNan v then f32NaN else v, i)
  | some (b, k) =>
    match f32IsNan b, f32IsNan v with
    | true, true => some (b, min k i)
    | true, false => best
    | false, true => some (f32NaN, i)
    | false, false =>
      let win := if isMin then f32Lt v b else f32Lt b v
      if win then some (v, i) else if f32Eq v b && decide (i < k) then some (v, i) else best

end Sys2Proof.Machine
end

