-- ==== Sys2Proof/Machine/Elementary.lean ====
section
/-! DEFINITION. RCP, RSQRT, SQRT, EXP2 and LOG2, each the exact result rounded once (05_vector_and_reduction.md R123), carried in
fixed point at 256 fraction bits (notes/assumptions/18.md), and the composites of R124. -/
namespace Sys2Proof.Machine

/-- 1 / √a. -/
def fvRsqrt (a : Fv) : Fv :=
  match a with
  | .nan => .nan
  | .inf x => if x then .nan else .fin false 0 0
  | .fin x m e =>
    if m = 0 then .inf x
    else if x then .nan
    else
      let k := if e % 2 = 0 then m else 2 * m
      let h := (if e % 2 = 0 then e else e - 1) / 2
      let t := 96 + Nat.log2 k
      let n := 2 ^ (2 * t)
      let r := isqrt (n / k)
      .fin false (2 * r + (if r * r * k = n then 0 else 1)) (-h - t - 1)

/-- Fraction bits of the fixed-point values below. -/
def fixBits : Nat := 256

/-- z + z³/3 + z⁵/5 + … in fixed point, `p` the power reached. -/
def atanhSeries (z2 : Nat) : Nat → Nat → Nat → Nat
  | 0, _, _ => 0
  | n + 1, k, p => p / k + atanhSeries z2 n (k + 2) (p * z2 / 2 ^ fixBits)

/-- The natural logarithm of 2: 2 artanh(1/3). -/
def ln2Fix : Nat := 2 * atanhSeries (2 ^ fixBits / 9) 90 1 (2 ^ fixBits / 3)

/-- 1 + x + x²/2 + … in fixed point, `t` the term reached. -/
def expSeries (x : Nat) : Nat → Nat → Nat → Nat
  | 0, _, _ => 0
  | n + 1, k, t => t + expSeries x n (k + 1) (t * x / 2 ^ fixBits / k)

/-- 2^a. An integer power is exact; any other is irrational, and the sticky bit below 256 bits stands for its rest. -/
def fvExp2 (a : Fv) : Fv :=
  match a with
  | .nan => .nan
  | .inf x => if x then .fin false 0 0 else .inf false
  | .fin x m e =>
    if m = 0 then .fin false 1 0
    else if e + (Nat.log2 m : Int) ≥ 9 then (if x then .fin false 1 (-1000) else .fin false 1 1000)
    else
      -- |a| in units of 2^−256, exact: an FP32 value has no bit below 2^−149
      let f := m <<< (e + 256).toNat
      let i : Int := if x then -((f : Int)) else f
      let n := i / 2 ^ fixBits
      let r := (i % 2 ^ fixBits).toNat
      if r = 0 then .fin false 1 n
      else .fin false (2 * expSeries (r * ln2Fix / 2 ^ fixBits) 80 1 (2 ^ fixBits) + 1) (n - 257)

/-- log₂ a. -/
def fvLog2 (a : Fv) : Fv :=
  match a with
  | .nan => .nan
  | .inf x => if x then .nan else .inf false
  | .fin x m e =>
    if m = 0 then .inf true
    else if x then .nan
    else
      let k := Nat.log2 m
      let i : Int := e + k
      let fx := (m <<< fixBits) >>> k
      if fx = 2 ^ fixBits then .fin (decide (i < 0)) i.natAbs 0
      else
        let z := ((fx - 2 ^ fixBits) <<< fixBits) / (fx + 2 ^ fixBits)
        let l := 2 * atanhSeries (z * z / 2 ^ fixBits) 90 1 z
        let v : Int := i * 2 ^ fixBits + ((l <<< fixBits) / ln2Fix : Nat)
        .fin (decide (v < 0)) (2 * v.natAbs + 1) (-257)

def f32Rcp (a : Word) : Word := f32Div f32One a
def f32Rsqrt (a : Word) : Word := f32Enc (fvRsqrt (f32Dec a))
def f32Exp2 (a : Word) : Word := f32Enc (fvExp2 (f32Dec a))
def f32Log2 (a : Word) : Word := f32Enc (fvLog2 (f32Dec a))
def f32NegW (a : Word) : Word := f32Canon (a ^^^ 0x80000000#32)
def f32AbsW (a : Word) : Word := f32Canon (a &&& 0x7FFFFFFF#32)

/-- EXP of R124; L2E = 0x3FB8_AA3B. -/
def f32Exp (a : Word) : Word := f32Exp2 (f32Mul a 0x3FB8AA3B#32)
def f32Sigmoid (a : Word) : Word := f32Rcp (f32Add f32One (f32Exp (f32NegW a)))
def f32Silu (a : Word) : Word := f32Mul a (f32Sigmoid a)
def f32Tanh (a : Word) : Word := f32Fma 0x40000000#32 (f32Sigmoid (f32Mul 0x40000000#32 a)) 0xBF800000#32
/-- G1 = 0x3D37_2713 and G2 = 0x3FCC_422A, the FP32 values nearest to 0.044715 and 2√(2/π). -/
def f32GeluT (a : Word) : Word :=
  f32Mul a (f32Sigmoid (f32Mul 0x3FCC422A#32 (f32Fma 0x3D372713#32 (f32Mul a (f32Mul a a)) a)))

/-- The larger (or smaller) of two values: NaN if either is, +0 above −0 (R125). -/
def f32Max (a b : Word) : Word :=
  if f32IsNan a || f32IsNan b then f32NaN
  else if f32Lt a b then b else if f32Lt b a then a else if a.msb then b else a
def f32Min (a b : Word) : Word :=
  if f32IsNan a || f32IsNan b then f32NaN
  else if f32Lt a b then a else if f32Lt b a then b else if a.msb then a else b

/-- a rounded to EX16 precision and range, kept as FP32; the mark tells a saturation (R122 RNDX). -/
def f32Rndx (a : Word) : Word × Bool :=
  let r := narrow false 6 none (f32Dec a)
  (BitVec.ofNat 32 (r.code * 65536), r.sat)

end Sys2Proof.Machine
end

