-- ==== Sys2Proof/Machine/Regs.lean ====
section
/-! DEFINITION. Every memory-mapped register of the part, transcribed from the register tables of the chapters (the rule is
named at each): its place, repeat, width, reset value and the access code of each field (R7). -/
namespace Sys2Proof.Machine

/-- The access codes of 00_scope.md R7; the reserved fields are the bits no field covers. -/
inductive Acc | rw | ro | w1c | w1s | rc | wo
deriving DecidableEq, Repr

/-- Where a register lies: PF BAR0 offset of the first, step from one stall (or groom area) to the next, step of its repeat,
how many repeats, width in bytes, reset value. -/
structure Loc where
  base : Nat
  unitStep : Nat
  step : Nat
  count : Nat
  bytes : Nat
  reset : Nat
deriving DecidableEq, Repr

/-- A field of a register: its bits and its access code. -/
structure Fld where
  loc : Loc
  hi : Nat
  lo : Nat
  acc : Acc
deriving DecidableEq, Repr

namespace Reg

/-- 00_scope.md R4. -/
def DEV_ID : Loc := ⟨0x0, 0x0, 0x0, 1, 4, 0x71010000⟩
def DEV_ID_PART_NUM : Fld := ⟨DEV_ID, 31, 16, .ro⟩
def DEV_ID_SKU : Fld := ⟨DEV_ID, 15, 12, .ro⟩
def DEV_ID_STEP_MAJOR : Fld := ⟨DEV_ID, 11, 8, .ro⟩
def DEV_ID_STEP_MINOR : Fld := ⟨DEV_ID, 7, 4, .ro⟩
/-- 00_scope.md R4. -/
def DEV_CAP : Loc := ⟨0x4, 0x0, 0x0, 1, 4, 0x0⟩
def DEV_CAP_STALLS : Fld := ⟨DEV_CAP, 4, 0, .ro⟩
def DEV_CAP_STACKS : Fld := ⟨DEV_CAP, 11, 8, .ro⟩
def DEV_CAP_LP_PKGS : Fld := ⟨DEV_CAP, 20, 16, .ro⟩
def DEV_CAP_BLK_CRC : Fld := ⟨DEV_CAP, 24, 24, .ro⟩
/-- 02_numerics.md R70. -/
def NUM_STATUS : Loc := ⟨0x306000, 0x100000, 0x0, 1, 4, 0x0⟩
def NUM_STATUS_SAT_SEEN : Fld := ⟨NUM_STATUS, 0, 0, .w1c⟩
def NUM_STATUS_NAN_NARROW : Fld := ⟨NUM_STATUS, 1, 1, .w1c⟩
def NUM_STATUS_ACC_INF : Fld := ⟨NUM_STATUS, 2, 2, .w1c⟩
def NUM_STATUS_ACC_NAN : Fld := ⟨NUM_STATUS, 3, 3, .w1c⟩
def NUM_STATUS_SCALE_RANGE : Fld := ⟨NUM_STATUS, 4, 4, .w1c⟩
def NUM_STATUS_FMT_BAD : Fld := ⟨NUM_STATUS, 5, 5, .w1c⟩
/-- 02_numerics.md R70. -/
def NUM_SAT_CNT : Loc := ⟨0x306004, 0x100000, 0x0, 1, 4, 0x0⟩
def NUM_SAT_CNT_COUNT : Fld := ⟨NUM_SAT_CNT, 31, 0, .rc⟩
/-- 02_numerics.md R70. -/
def NUM_NAN_CNT : Loc := ⟨0x306008, 0x100000, 0x0, 1, 4, 0x0⟩
def NUM_NAN_CNT_COUNT : Fld := ⟨NUM_NAN_CNT, 31, 0, .rc⟩
/-- 02_numerics.md R70. -/
def NUM_IRQ_EN : Loc := ⟨0x30600c, 0x100000, 0x0, 1, 4, 0x0⟩
def NUM_IRQ_EN_EN : Fld := ⟨NUM_IRQ_EN, 5, 0, .rw⟩
/-- 02_numerics.md R70. -/
def HGU_CTRL : Loc := ⟨0x306100, 0x100000, 0x0, 1, 4, 0x0⟩
def HGU_CTRL_MODE : Fld := ⟨HGU_CTRL, 1, 0, .rw⟩
def HGU_CTRL_CLEAR : Fld := ⟨HGU_CTRL, 2, 2, .wo⟩
/-- 02_numerics.md R70. -/
def HGU_LO : Loc := ⟨0x306104, 0x100000, 0x0, 1, 4, 0x0⟩
def HGU_LO_LO : Fld := ⟨HGU_LO, 31, 0, .rw⟩
/-- 02_numerics.md R70. -/
def HGU_INVW : Loc := ⟨0x306108, 0x100000, 0x0, 1, 4, 0x3f800000⟩
def HGU_INVW_INVW : Fld := ⟨HGU_INVW, 31, 0, .rw⟩
/-- 02_numerics.md R70. -/
def HGU_STATUS : Loc := ⟨0x30610c, 0x100000, 0x0, 1, 4, 0x0⟩
def HGU_STATUS_BIN_SAT : Fld := ⟨HGU_STATUS, 0, 0, .w1c⟩
def HGU_STATUS_BUSY : Fld := ⟨HGU_STATUS, 1, 1, .ro⟩
/-- 02_numerics.md R70. -/
def HGU_NAN_CNT : Loc := ⟨0x306110, 0x100000, 0x0, 1, 4, 0x0⟩
def HGU_NAN_CNT_COUNT : Fld := ⟨HGU_NAN_CNT, 31, 0, .ro⟩
/-- 02_numerics.md R70. -/
def HGU_BIN : Loc := ⟨0x306400, 0x100000, 0x4, 256, 4, 0x0⟩
def HGU_BIN_COUNT : Fld := ⟨HGU_BIN, 31, 0, .ro⟩
/-- 02_numerics.md R70. -/
def SCL_FILE : Loc := ⟨0x310000, 0x100000, 0x4, 4096, 4, 0x3f803f80⟩
def SCL_FILE_SCALE_LO : Fld := ⟨SCL_FILE, 15, 0, .rw⟩
def SCL_FILE_SCALE_HI : Fld := ⟨SCL_FILE, 31, 16, .rw⟩
/-- 03_weight_compression.md R96. -/
def DEC_STATUS : Loc := ⟨0x306800, 0x100000, 0x0, 1, 4, 0x0⟩
def DEC_STATUS_DAMAGE : Fld := ⟨DEC_STATUS, 0, 0, .w1c⟩
def DEC_STATUS_DMG_OVF : Fld := ⟨DEC_STATUS, 1, 1, .w1c⟩
def DEC_STATUS_TBL_BAD : Fld := ⟨DEC_STATUS, 2, 2, .w1c⟩
def DEC_STATUS_TBL_MISS : Fld := ⟨DEC_STATUS, 3, 3, .w1c⟩
/-- 03_weight_compression.md R96. -/
def DEC_DMG_CNT : Loc := ⟨0x306804, 0x100000, 0x0, 1, 4, 0x0⟩
def DEC_DMG_CNT_COUNT : Fld := ⟨DEC_DMG_CNT, 31, 0, .rc⟩
/-- 03_weight_compression.md R96. -/
def DMG_TENSOR : Loc := ⟨0x306808, 0x100000, 0x0, 1, 4, 0x0⟩
def DMG_TENSOR_TENSOR_TAG : Fld := ⟨DMG_TENSOR, 15, 0, .ro⟩
def DMG_TENSOR_TABLE_ID : Fld := ⟨DMG_TENSOR, 25, 16, .ro⟩
def DMG_TENSOR_SUBSTREAM : Fld := ⟨DMG_TENSOR, 29, 26, .ro⟩
/-- 03_weight_compression.md R96. -/
def DMG_BLOCK : Loc := ⟨0x30680c, 0x100000, 0x0, 1, 4, 0x0⟩
def DMG_BLOCK_BLOCK : Fld := ⟨DMG_BLOCK, 31, 0, .ro⟩
/-- 03_weight_compression.md R96. -/
def DMG_WHERE : Loc := ⟨0x306810, 0x100000, 0x0, 1, 4, 0x0⟩
def DMG_WHERE_CAUSE : Fld := ⟨DMG_WHERE, 3, 0, .ro⟩
def DMG_WHERE_SRC : Fld := ⟨DMG_WHERE, 4, 4, .ro⟩
def DMG_WHERE_GROOM : Fld := ⟨DMG_WHERE, 7, 5, .ro⟩
def DMG_WHERE_CHANNEL : Fld := ⟨DMG_WHERE, 12, 8, .ro⟩
def DMG_WHERE_STACK : Fld := ⟨DMG_WHERE, 15, 13, .ro⟩
/-- 03_weight_compression.md R96. -/
def DEC_IRQ_EN : Loc := ⟨0x306814, 0x100000, 0x0, 1, 4, 0x0⟩
def DEC_IRQ_EN_EN : Fld := ⟨DEC_IRQ_EN, 3, 0, .rw⟩
/-- 03_weight_compression.md R96. -/
def TBL_BAD_ID : Loc := ⟨0x306818, 0x100000, 0x0, 1, 4, 0x0⟩
def TBL_BAD_ID_TABLE_ID : Fld := ⟨TBL_BAD_ID, 9, 0, .ro⟩
/-- 03_weight_compression.md R96. -/
def TBL_VALID : Loc := ⟨0x306880, 0x100000, 0x4, 32, 4, 0x0⟩
def TBL_VALID_VALID : Fld := ⟨TBL_VALID, 31, 0, .ro⟩
/-- 04_matrix_engine.md R115. -/
def MXE_STATUS : Loc := ⟨0x305000, 0x100000, 0x0, 1, 4, 0x0⟩
def MXE_STATUS_SHAPE_BAD : Fld := ⟨MXE_STATUS, 0, 0, .w1c⟩
def MXE_STATUS_OPND_RANGE : Fld := ⟨MXE_STATUS, 1, 1, .w1c⟩
def MXE_STATUS_POISON_SEEN : Fld := ⟨MXE_STATUS, 2, 2, .w1c⟩
/-- 04_matrix_engine.md R115. -/
def MXE_IRQ_EN : Loc := ⟨0x305004, 0x100000, 0x0, 1, 4, 0x0⟩
def MXE_IRQ_EN_EN : Fld := ⟨MXE_IRQ_EN, 2, 0, .rw⟩
/-- 04_matrix_engine.md R115. -/
def MXE_BUSY : Loc := ⟨0x305008, 0x100000, 0x0, 1, 4, 0x0⟩
def MXE_BUSY_ARRAY0 : Fld := ⟨MXE_BUSY, 0, 0, .ro⟩
def MXE_BUSY_ARRAY1 : Fld := ⟨MXE_BUSY, 1, 1, .ro⟩
def MXE_BUSY_WPATH : Fld := ⟨MXE_BUSY, 2, 2, .ro⟩
/-- 04_matrix_engine.md R115. -/
def MXE_REJ_CNT : Loc := ⟨0x30500c, 0x100000, 0x0, 1, 4, 0x0⟩
def MXE_REJ_CNT_COUNT : Fld := ⟨MXE_REJ_CNT, 31, 0, .rc⟩
/-- 04_matrix_engine.md R115. -/
def MXE_ISSUE_CNT : Loc := ⟨0x305010, 0x100000, 0x0, 1, 8, 0x0⟩
def MXE_ISSUE_CNT_COUNT : Fld := ⟨MXE_ISSUE_CNT, 63, 0, .ro⟩
/-- 04_matrix_engine.md R115. -/
def MXE_ROW_CNT : Loc := ⟨0x305018, 0x100000, 0x0, 1, 8, 0x0⟩
def MXE_ROW_CNT_COUNT : Fld := ⟨MXE_ROW_CNT, 63, 0, .ro⟩
/-- 04_matrix_engine.md R115. -/
def ACC_POISON0 : Loc := ⟨0x305040, 0x100000, 0x4, 4, 4, 0x0⟩
def ACC_POISON0_ROWS : Fld := ⟨ACC_POISON0, 31, 0, .ro⟩
/-- 04_matrix_engine.md R115. -/
def ACC_POISON1 : Loc := ⟨0x305050, 0x100000, 0x4, 4, 4, 0x0⟩
def ACC_POISON1_ROWS : Fld := ⟨ACC_POISON1, 31, 0, .ro⟩
/-- 05_vector_and_reduction.md R145. -/
def VXE_STATUS : Loc := ⟨0x305800, 0x100000, 0x0, 1, 4, 0x0⟩
def VXE_STATUS_DESC_BAD : Fld := ⟨VXE_STATUS, 0, 0, .w1c⟩
def VXE_STATUS_OP_BAD : Fld := ⟨VXE_STATUS, 1, 1, .w1c⟩
def VXE_STATUS_SEG_BAD : Fld := ⟨VXE_STATUS, 2, 2, .w1c⟩
def VXE_STATUS_V_INF : Fld := ⟨VXE_STATUS, 3, 3, .w1c⟩
def VXE_STATUS_V_NAN : Fld := ⟨VXE_STATUS, 4, 4, .w1c⟩
def VXE_STATUS_POISON_SEEN : Fld := ⟨VXE_STATUS, 5, 5, .w1c⟩
def VXE_STATUS_RED_EMPTY : Fld := ⟨VXE_STATUS, 6, 6, .w1c⟩
/-- 05_vector_and_reduction.md R145. -/
def VXE_IRQ_EN : Loc := ⟨0x305804, 0x100000, 0x0, 1, 4, 0x0⟩
def VXE_IRQ_EN_EN : Fld := ⟨VXE_IRQ_EN, 6, 0, .rw⟩
/-- 05_vector_and_reduction.md R145. -/
def VXE_BUSY : Loc := ⟨0x305808, 0x100000, 0x0, 1, 4, 0x0⟩
def VXE_BUSY_VXE : Fld := ⟨VXE_BUSY, 0, 0, .ro⟩
def VXE_BUSY_RDU : Fld := ⟨VXE_BUSY, 1, 1, .ro⟩
def VXE_BUSY_SEG_OPEN : Fld := ⟨VXE_BUSY, 2, 2, .ro⟩
/-- 05_vector_and_reduction.md R145. -/
def VXE_REJ_CNT : Loc := ⟨0x30580c, 0x100000, 0x0, 1, 4, 0x0⟩
def VXE_REJ_CNT_COUNT : Fld := ⟨VXE_REJ_CNT, 31, 0, .rc⟩
/-- 05_vector_and_reduction.md R145. -/
def VXE_ROW_CNT : Loc := ⟨0x305810, 0x100000, 0x0, 1, 8, 0x0⟩
def VXE_ROW_CNT_COUNT : Fld := ⟨VXE_ROW_CNT, 63, 0, .ro⟩
/-- 05_vector_and_reduction.md R145. -/
def SUMM : Loc := ⟨0x305840, 0x100000, 0x8, 8, 8, 0x0⟩
def SUMM_VALUE : Fld := ⟨SUMM, 31, 0, .ro⟩
def SUMM_INDEX : Fld := ⟨SUMM, 63, 32, .ro⟩
/-- 05_vector_and_reduction.md R145. -/
def SUMM_FLAGS : Loc := ⟨0x305880, 0x100000, 0x0, 1, 8, 0x0⟩
def SUMM_FLAGS_VALID0 : Fld := ⟨SUMM_FLAGS, 0, 0, .ro⟩
def SUMM_FLAGS_ANY_NAN0 : Fld := ⟨SUMM_FLAGS, 1, 1, .ro⟩
def SUMM_FLAGS_ANY_INF0 : Fld := ⟨SUMM_FLAGS, 2, 2, .ro⟩
def SUMM_FLAGS_ANY_POISON0 : Fld := ⟨SUMM_FLAGS, 3, 3, .ro⟩
def SUMM_FLAGS_EMPTY0 : Fld := ⟨SUMM_FLAGS, 4, 4, .ro⟩
def SUMM_FLAGS_SAT0 : Fld := ⟨SUMM_FLAGS, 5, 5, .ro⟩
def SUMM_FLAGS_VALID1 : Fld := ⟨SUMM_FLAGS, 8, 8, .ro⟩
def SUMM_FLAGS_ANY_NAN1 : Fld := ⟨SUMM_FLAGS, 9, 9, .ro⟩
def SUMM_FLAGS_ANY_INF1 : Fld := ⟨SUMM_FLAGS, 10, 10, .ro⟩
def SUMM_FLAGS_ANY_POISON1 : Fld := ⟨SUMM_FLAGS, 11, 11, .ro⟩
def SUMM_FLAGS_EMPTY1 : Fld := ⟨SUMM_FLAGS, 12, 12, .ro⟩
def SUMM_FLAGS_SAT1 : Fld := ⟨SUMM_FLAGS, 13, 13, .ro⟩
def SUMM_FLAGS_VALID2 : Fld := ⟨SUMM_FLAGS, 16, 16, .ro⟩
def SUMM_FLAGS_ANY_NAN2 : Fld := ⟨SUMM_FLAGS, 17, 17, .ro⟩
def SUMM_FLAGS_ANY_INF2 : Fld := ⟨SUMM_FLAGS, 18, 18, .ro⟩
def SUMM_FLAGS_ANY_POISON2 : Fld := ⟨SUMM_FLAGS, 19, 19, .ro⟩
def SUMM_FLAGS_EMPTY2 : Fld := ⟨SUMM_FLAGS, 20, 20, .ro⟩
def SUMM_FLAGS_SAT2 : Fld := ⟨SUMM_FLAGS, 21, 21, .ro⟩
def SUMM_FLAGS_VALID3 : Fld := ⟨SUMM_FLAGS, 24, 24, .ro⟩
def SUMM_FLAGS_ANY_NAN3 : Fld := ⟨SUMM_FLAGS, 25, 25, .ro⟩
def SUMM_FLAGS_ANY_INF3 : Fld := ⟨SUMM_FLAGS, 26, 26, .ro⟩
def SUMM_FLAGS_ANY_POISON3 : Fld := ⟨SUMM_FLAGS, 27, 27, .ro⟩
def SUMM_FLAGS_EMPTY3 : Fld := ⟨SUMM_FLAGS, 28, 28, .ro⟩
def SUMM_FLAGS_SAT3 : Fld := ⟨SUMM_FLAGS, 29, 29, .ro⟩
def SUMM_FLAGS_VALID4 : Fld := ⟨SUMM_FLAGS, 32, 32, .ro⟩
def SUMM_FLAGS_ANY_NAN4 : Fld := ⟨SUMM_FLAGS, 33, 33, .ro⟩
def SUMM_FLAGS_ANY_INF4 : Fld := ⟨SUMM_FLAGS, 34, 34, .ro⟩
def SUMM_FLAGS_ANY_POISON4 : Fld := ⟨SUMM_FLAGS, 35, 35, .ro⟩
def SUMM_FLAGS_EMPTY4 : Fld := ⟨SUMM_FLAGS, 36, 36, .ro⟩
def SUMM_FLAGS_SAT4 : Fld := ⟨SUMM_FLAGS, 37, 37, .ro⟩
def SUMM_FLAGS_VALID5 : Fld := ⟨SUMM_FLAGS, 40, 40, .ro⟩
def SUMM_FLAGS_ANY_NAN5 : Fld := ⟨SUMM_FLAGS, 41, 41, .ro⟩
def SUMM_FLAGS_ANY_INF5 : Fld := ⟨SUMM_FLAGS, 42, 42, .ro⟩
def SUMM_FLAGS_ANY_POISON5 : Fld := ⟨SUMM_FLAGS, 43, 43, .ro⟩
def SUMM_FLAGS_EMPTY5 : Fld := ⟨SUMM_FLAGS, 44, 44, .ro⟩
def SUMM_FLAGS_SAT5 : Fld := ⟨SUMM_FLAGS, 45, 45, .ro⟩
def SUMM_FLAGS_VALID6 : Fld := ⟨SUMM_FLAGS, 48, 48, .ro⟩
def SUMM_FLAGS_ANY_NAN6 : Fld := ⟨SUMM_FLAGS, 49, 49, .ro⟩
def SUMM_FLAGS_ANY_INF6 : Fld := ⟨SUMM_FLAGS, 50, 50, .ro⟩
def SUMM_FLAGS_ANY_POISON6 : Fld := ⟨SUMM_FLAGS, 51, 51, .ro⟩
def SUMM_FLAGS_EMPTY6 : Fld := ⟨SUMM_FLAGS, 52, 52, .ro⟩
def SUMM_FLAGS_SAT6 : Fld := ⟨SUMM_FLAGS, 53, 53, .ro⟩
def SUMM_FLAGS_VALID7 : Fld := ⟨SUMM_FLAGS, 56, 56, .ro⟩
def SUMM_FLAGS_ANY_NAN7 : Fld := ⟨SUMM_FLAGS, 57, 57, .ro⟩
def SUMM_FLAGS_ANY_INF7 : Fld := ⟨SUMM_FLAGS, 58, 58, .ro⟩
def SUMM_FLAGS_ANY_POISON7 : Fld := ⟨SUMM_FLAGS, 59, 59, .ro⟩
def SUMM_FLAGS_EMPTY7 : Fld := ⟨SUMM_FLAGS, 60, 60, .ro⟩
def SUMM_FLAGS_SAT7 : Fld := ⟨SUMM_FLAGS, 61, 61, .ro⟩
/-- 05_vector_and_reduction.md R145. -/
def STB_POISON_LINES : Loc := ⟨0x305890, 0x100000, 0x0, 1, 4, 0x0⟩
def STB_POISON_LINES_COUNT : Fld := ⟨STB_POISON_LINES, 18, 0, .ro⟩
/-- 05_vector_and_reduction.md R145. -/
def STB_POISON : Loc := ⟨0x320000, 0x100000, 0x4, 8192, 4, 0x0⟩
def STB_POISON_BITS : Fld := ⟨STB_POISON, 31, 0, .w1c⟩
/-- 06_grooms.md R180. -/
def GRM_CTRL : Loc := ⟨0x10000000, 0x100, 0x0, 1, 4, 0x0⟩
def GRM_CTRL_GO : Fld := ⟨GRM_CTRL, 0, 0, .w1s⟩
def GRM_CTRL_ABORT : Fld := ⟨GRM_CTRL, 1, 1, .w1s⟩
def GRM_CTRL_ENTRY : Fld := ⟨GRM_CTRL, 11, 8, .rw⟩
def GRM_CTRL_SEQ : Fld := ⟨GRM_CTRL, 31, 16, .rw⟩
/-- 06_grooms.md R180. -/
def GRM_STATUS : Loc := ⟨0x10000004, 0x100, 0x0, 1, 4, 0x1⟩
def GRM_STATUS_READY : Fld := ⟨GRM_STATUS, 0, 0, .ro⟩
def GRM_STATUS_BUSY : Fld := ⟨GRM_STATUS, 1, 1, .ro⟩
def GRM_STATUS_PENDING : Fld := ⟨GRM_STATUS, 2, 2, .ro⟩
def GRM_STATUS_DONE : Fld := ⟨GRM_STATUS, 3, 3, .w1c⟩
def GRM_STATUS_ERR : Fld := ⟨GRM_STATUS, 4, 4, .w1c⟩
def GRM_STATUS_ABORTED : Fld := ⟨GRM_STATUS, 5, 5, .w1c⟩
def GRM_STATUS_WDOG : Fld := ⟨GRM_STATUS, 6, 6, .w1c⟩
def GRM_STATUS_CORE_FAULT : Fld := ⟨GRM_STATUS, 7, 7, .w1c⟩
def GRM_STATUS_DESC_BAD : Fld := ⟨GRM_STATUS, 8, 8, .w1c⟩
def GRM_STATUS_ADDR_BAD : Fld := ⟨GRM_STATUS, 9, 9, .w1c⟩
def GRM_STATUS_SCALE_RANGE : Fld := ⟨GRM_STATUS, 10, 10, .w1c⟩
def GRM_STATUS_TBL_BAD : Fld := ⟨GRM_STATUS, 11, 11, .w1c⟩
def GRM_STATUS_TBL_MISS : Fld := ⟨GRM_STATUS, 12, 12, .w1c⟩
def GRM_STATUS_DAMAGE : Fld := ⟨GRM_STATUS, 13, 13, .w1c⟩
def GRM_STATUS_ACC_INF : Fld := ⟨GRM_STATUS, 14, 14, .w1c⟩
def GRM_STATUS_ACC_NAN : Fld := ⟨GRM_STATUS, 15, 15, .w1c⟩
def GRM_STATUS_SEQ_DONE : Fld := ⟨GRM_STATUS, 31, 16, .ro⟩
/-- 06_grooms.md R180. -/
def GRM_FAULT : Loc := ⟨0x10000008, 0x100, 0x0, 1, 4, 0x0⟩
def GRM_FAULT_FAULT_PC : Fld := ⟨GRM_FAULT, 13, 0, .ro⟩
def GRM_FAULT_FAULT_CAUSE : Fld := ⟨GRM_FAULT, 19, 16, .ro⟩
def GRM_FAULT_CHAIN_STUCK : Fld := ⟨GRM_FAULT, 31, 31, .w1c⟩
/-- 06_grooms.md R180. -/
def GRM_DMG_CNT : Loc := ⟨0x1000000c, 0x100, 0x0, 1, 4, 0x0⟩
def GRM_DMG_CNT_COUNT : Fld := ⟨GRM_DMG_CNT, 15, 0, .rc⟩
/-- 06_grooms.md R180. -/
def GRM_REF_CNT : Loc := ⟨0x10000010, 0x100, 0x0, 1, 4, 0x0⟩
def GRM_REF_CNT_COUNT : Fld := ⟨GRM_REF_CNT, 31, 0, .ro⟩
/-- 06_grooms.md R180. -/
def GRM_CYCLES : Loc := ⟨0x10000014, 0x100, 0x0, 1, 4, 0x0⟩
def GRM_CYCLES_COUNT : Fld := ⟨GRM_CYCLES, 31, 0, .ro⟩
/-- 06_grooms.md R180. -/
def GRM_CTX_SLOT : Loc := ⟨0x10000018, 0x100, 0x0, 1, 4, 0xfac688⟩
def GRM_CTX_SLOT_MAP : Fld := ⟨GRM_CTX_SLOT, 23, 0, .rw⟩
/-- 06_grooms.md R180. -/
def GRM_CTX_SCALE : Loc := ⟨0x1000001c, 0x100, 0x0, 1, 4, 0x0⟩
def GRM_CTX_SCALE_OFFSET : Fld := ⟨GRM_CTX_SCALE, 8, 0, .rw⟩
/-- 06_grooms.md R180. -/
def GRM_TBL : Loc := ⟨0x10000020, 0x100, 0x4, 8, 4, 0x0⟩
def GRM_TBL_TABLE_ID : Fld := ⟨GRM_TBL, 9, 0, .ro⟩
def GRM_TBL_VALID : Fld := ⟨GRM_TBL, 31, 31, .ro⟩
/-- 06_grooms.md R180. -/
def GRM_ARG : Loc := ⟨0x10000040, 0x100, 0x4, 32, 4, 0x0⟩
def GRM_ARG_ARG : Fld := ⟨GRM_ARG, 31, 0, .rw⟩
/-- 06_grooms.md R180. -/
def GRM_RET : Loc := ⟨0x100000c0, 0x100, 0x4, 16, 4, 0x0⟩
def GRM_RET_RET : Fld := ⟨GRM_RET, 31, 0, .ro⟩
/-- 06_grooms.md R181. -/
def GPORT_STATUS : Loc := ⟨0x390000, 0x100000, 0x0, 1, 4, 0x1⟩
def GPORT_STATUS_STARTUP : Fld := ⟨GPORT_STATUS, 0, 0, .ro⟩
def GPORT_STATUS_GP_BAD : Fld := ⟨GPORT_STATUS, 1, 1, .w1c⟩
def GPORT_STATUS_GP_CAUSE : Fld := ⟨GPORT_STATUS, 4, 2, .ro⟩
/-- 06_grooms.md R181. -/
def GPORT_WDOG : Loc := ⟨0x390004, 0x100000, 0x0, 1, 4, 0x0⟩
def GPORT_WDOG_LIMIT : Fld := ⟨GPORT_WDOG, 31, 0, .rw⟩
/-- 06_grooms.md R181. -/
def GPORT_SEL : Loc := ⟨0x390008, 0x100000, 0x0, 1, 4, 0x0⟩
def GPORT_SEL_GI : Fld := ⟨GPORT_SEL, 7, 0, .rw⟩
/-- 06_grooms.md R181. -/
def GPORT_READY : Loc := ⟨0x390020, 0x100000, 0x4, 8, 4, 0xffffffff⟩
def GPORT_READY_READY : Fld := ⟨GPORT_READY, 31, 0, .ro⟩
/-- 06_grooms.md R181. -/
def GPORT_MAP : Loc := ⟨0x390100, 0x100000, 0x4, 32, 4, 0x0⟩
def GPORT_MAP_CHANNEL : Fld := ⟨GPORT_MAP, 4, 0, .ro⟩
def GPORT_MAP_STACK : Fld := ⟨GPORT_MAP, 7, 5, .ro⟩
def GPORT_MAP_FAR : Fld := ⟨GPORT_MAP, 8, 8, .ro⟩
def GPORT_MAP_ADOPTED : Fld := ⟨GPORT_MAP, 16, 9, .ro⟩
def GPORT_MAP_VALID : Fld := ⟨GPORT_MAP, 31, 31, .ro⟩
/-- 08_memory_system.md R224. -/
def MEM_CTRL : Loc := ⟨0x10000, 0x0, 0x0, 1, 4, 0x1⟩
def MEM_CTRL_SCRUB_EN : Fld := ⟨MEM_CTRL, 0, 0, .rw⟩
/-- 08_memory_system.md R224. -/
def MEM_SCRUB_HRS : Loc := ⟨0x10004, 0x0, 0x0, 1, 4, 0x18⟩
def MEM_SCRUB_HRS_HOURS : Fld := ⟨MEM_SCRUB_HRS, 15, 0, .rw⟩
/-- 08_memory_system.md R224. -/
def MEM_LP_CFG : Loc := ⟨0x10008, 0x0, 0x0, 1, 4, 0x0⟩
def MEM_LP_CFG_HALVES : Fld := ⟨MEM_LP_CFG, 1, 0, .ro⟩
def MEM_LP_CFG_NCH : Fld := ⟨MEM_LP_CFG, 14, 8, .ro⟩
/-- 08_memory_system.md R224. -/
def STK_TEMP : Loc := ⟨0x10100, 0x0, 0x10, 8, 4, 0x0⟩
def STK_TEMP_TEMP : Fld := ⟨STK_TEMP, 7, 0, .ro⟩
def STK_TEMP_HOT : Fld := ⟨STK_TEMP, 8, 8, .ro⟩
def STK_TEMP_THROTTLE : Fld := ⟨STK_TEMP, 9, 9, .ro⟩
/-- 08_memory_system.md R224. -/
def STK_TEMP_MAX : Loc := ⟨0x10104, 0x0, 0x10, 8, 4, 0x0⟩
def STK_TEMP_MAX_TEMP : Fld := ⟨STK_TEMP_MAX, 7, 0, .rc⟩
/-- 08_memory_system.md R224. -/
def MEM_REPAIR_CMD : Loc := ⟨0x10200, 0x0, 0x0, 1, 4, 0x0⟩
def MEM_REPAIR_CMD_OP : Fld := ⟨MEM_REPAIR_CMD, 2, 0, .rw⟩
def MEM_REPAIR_CMD_GO : Fld := ⟨MEM_REPAIR_CMD, 3, 3, .w1s⟩
/-- 08_memory_system.md R224. -/
def MEM_REPAIR_ARG : Loc := ⟨0x10204, 0x0, 0x0, 1, 4, 0x0⟩
def MEM_REPAIR_ARG_STACK : Fld := ⟨MEM_REPAIR_ARG, 2, 0, .rw⟩
def MEM_REPAIR_ARG_CHANNEL : Fld := ⟨MEM_REPAIR_ARG, 7, 3, .rw⟩
def MEM_REPAIR_ARG_BANK : Fld := ⟨MEM_REPAIR_ARG, 12, 8, .rw⟩
def MEM_REPAIR_ARG_ROW : Fld := ⟨MEM_REPAIR_ARG, 27, 13, .rw⟩
/-- 08_memory_system.md R224. -/
def MEM_REPAIR_STATUS : Loc := ⟨0x10208, 0x0, 0x0, 1, 4, 0x0⟩
def MEM_REPAIR_STATUS_BUSY : Fld := ⟨MEM_REPAIR_STATUS, 0, 0, .ro⟩
def MEM_REPAIR_STATUS_DONE : Fld := ⟨MEM_REPAIR_STATUS, 1, 1, .w1c⟩
def MEM_REPAIR_STATUS_REFUSED : Fld := ⟨MEM_REPAIR_STATUS, 2, 2, .w1c⟩
def MEM_REPAIR_STATUS_SPARES_LEFT : Fld := ⟨MEM_REPAIR_STATUS, 13, 8, .ro⟩
def MEM_REPAIR_STATUS_LANE_USED : Fld := ⟨MEM_REPAIR_STATUS, 14, 14, .ro⟩
/-- 08_memory_system.md R224. -/
def CH_STATUS : Loc := ⟨0x20000, 0x0, 0x20, 256, 4, 0x0⟩
def CH_STATUS_MAPPED_OUT : Fld := ⟨CH_STATUS, 0, 0, .ro⟩
def CH_STATUS_MAPOUT_REQ : Fld := ⟨CH_STATUS, 1, 1, .ro⟩
def CH_STATUS_CE : Fld := ⟨CH_STATUS, 2, 2, .w1c⟩
def CH_STATUS_UE : Fld := ⟨CH_STATUS, 3, 3, .w1c⟩
def CH_STATUS_OWED : Fld := ⟨CH_STATUS, 11, 8, .ro⟩
/-- 08_memory_system.md R224. -/
def CH_CE_CNT : Loc := ⟨0x20004, 0x0, 0x20, 256, 4, 0x0⟩
def CH_CE_CNT_COUNT : Fld := ⟨CH_CE_CNT, 15, 0, .ro⟩
/-- 08_memory_system.md R224. -/
def CH_UE_CNT : Loc := ⟨0x20008, 0x0, 0x20, 256, 4, 0x0⟩
def CH_UE_CNT_COUNT : Fld := ⟨CH_UE_CNT, 15, 0, .ro⟩
/-- 08_memory_system.md R224. -/
def CH_ERR_ADDR : Loc := ⟨0x2000c, 0x0, 0x20, 256, 4, 0x0⟩
def CH_ERR_ADDR_C : Fld := ⟨CH_ERR_ADDR, 30, 0, .ro⟩
/-- 08_memory_system.md R224. -/
def CH_LANE : Loc := ⟨0x20010, 0x0, 0x20, 256, 4, 0x0⟩
def CH_LANE_GROUP : Fld := ⟨CH_LANE, 5, 0, .ro⟩
def CH_LANE_VALID : Fld := ⟨CH_LANE, 6, 6, .ro⟩
def CH_LANE_SPARED : Fld := ⟨CH_LANE, 7, 7, .ro⟩
/-- 08_memory_system.md R224. -/
def CH_REF_CNT : Loc := ⟨0x20014, 0x0, 0x20, 256, 4, 0x0⟩
def CH_REF_CNT_COUNT : Fld := ⟨CH_REF_CNT, 31, 0, .ro⟩
/-- 08_memory_system.md R224. -/
def LP_STATUS : Loc := ⟨0x30000, 0x0, 0x10, 64, 4, 0x0⟩
def LP_STATUS_MAPPED_OUT : Fld := ⟨LP_STATUS, 0, 0, .ro⟩
def LP_STATUS_CE : Fld := ⟨LP_STATUS, 1, 1, .w1c⟩
def LP_STATUS_UE : Fld := ⟨LP_STATUS, 2, 2, .w1c⟩
def LP_STATUS_HOT : Fld := ⟨LP_STATUS, 3, 3, .ro⟩
/-- 08_memory_system.md R224. -/
def LP_CE_CNT : Loc := ⟨0x30004, 0x0, 0x10, 64, 4, 0x0⟩
def LP_CE_CNT_COUNT : Fld := ⟨LP_CE_CNT, 15, 0, .ro⟩
/-- 08_memory_system.md R224. -/
def LP_UE_CNT : Loc := ⟨0x30008, 0x0, 0x10, 64, 4, 0x0⟩
def LP_UE_CNT_COUNT : Fld := ⟨LP_UE_CNT, 15, 0, .ro⟩
/-- 08_memory_system.md R224. -/
def LP_ERR_ADDR : Loc := ⟨0x3000c, 0x0, 0x10, 64, 4, 0x0⟩
def LP_ERR_ADDR_LINE : Fld := ⟨LP_ERR_ADDR, 26, 0, .ro⟩
/-- 09_streams_and_dma.md R254. -/
def DMA_CH_CTRL : Loc := ⟨0x307000, 0x100000, 0x80, 8, 4, 0x1⟩
def DMA_CH_CTRL_EN : Fld := ⟨DMA_CH_CTRL, 0, 0, .rw⟩
def DMA_CH_CTRL_ABORT : Fld := ⟨DMA_CH_CTRL, 1, 1, .w1s⟩
def DMA_CH_CTRL_RESUME : Fld := ⟨DMA_CH_CTRL, 2, 2, .w1s⟩
/-- 09_streams_and_dma.md R254. -/
def DMA_CH_PUSH : Loc := ⟨0x307004, 0x100000, 0x80, 8, 4, 0x0⟩
def DMA_CH_PUSH_DESC : Fld := ⟨DMA_CH_PUSH, 23, 6, .wo⟩
/-- 09_streams_and_dma.md R254. -/
def DMA_CH_CFG : Loc := ⟨0x307008, 0x100000, 0x80, 8, 4, 0x40⟩
def DMA_CH_CFG_OUTSTANDING : Fld := ⟨DMA_CH_CFG, 8, 0, .rw⟩
/-- 09_streams_and_dma.md R254. -/
def DMA_CH_STATUS : Loc := ⟨0x30700c, 0x100000, 0x80, 8, 4, 0x0⟩
def DMA_CH_STATUS_STATE : Fld := ⟨DMA_CH_STATUS, 3, 0, .ro⟩
def DMA_CH_STATUS_CODE : Fld := ⟨DMA_CH_STATUS, 7, 4, .ro⟩
def DMA_CH_STATUS_DONE : Fld := ⟨DMA_CH_STATUS, 8, 8, .w1c⟩
def DMA_CH_STATUS_ERR : Fld := ⟨DMA_CH_STATUS, 9, 9, .w1c⟩
def DMA_CH_STATUS_HALT : Fld := ⟨DMA_CH_STATUS, 10, 10, .w1c⟩
def DMA_CH_STATUS_PENDING_ENABLE : Fld := ⟨DMA_CH_STATUS, 11, 11, .ro⟩
def DMA_CH_STATUS_QDEPTH : Fld := ⟨DMA_CH_STATUS, 16, 12, .ro⟩
/-- 09_streams_and_dma.md R254. -/
def DMA_CH_SPOS : Loc := ⟨0x307010, 0x100000, 0x80, 8, 8, 0x0⟩
def DMA_CH_SPOS_BLOCK : Fld := ⟨DMA_CH_SPOS, 15, 0, .rw⟩
def DMA_CH_SPOS_OFFSET : Fld := ⟨DMA_CH_SPOS, 55, 16, .rw⟩
/-- 09_streams_and_dma.md R254. -/
def DMA_CH_DPOS : Loc := ⟨0x307018, 0x100000, 0x80, 8, 8, 0x0⟩
def DMA_CH_DPOS_ALL : Fld := ⟨DMA_CH_DPOS, 63, 0, .rw⟩
/-- 09_streams_and_dma.md R254. -/
def DMA_CH_FAULT_ADDR : Loc := ⟨0x307020, 0x100000, 0x80, 8, 8, 0x0⟩
def DMA_CH_FAULT_ADDR_ADDR : Fld := ⟨DMA_CH_FAULT_ADDR, 63, 0, .ro⟩
/-- 09_streams_and_dma.md R254. -/
def DMA_CH_SLOTS : Loc := ⟨0x307028, 0x100000, 0x80, 8, 8, 0x0⟩
def DMA_CH_SLOTS_FREE : Fld := ⟨DMA_CH_SLOTS, 8, 0, .ro⟩
def DMA_CH_SLOTS_FILLING : Fld := ⟨DMA_CH_SLOTS, 17, 9, .ro⟩
def DMA_CH_SLOTS_FULL : Fld := ⟨DMA_CH_SLOTS, 26, 18, .ro⟩
def DMA_CH_SLOTS_TAKEN : Fld := ⟨DMA_CH_SLOTS, 35, 27, .ro⟩
def DMA_CH_SLOTS_NSLOT : Fld := ⟨DMA_CH_SLOTS, 44, 36, .ro⟩
/-- 09_streams_and_dma.md R254. -/
def DMA_CH_DONE_CNT : Loc := ⟨0x307030, 0x100000, 0x80, 8, 4, 0x0⟩
def DMA_CH_DONE_CNT_COUNT : Fld := ⟨DMA_CH_DONE_CNT, 31, 0, .ro⟩
/-- 09_streams_and_dma.md R254. -/
def DMA_CH_DONE_TAG : Loc := ⟨0x307034, 0x100000, 0x80, 8, 4, 0x0⟩
def DMA_CH_DONE_TAG_TAG : Fld := ⟨DMA_CH_DONE_TAG, 31, 0, .ro⟩
/-- 09_streams_and_dma.md R254. -/
def DMA_CH_BYTES : Loc := ⟨0x307038, 0x100000, 0x80, 8, 8, 0x0⟩
def DMA_CH_BYTES_COUNT : Fld := ⟨DMA_CH_BYTES, 63, 0, .ro⟩
/-- 09_streams_and_dma.md R254. -/
def DMA_CH_IRQ_EN : Loc := ⟨0x307040, 0x100000, 0x80, 8, 4, 0x0⟩
def DMA_CH_IRQ_EN_EN : Fld := ⟨DMA_CH_IRQ_EN, 2, 0, .rw⟩
/-- 09_streams_and_dma.md R254. -/
def SHORT_STATUS : Loc := ⟨0x307400, 0x100000, 0x0, 1, 4, 0x0⟩
def SHORT_STATUS_INFLIGHT : Fld := ⟨SHORT_STATUS, 6, 0, .ro⟩
def SHORT_STATUS_ERR : Fld := ⟨SHORT_STATUS, 7, 7, .w1c⟩
def SHORT_STATUS_CODE : Fld := ⟨SHORT_STATUS, 11, 8, .ro⟩
def SHORT_STATUS_ERR_TAG : Fld := ⟨SHORT_STATUS, 31, 16, .ro⟩
/-- 09_streams_and_dma.md R254. -/
def DMA_STATUS : Loc := ⟨0x307410, 0x100000, 0x0, 1, 4, 0x0⟩
def DMA_STATUS_ALIGN_FAULT : Fld := ⟨DMA_STATUS, 0, 0, .w1c⟩
def DMA_STATUS_ALIGN_SRC : Fld := ⟨DMA_STATUS, 7, 4, .ro⟩
/-- 10_attention_and_kv.md R281. -/
def ATS_STATUS : Loc := ⟨0x308000, 0x100000, 0x0, 1, 4, 0x0⟩
def ATS_STATUS_DESC_BAD : Fld := ⟨ATS_STATUS, 0, 0, .w1c⟩
def ATS_STATUS_MMU_FAULT : Fld := ⟨ATS_STATUS, 1, 1, .w1c⟩
def ATS_STATUS_EMPTY_ROW : Fld := ⟨ATS_STATUS, 2, 2, .w1c⟩
def ATS_STATUS_INF_SCORE : Fld := ⟨ATS_STATUS, 3, 3, .w1c⟩
def ATS_STATUS_NAN_SCORE : Fld := ⟨ATS_STATUS, 4, 4, .w1c⟩
def ATS_STATUS_POISON_SEEN : Fld := ⟨ATS_STATUS, 5, 5, .w1c⟩
/-- 10_attention_and_kv.md R281. -/
def ATS_IRQ_EN : Loc := ⟨0x308004, 0x100000, 0x0, 1, 4, 0x0⟩
def ATS_IRQ_EN_EN : Fld := ⟨ATS_IRQ_EN, 5, 0, .rw⟩
/-- 10_attention_and_kv.md R281. -/
def ATS_BUSY : Loc := ⟨0x308008, 0x100000, 0x0, 1, 4, 0x0⟩
def ATS_BUSY_ATTN : Fld := ⟨ATS_BUSY, 0, 0, .ro⟩
/-- 10_attention_and_kv.md R281. -/
def ATS_EMPTY_CNT : Loc := ⟨0x30800c, 0x100000, 0x0, 1, 4, 0x0⟩
def ATS_EMPTY_CNT_COUNT : Fld := ⟨ATS_EMPTY_CNT, 31, 0, .rc⟩
/-- 10_attention_and_kv.md R281. -/
def ATS_INF_CNT : Loc := ⟨0x308010, 0x100000, 0x0, 1, 4, 0x0⟩
def ATS_INF_CNT_COUNT : Fld := ⟨ATS_INF_CNT, 31, 0, .rc⟩
/-- 10_attention_and_kv.md R281. -/
def ATS_NAN_CNT : Loc := ⟨0x308014, 0x100000, 0x0, 1, 4, 0x0⟩
def ATS_NAN_CNT_COUNT : Fld := ⟨ATS_NAN_CNT, 31, 0, .rc⟩
/-- 10_attention_and_kv.md R281. -/
def ATS_FAULT_CNT : Loc := ⟨0x308018, 0x100000, 0x0, 1, 4, 0x0⟩
def ATS_FAULT_CNT_COUNT : Fld := ⟨ATS_FAULT_CNT, 31, 0, .rc⟩
/-- 10_attention_and_kv.md R281. -/
def ATS_SIDE_BASE : Loc := ⟨0x308020, 0x100000, 0x0, 1, 8, 0x0⟩
def ATS_SIDE_BASE_VIEW : Fld := ⟨ATS_SIDE_BASE, 0, 0, .rw⟩
def ATS_SIDE_BASE_ADDR : Fld := ⟨ATS_SIDE_BASE, 47, 6, .rw⟩
/-- 10_attention_and_kv.md R281. -/
def ATS_FAULT_VA : Loc := ⟨0x308028, 0x100000, 0x0, 1, 8, 0x0⟩
def ATS_FAULT_VA_VA : Fld := ⟨ATS_FAULT_VA, 37, 0, .ro⟩
/-- 10_attention_and_kv.md R281. -/
def ATS_FAULT_SEQ : Loc := ⟨0x308030, 0x100000, 0x0, 1, 4, 0x0⟩
def ATS_FAULT_SEQ_LEDGER : Fld := ⟨ATS_FAULT_SEQ, 12, 0, .ro⟩
def ATS_FAULT_SEQ_CAUSE : Fld := ⟨ATS_FAULT_SEQ, 15, 13, .ro⟩
/-- 10_attention_and_kv.md R281. -/
def ATS_SPAN_CNT : Loc := ⟨0x308038, 0x100000, 0x0, 1, 8, 0x0⟩
def ATS_SPAN_CNT_COUNT : Fld := ⟨ATS_SPAN_CNT, 63, 0, .ro⟩
/-- 11_serving.md R315. -/
def LDG_CTRL : Loc := ⟨0x200000, 0x0, 0x0, 1, 4, 0x0⟩
def LDG_CTRL_WIN_HALF : Fld := ⟨LDG_CTRL, 0, 0, .rw⟩
/-- 11_serving.md R315. -/
def LDG_STATUS : Loc := ⟨0x200004, 0x0, 0x0, 1, 4, 0x0⟩
def LDG_STATUS_CMD_REJ : Fld := ⟨LDG_STATUS, 0, 0, .w1c⟩
def LDG_STATUS_BOOK_ERR : Fld := ⟨LDG_STATUS, 1, 1, .w1c⟩
def LDG_STATUS_REJ_CODE : Fld := ⟨LDG_STATUS, 7, 4, .ro⟩
/-- 11_serving.md R315. -/
def LDG_REJ_CNT : Loc := ⟨0x200008, 0x0, 0x0, 1, 4, 0x0⟩
def LDG_REJ_CNT_COUNT : Fld := ⟨LDG_REJ_CNT, 31, 0, .rc⟩
/-- 11_serving.md R316. -/
def PDK_CTRL : Loc := ⟨0x201000, 0x0, 0x80, 16, 4, 0x0⟩
def PDK_CTRL_OPEN : Fld := ⟨PDK_CTRL, 0, 0, .rw⟩
def PDK_CTRL_ABORT_ALL : Fld := ⟨PDK_CTRL, 1, 1, .w1s⟩
def PDK_CTRL_BAL_EN : Fld := ⟨PDK_CTRL, 2, 2, .rw⟩
def PDK_CTRL_ROLESET : Fld := ⟨PDK_CTRL, 5, 4, .rw⟩
/-- 11_serving.md R316. -/
def PDK_STATUS : Loc := ⟨0x201004, 0x0, 0x80, 16, 4, 0x0⟩
def PDK_STATUS_STATE : Fld := ⟨PDK_STATUS, 2, 0, .ro⟩
def PDK_STATUS_PENDING_ENABLE : Fld := ⟨PDK_STATUS, 3, 3, .ro⟩
def PDK_STATUS_ROLESET : Fld := ⟨PDK_STATUS, 5, 4, .ro⟩
def PDK_STATUS_BAND : Fld := ⟨PDK_STATUS, 8, 6, .ro⟩
def PDK_STATUS_WAIT_HOST : Fld := ⟨PDK_STATUS, 9, 9, .ro⟩
def PDK_STATUS_REPLAY : Fld := ⟨PDK_STATUS, 10, 10, .ro⟩
def PDK_STATUS_BOOK_ERR : Fld := ⟨PDK_STATUS, 11, 11, .w1c⟩
/-- 11_serving.md R316. -/
def PDK_STEP : Loc := ⟨0x201008, 0x0, 0x80, 16, 8, 0x0⟩
def PDK_STEP_COUNT : Fld := ⟨PDK_STEP, 63, 0, .ro⟩
/-- 11_serving.md R316. -/
def PDK_HINGE_TB : Loc := ⟨0x201010, 0x0, 0x80, 16, 8, 0x0⟩
def PDK_HINGE_TB_TB : Fld := ⟨PDK_HINGE_TB, 63, 0, .ro⟩
/-- 11_serving.md R316. -/
def PDK_CNT_A : Loc := ⟨0x201018, 0x0, 0x80, 16, 8, 0x0⟩
def PDK_CNT_A_FREE : Fld := ⟨PDK_CNT_A, 15, 0, .ro⟩
def PDK_CNT_A_QUEUED : Fld := ⟨PDK_CNT_A, 31, 16, .ro⟩
def PDK_CNT_A_PROMPT : Fld := ⟨PDK_CNT_A, 47, 32, .ro⟩
def PDK_CNT_A_DECODE : Fld := ⟨PDK_CNT_A, 63, 48, .ro⟩
/-- 11_serving.md R316. -/
def PDK_CNT_B : Loc := ⟨0x201020, 0x0, 0x80, 16, 8, 0x0⟩
def PDK_CNT_B_WAIT_PAGE : Fld := ⟨PDK_CNT_B, 15, 0, .ro⟩
def PDK_CNT_B_PAUSED : Fld := ⟨PDK_CNT_B, 31, 16, .ro⟩
def PDK_CNT_B_DRAINING : Fld := ⟨PDK_CNT_B, 47, 32, .ro⟩
def PDK_CNT_B_DONE : Fld := ⟨PDK_CNT_B, 63, 48, .ro⟩
/-- 11_serving.md R316. -/
def PDK_PG : Loc := ⟨0x201028, 0x0, 0x80, 16, 8, 0x0⟩
def PDK_PG_FREE : Fld := ⟨PDK_PG, 23, 0, .ro⟩
def PDK_PG_PEND : Fld := ⟨PDK_PG, 47, 24, .ro⟩
/-- 11_serving.md R316. -/
def PDK_PG_TOTAL : Loc := ⟨0x201030, 0x0, 0x80, 16, 4, 0x0⟩
def PDK_PG_TOTAL_TOTAL : Fld := ⟨PDK_PG_TOTAL, 23, 0, .ro⟩
/-- 11_serving.md R316. -/
def PDK_TIER_TOTAL : Loc := ⟨0x201034, 0x0, 0x80, 16, 4, 0x0⟩
def PDK_TIER_TOTAL_TOTAL : Fld := ⟨PDK_TIER_TOTAL, 23, 0, .ro⟩
/-- 11_serving.md R316. -/
def PDK_TIER : Loc := ⟨0x201038, 0x0, 0x80, 16, 8, 0x0⟩
def PDK_TIER_FREE : Fld := ⟨PDK_TIER, 23, 0, .ro⟩
def PDK_TIER_PEND : Fld := ⟨PDK_TIER, 47, 24, .ro⟩
/-- 11_serving.md R316. -/
def PDK_TBT_MISS : Loc := ⟨0x201040, 0x0, 0x80, 16, 4, 0x0⟩
def PDK_TBT_MISS_COUNT : Fld := ⟨PDK_TBT_MISS, 31, 0, .rc⟩
/-- 11_serving.md R316. -/
def PDK_TTFT_MISS : Loc := ⟨0x201044, 0x0, 0x80, 16, 4, 0x0⟩
def PDK_TTFT_MISS_COUNT : Fld := ⟨PDK_TTFT_MISS, 31, 0, .rc⟩
/-- 11_serving.md R316. -/
def PDK_WAITPG_CNT : Loc := ⟨0x201048, 0x0, 0x80, 16, 4, 0x0⟩
def PDK_WAITPG_CNT_COUNT : Fld := ⟨PDK_WAITPG_CNT, 31, 0, .rc⟩
/-- 11_serving.md R316. -/
def PDK_FAIL_CNT : Loc := ⟨0x20104c, 0x0, 0x80, 16, 4, 0x0⟩
def PDK_FAIL_CNT_COUNT : Fld := ⟨PDK_FAIL_CNT, 31, 0, .rc⟩
/-- 11_serving.md R316. -/
def PDK_HINGE_MCLK : Loc := ⟨0x201050, 0x0, 0x80, 16, 4, 0x0⟩
def PDK_HINGE_MCLK_MCLK : Fld := ⟨PDK_HINGE_MCLK, 31, 0, .ro⟩
/-- 11_serving.md R316. -/
def PDK_HINGE_MAX : Loc := ⟨0x201054, 0x0, 0x80, 16, 4, 0x0⟩
def PDK_HINGE_MAX_MCLK : Fld := ⟨PDK_HINGE_MAX, 31, 0, .rc⟩
/-- 11_serving.md R317. -/
def TNT_BUDGET : Loc := ⟨0x202000, 0x0, 0x20, 256, 4, 0x0⟩
def TNT_BUDGET_BUDGET : Fld := ⟨TNT_BUDGET, 31, 0, .rw⟩
/-- 11_serving.md R317. -/
def TNT_REFILL : Loc := ⟨0x202004, 0x0, 0x20, 256, 4, 0x0⟩
def TNT_REFILL_REFILL : Fld := ⟨TNT_REFILL, 30, 0, .rw⟩
/-- 11_serving.md R317. -/
def TNT_CAP : Loc := ⟨0x202008, 0x0, 0x20, 256, 4, 0x0⟩
def TNT_CAP_CAP : Fld := ⟨TNT_CAP, 30, 0, .rw⟩
/-- 11_serving.md R317. -/
def TNT_ACTIVE : Loc := ⟨0x20200c, 0x0, 0x20, 256, 4, 0x0⟩
def TNT_ACTIVE_COUNT : Fld := ⟨TNT_ACTIVE, 13, 0, .ro⟩
/-- 11_serving.md R317. -/
def TNT_LIFE : Loc := ⟨0x202010, 0x0, 0x20, 256, 8, 0x0⟩
def TNT_LIFE_UNITS : Fld := ⟨TNT_LIFE, 47, 0, .ro⟩
/-- 11_serving.md R317. -/
def TNT_SKIP : Loc := ⟨0x202018, 0x0, 0x20, 256, 4, 0x0⟩
def TNT_SKIP_COUNT : Fld := ⟨TNT_SKIP, 31, 0, .rc⟩
/-- 12_sampler_and_output.md R337. -/
def TMB_STATUS : Loc := ⟨0x308800, 0x100000, 0x0, 1, 4, 0x0⟩
def TMB_STATUS_PARAM_BAD : Fld := ⟨TMB_STATUS, 0, 0, .w1c⟩
def TMB_STATUS_EMPTY_ROW : Fld := ⟨TMB_STATUS, 1, 1, .w1c⟩
def TMB_STATUS_POISON_ROW : Fld := ⟨TMB_STATUS, 2, 2, .w1c⟩
def TMB_STATUS_NAN_LOGIT : Fld := ⟨TMB_STATUS, 3, 3, .w1c⟩
def TMB_STATUS_RING_HELD : Fld := ⟨TMB_STATUS, 4, 4, .w1c⟩
def TMB_STATUS_RING_BAD : Fld := ⟨TMB_STATUS, 5, 5, .w1c⟩
def TMB_STATUS_DESC_BAD : Fld := ⟨TMB_STATUS, 6, 6, .w1c⟩
/-- 12_sampler_and_output.md R337. -/
def TMB_IRQ_EN : Loc := ⟨0x308804, 0x100000, 0x0, 1, 4, 0x0⟩
def TMB_IRQ_EN_EN : Fld := ⟨TMB_IRQ_EN, 6, 0, .rw⟩
/-- 12_sampler_and_output.md R337. -/
def TMB_BUSY : Loc := ⟨0x308808, 0x100000, 0x0, 1, 4, 0x0⟩
def TMB_BUSY_SAMPLE : Fld := ⟨TMB_BUSY, 0, 0, .ro⟩
/-- 12_sampler_and_output.md R337. -/
def TMB_NAN_CNT : Loc := ⟨0x30880c, 0x100000, 0x0, 1, 4, 0x0⟩
def TMB_NAN_CNT_COUNT : Fld := ⟨TMB_NAN_CNT, 31, 0, .rc⟩
/-- 12_sampler_and_output.md R337. -/
def TMB_EMPTY_CNT : Loc := ⟨0x308810, 0x100000, 0x0, 1, 4, 0x0⟩
def TMB_EMPTY_CNT_COUNT : Fld := ⟨TMB_EMPTY_CNT, 31, 0, .rc⟩
/-- 12_sampler_and_output.md R337. -/
def TMB_POISON_CNT : Loc := ⟨0x308814, 0x100000, 0x0, 1, 4, 0x0⟩
def TMB_POISON_CNT_COUNT : Fld := ⟨TMB_POISON_CNT, 31, 0, .rc⟩
/-- 12_sampler_and_output.md R337. -/
def TMB_PARAM_CNT : Loc := ⟨0x308818, 0x100000, 0x0, 1, 4, 0x0⟩
def TMB_PARAM_CNT_COUNT : Fld := ⟨TMB_PARAM_CNT, 31, 0, .rc⟩
/-- 12_sampler_and_output.md R337. -/
def TMB_HELD_CNT : Loc := ⟨0x30881c, 0x100000, 0x0, 1, 4, 0x0⟩
def TMB_HELD_CNT_COUNT : Fld := ⟨TMB_HELD_CNT, 31, 0, .rc⟩
/-- 12_sampler_and_output.md R337. -/
def TMB_FIRST : Loc := ⟨0x308820, 0x100000, 0x0, 1, 4, 0x0⟩
def TMB_FIRST_LEDGER : Fld := ⟨TMB_FIRST, 12, 0, .ro⟩
def TMB_FIRST_CAUSE : Fld := ⟨TMB_FIRST, 15, 13, .ro⟩
/-- 12_sampler_and_output.md R337. -/
def TMB_TOKEN_CNT : Loc := ⟨0x308828, 0x100000, 0x0, 1, 8, 0x0⟩
def TMB_TOKEN_CNT_COUNT : Fld := ⟨TMB_TOKEN_CNT, 63, 0, .ro⟩
/-- 12_sampler_and_output.md R337. -/
def TMB_ROW_CNT : Loc := ⟨0x308830, 0x100000, 0x0, 1, 8, 0x0⟩
def TMB_ROW_CNT_COUNT : Fld := ⟨TMB_ROW_CNT, 63, 0, .ro⟩
/-- 13_control_core.md R367. -/
def SCC_CTRL : Loc := ⟨0x304000, 0x100000, 0x0, 1, 4, 0x0⟩
def SCC_CTRL_RUN : Fld := ⟨SCC_CTRL, 0, 0, .rw⟩
/-- 13_control_core.md R367. -/
def SCC_STATUS : Loc := ⟨0x304004, 0x100000, 0x0, 1, 4, 0x2⟩
def SCC_STATUS_RUNNING : Fld := ⟨SCC_STATUS, 0, 0, .ro⟩
def SCC_STATUS_MODE : Fld := ⟨SCC_STATUS, 1, 1, .ro⟩
def SCC_STATUS_WAITING : Fld := ⟨SCC_STATUS, 2, 2, .ro⟩
def SCC_STATUS_FATAL : Fld := ⟨SCC_STATUS, 3, 3, .w1c⟩
def SCC_STATUS_VIOL : Fld := ⟨SCC_STATUS, 4, 4, .w1c⟩
/-- 13_control_core.md R367. -/
def SCC_RESET_PC : Loc := ⟨0x304008, 0x100000, 0x0, 1, 4, 0x0⟩
def SCC_RESET_PC_PC : Fld := ⟨SCC_RESET_PC, 15, 2, .rw⟩
/-- 13_control_core.md R367. -/
def SCC_TEN_BASE : Loc := ⟨0x30400c, 0x100000, 0x0, 1, 4, 0x0⟩
def SCC_TEN_BASE_IBASE : Fld := ⟨SCC_TEN_BASE, 15, 2, .rw⟩
def SCC_TEN_BASE_DBASE : Fld := ⟨SCC_TEN_BASE, 31, 18, .rw⟩
/-- 13_control_core.md R367. -/
def SCC_VIOL_ADDR : Loc := ⟨0x304010, 0x100000, 0x0, 1, 8, 0x0⟩
def SCC_VIOL_ADDR_ADDR : Fld := ⟨SCC_VIOL_ADDR, 63, 0, .ro⟩
/-- 13_control_core.md R367. -/
def SCC_VIOL_CNT : Loc := ⟨0x304018, 0x100000, 0x0, 1, 4, 0x0⟩
def SCC_VIOL_CNT_COUNT : Fld := ⟨SCC_VIOL_CNT, 31, 0, .rc⟩
/-- 13_control_core.md R367. -/
def SCC_FATAL : Loc := ⟨0x304020, 0x100000, 0x0, 1, 4, 0x0⟩
def SCC_FATAL_CAUSE : Fld := ⟨SCC_FATAL, 4, 0, .ro⟩
def SCC_FATAL_PC : Fld := ⟨SCC_FATAL, 31, 16, .ro⟩
/-- 13_control_core.md R367. -/
def SCC_MBOX : Loc := ⟨0x304024, 0x100000, 0x0, 1, 4, 0x0⟩
def SCC_MBOX_MSG : Fld := ⟨SCC_MBOX, 31, 0, .rw⟩
/-- 13_control_core.md R367. -/
def DSP_CTRL : Loc := ⟨0x304028, 0x100000, 0x0, 1, 4, 0x0⟩
def DSP_CTRL_SKIP : Fld := ⟨DSP_CTRL, 0, 0, .w1s⟩
def DSP_CTRL_FLUSH : Fld := ⟨DSP_CTRL, 1, 1, .w1s⟩
/-- 13_control_core.md R367. -/
def DSP_STATUS : Loc := ⟨0x30402c, 0x100000, 0x0, 1, 4, 0x0⟩
def DSP_STATUS_DEPTH : Fld := ⟨DSP_STATUS, 4, 0, .ro⟩
def DSP_STATUS_CMD_REJ : Fld := ⟨DSP_STATUS, 5, 5, .w1c⟩
/-- 13_control_core.md R367. -/
def DSP_SEQ : Loc := ⟨0x304030, 0x100000, 0x0, 1, 4, 0x0⟩
def DSP_SEQ_SEQ : Fld := ⟨DSP_SEQ, 31, 0, .ro⟩
/-- 13_control_core.md R367. -/
def DSP_REJ_SEQ : Loc := ⟨0x304034, 0x100000, 0x0, 1, 4, 0x0⟩
def DSP_REJ_SEQ_SEQ : Fld := ⟨DSP_REJ_SEQ, 31, 0, .ro⟩
/-- 13_control_core.md R367. -/
def DSP_REJ_OP : Loc := ⟨0x304038, 0x100000, 0x0, 1, 4, 0x0⟩
def DSP_REJ_OP_OP : Fld := ⟨DSP_REJ_OP, 7, 0, .ro⟩
/-- 13_control_core.md R367. -/
def LATCH_STATE : Loc := ⟨0x304040, 0x100000, 0x4, 8, 4, 0x0⟩
def LATCH_STATE_REL : Fld := ⟨LATCH_STATE, 31, 0, .ro⟩
/-- 13_control_core.md R367. -/
def SCC_INSN_CNT : Loc := ⟨0x304060, 0x100000, 0x0, 1, 8, 0x0⟩
def SCC_INSN_CNT_COUNT : Fld := ⟨SCC_INSN_CNT, 63, 0, .ro⟩
/-- 14_host_interface.md R389. -/
def HIF_STATUS : Loc := ⟨0x40000, 0x0, 0x0, 1, 4, 0x0⟩
def HIF_STATUS_LINK_UP : Fld := ⟨HIF_STATUS, 0, 0, .ro⟩
def HIF_STATUS_SPEED : Fld := ⟨HIF_STATUS, 3, 1, .ro⟩
def HIF_STATUS_WIDTH : Fld := ⟨HIF_STATUS, 8, 4, .ro⟩
def HIF_STATUS_FLIT : Fld := ⟨HIF_STATUS, 9, 9, .ro⟩
def HIF_STATUS_CPL_ERR : Fld := ⟨HIF_STATUS, 10, 10, .w1c⟩
/-- 14_host_interface.md R389. -/
def HIF_NUMVF : Loc := ⟨0x40004, 0x0, 0x0, 1, 4, 0x0⟩
def HIF_NUMVF_NUMVF : Fld := ⟨HIF_NUMVF, 8, 0, .ro⟩
def HIF_NUMVF_VF_EN : Fld := ⟨HIF_NUMVF, 9, 9, .ro⟩
def HIF_NUMVF_DRAINING : Fld := ⟨HIF_NUMVF, 10, 10, .ro⟩
def HIF_NUMVF_PENDING_ENABLE : Fld := ⟨HIF_NUMVF, 11, 11, .ro⟩
/-- 14_host_interface.md R389. -/
def HIF_VIOL_CNT : Loc := ⟨0x40008, 0x0, 0x0, 1, 4, 0x0⟩
def HIF_VIOL_CNT_COUNT : Fld := ⟨HIF_VIOL_CNT, 31, 0, .rc⟩
/-- 14_host_interface.md R389. -/
def HIF_ATC_MISS : Loc := ⟨0x40010, 0x0, 0x0, 1, 8, 0x0⟩
def HIF_ATC_MISS_COUNT : Fld := ⟨HIF_ATC_MISS, 63, 0, .ro⟩
/-- 14_host_interface.md R389. -/
def APT_WIN : Loc := ⟨0x40100, 0x0, 0x8, 16, 8, 0x0⟩
def APT_WIN_EN : Fld := ⟨APT_WIN, 0, 0, .rw⟩
def APT_WIN_VIEW : Fld := ⟨APT_WIN, 1, 1, .rw⟩
def APT_WIN_BASE : Fld := ⟨APT_WIN, 47, 32, .rw⟩
/-- 14_host_interface.md R389. -/
def PF_IRQ_MAP : Loc := ⟨0x40200, 0x0, 0x1, 36, 1, 0x0⟩
def PF_IRQ_MAP_VEC : Fld := ⟨PF_IRQ_MAP, 7, 0, .rw⟩
/-- 14_host_interface.md R389. -/
def FN_CTRL : Loc := ⟨0x50000, 0x0, 0x100, 257, 4, 0x0⟩
def FN_CTRL_EN : Fld := ⟨FN_CTRL, 0, 0, .rw⟩
def FN_CTRL_WIN_HALF : Fld := ⟨FN_CTRL, 1, 1, .rw⟩
/-- 14_host_interface.md R389. -/
def FN_STATUS : Loc := ⟨0x50004, 0x0, 0x100, 257, 4, 0x0⟩
def FN_STATUS_VIOL : Fld := ⟨FN_STATUS, 0, 0, .w1c⟩
def FN_STATUS_PRI_FAIL : Fld := ⟨FN_STATUS, 1, 1, .w1c⟩
def FN_STATUS_LQ_BAD : Fld := ⟨FN_STATUS, 2, 2, .w1c⟩
def FN_STATUS_DRAINING : Fld := ⟨FN_STATUS, 3, 3, .ro⟩
def FN_STATUS_PENDING_ENABLE : Fld := ⟨FN_STATUS, 4, 4, .ro⟩
/-- 14_host_interface.md R389. -/
def FN_LQ_CFG : Loc := ⟨0x50008, 0x0, 0x100, 257, 4, 0x0⟩
def FN_LQ_CFG_LOG2 : Fld := ⟨FN_LQ_CFG, 4, 0, .rw⟩
/-- 14_host_interface.md R389. -/
def FN_LQ_DBELL : Loc := ⟨0x5000c, 0x0, 0x100, 257, 4, 0x0⟩
def FN_LQ_DBELL_TAIL : Fld := ⟨FN_LQ_DBELL, 31, 0, .wo⟩
/-- 14_host_interface.md R389. -/
def FN_LQ_BASE : Loc := ⟨0x50010, 0x0, 0x100, 257, 8, 0x0⟩
def FN_LQ_BASE_ADDR : Fld := ⟨FN_LQ_BASE, 63, 0, .rw⟩
/-- 14_host_interface.md R389. -/
def FN_CQ_BASE : Loc := ⟨0x50018, 0x0, 0x100, 257, 8, 0x0⟩
def FN_CQ_BASE_ADDR : Fld := ⟨FN_CQ_BASE, 63, 0, .rw⟩
/-- 14_host_interface.md R389. -/
def FN_CQ_DBELL : Loc := ⟨0x50020, 0x0, 0x100, 257, 4, 0x0⟩
def FN_CQ_DBELL_CTAIL : Fld := ⟨FN_CQ_DBELL, 31, 0, .wo⟩
/-- 14_host_interface.md R389. -/
def FN_LQ_HEAD : Loc := ⟨0x50024, 0x0, 0x100, 257, 4, 0x0⟩
def FN_LQ_HEAD_HEAD : Fld := ⟨FN_LQ_HEAD, 31, 0, .ro⟩
/-- 14_host_interface.md R389. -/
def FN_CQ_HEAD : Loc := ⟨0x50028, 0x0, 0x100, 257, 4, 0x0⟩
def FN_CQ_HEAD_HEAD : Fld := ⟨FN_CQ_HEAD, 31, 0, .ro⟩
/-- 14_host_interface.md R389. -/
def FN_IRQ_MAP : Loc := ⟨0x5002c, 0x0, 0x100, 257, 4, 0x20100⟩
def FN_IRQ_MAP_CQ_VEC : Fld := ⟨FN_IRQ_MAP, 7, 0, .rw⟩
def FN_IRQ_MAP_REC_VEC : Fld := ⟨FN_IRQ_MAP, 15, 8, .rw⟩
def FN_IRQ_MAP_ERR_VEC : Fld := ⟨FN_IRQ_MAP, 23, 16, .rw⟩
/-- 14_host_interface.md R389. -/
def FN_COAL : Loc := ⟨0x50030, 0x0, 0x100, 257, 4, 0x1⟩
def FN_COAL_COUNT : Fld := ⟨FN_COAL, 15, 0, .rw⟩
def FN_COAL_TIME : Fld := ⟨FN_COAL, 31, 16, .rw⟩
/-- 14_host_interface.md R389. -/
def FN_PRI_TMO : Loc := ⟨0x50034, 0x0, 0x100, 257, 4, 0xf4240⟩
def FN_PRI_TMO_TMO : Fld := ⟨FN_PRI_TMO, 31, 0, .rw⟩
/-- 14_host_interface.md R389. -/
def FN_PR_OUT : Loc := ⟨0x50038, 0x0, 0x100, 257, 4, 0x0⟩
def FN_PR_OUT_COUNT : Fld := ⟨FN_PR_OUT, 15, 0, .ro⟩
/-- 14_host_interface.md R389. -/
def FN_VIOL_ADDR : Loc := ⟨0x5003c, 0x0, 0x100, 257, 4, 0x0⟩
def FN_VIOL_ADDR_OFFSET : Fld := ⟨FN_VIOL_ADDR, 20, 0, .ro⟩
/-- 14_host_interface.md R389. -/
def FN_VIOL_CNT : Loc := ⟨0x50040, 0x0, 0x100, 257, 4, 0x0⟩
def FN_VIOL_CNT_COUNT : Fld := ⟨FN_VIOL_CNT, 31, 0, .rc⟩
/-- 14_host_interface.md R390. -/
def STL_DQ_CTRL : Loc := ⟨0x309000, 0x100000, 0x0, 1, 4, 0x0⟩
def STL_DQ_CTRL_EN : Fld := ⟨STL_DQ_CTRL, 0, 0, .rw⟩
def STL_DQ_CTRL_BASE : Fld := ⟨STL_DQ_CTRL, 23, 6, .rw⟩
def STL_DQ_CTRL_LOG2 : Fld := ⟨STL_DQ_CTRL, 27, 24, .rw⟩
/-- 14_host_interface.md R390. -/
def STL_DBELL : Loc := ⟨0x309004, 0x100000, 0x0, 1, 4, 0x0⟩
def STL_DBELL_TAIL : Fld := ⟨STL_DBELL, 31, 0, .wo⟩
/-- 14_host_interface.md R390. -/
def STL_DQ_HEAD : Loc := ⟨0x309008, 0x100000, 0x0, 1, 4, 0x0⟩
def STL_DQ_HEAD_HEAD : Fld := ⟨STL_DQ_HEAD, 31, 0, .ro⟩
/-- 14_host_interface.md R390. -/
def STL_DQ_DONE : Loc := ⟨0x30900c, 0x100000, 0x0, 1, 4, 0x0⟩
def STL_DQ_DONE_COUNT : Fld := ⟨STL_DQ_DONE, 31, 0, .ro⟩
/-- 15_dartin_link.md R422. -/
def DRT_ID : Loc := ⟨0x70000, 0x0, 0x0, 1, 4, 0x0⟩
def DRT_ID_DID : Fld := ⟨DRT_ID, 15, 0, .ro⟩
/-- 15_dartin_link.md R422. -/
def DRT_CTRL : Loc := ⟨0x70004, 0x0, 0x0, 1, 4, 0x0⟩
def DRT_CTRL_REVERT : Fld := ⟨DRT_CTRL, 0, 0, .w1s⟩
/-- 15_dartin_link.md R422. -/
def DRT_STATUS : Loc := ⟨0x70008, 0x0, 0x0, 1, 4, 0x0⟩
def DRT_STATUS_LOST : Fld := ⟨DRT_STATUS, 0, 0, .w1c⟩
def DRT_STATUS_TRANSIT_DROP : Fld := ⟨DRT_STATUS, 1, 1, .w1c⟩
def DRT_STATUS_UNREACH : Fld := ⟨DRT_STATUS, 2, 2, .w1c⟩
def DRT_STATUS_BAD_FLIT : Fld := ⟨DRT_STATUS, 3, 3, .w1c⟩
/-- 15_dartin_link.md R422. -/
def DRT_LOST_CNT : Loc := ⟨0x7000c, 0x0, 0x0, 1, 4, 0x0⟩
def DRT_LOST_CNT_COUNT : Fld := ⟨DRT_LOST_CNT, 31, 0, .rc⟩
/-- 15_dartin_link.md R422. -/
def DRT_PORT_STATUS : Loc := ⟨0x70100, 0x0, 0x40, 8, 4, 0x0⟩
def DRT_PORT_STATUS_STATE : Fld := ⟨DRT_PORT_STATUS, 1, 0, .ro⟩
def DRT_PORT_STATUS_MISWIRED : Fld := ⟨DRT_PORT_STATUS, 2, 2, .ro⟩
def DRT_PORT_STATUS_DOWN_EV : Fld := ⟨DRT_PORT_STATUS, 3, 3, .w1c⟩
def DRT_PORT_STATUS_RETRAINS : Fld := ⟨DRT_PORT_STATUS, 15, 8, .ro⟩
def DRT_PORT_STATUS_PEER_DID : Fld := ⟨DRT_PORT_STATUS, 31, 16, .ro⟩
/-- 15_dartin_link.md R422. -/
def DRT_PORT_CE : Loc := ⟨0x70104, 0x0, 0x40, 8, 4, 0x0⟩
def DRT_PORT_CE_COUNT : Fld := ⟨DRT_PORT_CE, 15, 0, .ro⟩
/-- 15_dartin_link.md R422. -/
def DRT_PORT_REPLAY : Loc := ⟨0x70108, 0x0, 0x40, 8, 4, 0x0⟩
def DRT_PORT_REPLAY_COUNT : Fld := ⟨DRT_PORT_REPLAY, 31, 0, .rc⟩
/-- 15_dartin_link.md R422. -/
def DRT_PORT_CRED : Loc := ⟨0x7010c, 0x0, 0x40, 8, 4, 0x42010040⟩
def DRT_PORT_CRED_VL0 : Fld := ⟨DRT_PORT_CRED, 6, 0, .ro⟩
def DRT_PORT_CRED_VL1 : Fld := ⟨DRT_PORT_CRED, 16, 7, .ro⟩
def DRT_PORT_CRED_VL2 : Fld := ⟨DRT_PORT_CRED, 25, 17, .ro⟩
def DRT_PORT_CRED_VL3 : Fld := ⟨DRT_PORT_CRED, 30, 26, .ro⟩
/-- 15_dartin_link.md R422. -/
def DRT_PORT_TX : Loc := ⟨0x70110, 0x0, 0x40, 8, 8, 0x0⟩
def DRT_PORT_TX_COUNT : Fld := ⟨DRT_PORT_TX, 63, 0, .ro⟩
/-- 15_dartin_link.md R422. -/
def DRT_PORT_RX : Loc := ⟨0x70118, 0x0, 0x40, 8, 8, 0x0⟩
def DRT_PORT_RX_COUNT : Fld := ⟨DRT_PORT_RX, 63, 0, .ro⟩
/-- 15_dartin_link.md R422. -/
def COLL_STATUS : Loc := ⟨0x71000, 0x0, 0x40, 16, 4, 0x0⟩
def COLL_STATUS_ABORT : Fld := ⟨COLL_STATUS, 0, 0, .w1c⟩
def COLL_STATUS_BROKEN : Fld := ⟨COLL_STATUS, 1, 1, .ro⟩
def COLL_STATUS_DIVERGED : Fld := ⟨COLL_STATUS, 2, 2, .w1c⟩
def COLL_STATUS_REASON : Fld := ⟨COLL_STATUS, 5, 3, .ro⟩
def COLL_STATUS_MISSING : Fld := ⟨COLL_STATUS, 11, 6, .ro⟩
/-- 15_dartin_link.md R422. -/
def COLL_EPOCH : Loc := ⟨0x71004, 0x0, 0x40, 16, 4, 0x0⟩
def COLL_EPOCH_EPOCH : Fld := ⟨COLL_EPOCH, 31, 0, .ro⟩
/-- 15_dartin_link.md R422. -/
def COLL_ABORT_CNT : Loc := ⟨0x71008, 0x0, 0x40, 16, 4, 0x0⟩
def COLL_ABORT_CNT_COUNT : Fld := ⟨COLL_ABORT_CNT, 31, 0, .rc⟩
/-- 15_dartin_link.md R422. -/
def COLL_LATE_CNT : Loc := ⟨0x7100c, 0x0, 0x40, 16, 4, 0x0⟩
def COLL_LATE_CNT_COUNT : Fld := ⟨COLL_LATE_CNT, 31, 0, .rc⟩
/-- 15_dartin_link.md R422. -/
def COLL_DECIDE_MAX : Loc := ⟨0x71010, 0x0, 0x40, 16, 4, 0x0⟩
def COLL_DECIDE_MAX_NS : Fld := ⟨COLL_DECIDE_MAX, 31, 0, .rc⟩
/-- 15_dartin_link.md R422. -/
def EXP_PUSH : Loc := ⟨0x72000, 0x0, 0x0, 1, 8, 0x0⟩
def EXP_PUSH_VIEW : Fld := ⟨EXP_PUSH, 0, 0, .wo⟩
def EXP_PUSH_ADDR : Fld := ⟨EXP_PUSH, 47, 6, .wo⟩
/-- 15_dartin_link.md R422. -/
def EXP_STATUS : Loc := ⟨0x72008, 0x0, 0x0, 1, 4, 0x0⟩
def EXP_STATUS_QDEPTH : Fld := ⟨EXP_STATUS, 4, 0, .ro⟩
def EXP_STATUS_ERR : Fld := ⟨EXP_STATUS, 5, 5, .w1c⟩
def EXP_STATUS_CODE : Fld := ⟨EXP_STATUS, 8, 6, .ro⟩
/-- 15_dartin_link.md R422. -/
def EXP_DONE_CNT : Loc := ⟨0x7200c, 0x0, 0x0, 1, 4, 0x0⟩
def EXP_DONE_CNT_COUNT : Fld := ⟨EXP_DONE_CNT, 31, 0, .ro⟩
/-- 15_dartin_link.md R422. -/
def IMP_REJ_CNT : Loc := ⟨0x72010, 0x0, 0x0, 1, 4, 0x0⟩
def IMP_REJ_CNT_COUNT : Fld := ⟨IMP_REJ_CNT, 31, 0, .rc⟩
/-- 15_dartin_link.md R422. -/
def DRT_ROUTE : Loc := ⟨0x80000, 0x0, 0x1, 65536, 1, 0x0⟩
def DRT_ROUTE_PRIMARY : Fld := ⟨DRT_ROUTE, 2, 0, .ro⟩
def DRT_ROUTE_ALT : Fld := ⟨DRT_ROUTE, 5, 3, .ro⟩
def DRT_ROUTE_ALT_EN : Fld := ⟨DRT_ROUTE, 6, 6, .ro⟩
def DRT_ROUTE_VALID : Fld := ⟨DRT_ROUTE, 7, 7, .ro⟩
/-- 16_tack_image_and_boot.md R448. -/
def TACK_STATUS : Loc := ⟨0x1000, 0x0, 0x0, 1, 4, 0x0⟩
def TACK_STATUS_STATE : Fld := ⟨TACK_STATUS, 2, 0, .ro⟩
def TACK_STATUS_SRC : Fld := ⟨TACK_STATUS, 4, 3, .ro⟩
def TACK_STATUS_MAINT_CAUSE : Fld := ⟨TACK_STATUS, 11, 8, .ro⟩
/-- 16_tack_image_and_boot.md R448. -/
def TACK_COMPAT : Loc := ⟨0x1008, 0x0, 0x0, 1, 8, 0x0⟩
def TACK_COMPAT_FW : Fld := ⟨TACK_COMPAT, 31, 0, .ro⟩
def TACK_COMPAT_UC : Fld := ⟨TACK_COMPAT, 63, 32, .ro⟩
/-- 16_tack_image_and_boot.md R448. -/
def TACK_IMAGE_ID : Loc := ⟨0x1010, 0x0, 0x0, 1, 8, 0x0⟩
def TACK_IMAGE_ID_ID : Fld := ⟨TACK_IMAGE_ID, 63, 0, .ro⟩
/-- 16_tack_image_and_boot.md R448. -/
def TACK_CMD : Loc := ⟨0x1018, 0x0, 0x0, 1, 4, 0x0⟩
def TACK_CMD_OP : Fld := ⟨TACK_CMD, 3, 0, .rw⟩
def TACK_CMD_PADDOCK : Fld := ⟨TACK_CMD, 7, 4, .rw⟩
def TACK_CMD_TACK_ARG : Fld := ⟨TACK_CMD, 11, 8, .rw⟩
def TACK_CMD_GO : Fld := ⟨TACK_CMD, 12, 12, .w1s⟩
/-- 16_tack_image_and_boot.md R448. -/
def TACK_CMD_STATUS : Loc := ⟨0x101c, 0x0, 0x0, 1, 4, 0x0⟩
def TACK_CMD_STATUS_BUSY : Fld := ⟨TACK_CMD_STATUS, 0, 0, .ro⟩
def TACK_CMD_STATUS_CMD_DONE : Fld := ⟨TACK_CMD_STATUS, 1, 1, .w1c⟩
def TACK_CMD_STATUS_CMD_ERR : Fld := ⟨TACK_CMD_STATUS, 2, 2, .w1c⟩
def TACK_CMD_STATUS_CMD_CAUSE : Fld := ⟨TACK_CMD_STATUS, 11, 8, .ro⟩
/-- 16_tack_image_and_boot.md R448. -/
def TACK_STAGE : Loc := ⟨0x1020, 0x0, 0x0, 1, 8, 0x0⟩
def TACK_STAGE_VIEW : Fld := ⟨TACK_STAGE, 0, 0, .rw⟩
def TACK_STAGE_ADDR : Fld := ⟨TACK_STAGE, 47, 6, .rw⟩
/-- 16_tack_image_and_boot.md R448. -/
def TACK_STAGE_LEN : Loc := ⟨0x1028, 0x0, 0x0, 1, 4, 0x0⟩
def TACK_STAGE_LEN_LEN : Fld := ⟨TACK_STAGE_LEN, 24, 0, .rw⟩
/-- 16_tack_image_and_boot.md R448. -/
def TACK_FLASH_OFS : Loc := ⟨0x102c, 0x0, 0x0, 1, 4, 0x0⟩
def TACK_FLASH_OFS_OFFSET : Fld := ⟨TACK_FLASH_OFS, 25, 6, .rw⟩
/-- 16_tack_image_and_boot.md R448. -/
def MAP_STALL : Loc := ⟨0x1030, 0x0, 0x0, 1, 4, 0x0⟩
def MAP_STALL_OUT : Fld := ⟨MAP_STALL, 15, 0, .ro⟩
/-- 16_tack_image_and_boot.md R448. -/
def MAP_CHANNEL : Loc := ⟨0x1040, 0x0, 0x4, 8, 4, 0x0⟩
def MAP_CHANNEL_OUT : Fld := ⟨MAP_CHANNEL, 31, 0, .ro⟩
/-- 16_tack_image_and_boot.md R448. -/
def MAP_GROOM : Loc := ⟨0x1100, 0x0, 0x4, 64, 4, 0x0⟩
def MAP_GROOM_OUT : Fld := ⟨MAP_GROOM, 31, 0, .ro⟩
/-- 16_tack_image_and_boot.md R448. -/
def PDK_TACK : Loc := ⟨0x1200, 0x0, 0x4, 16, 4, 0x0⟩
def PDK_TACK_CAUSE : Fld := ⟨PDK_TACK, 3, 0, .ro⟩
def PDK_TACK_SHRUNK : Fld := ⟨PDK_TACK, 4, 4, .ro⟩
def PDK_TACK_WAIT_SHRINK : Fld := ⟨PDK_TACK, 5, 5, .ro⟩
def PDK_TACK_SECT_VER : Fld := ⟨PDK_TACK, 31, 16, .ro⟩
/-- 16_tack_image_and_boot.md R448. -/
def BOOT_STATUS : Loc := ⟨0x1300, 0x0, 0x0, 1, 4, 0x0⟩
def BOOT_STATUS_PHASE : Fld := ⟨BOOT_STATUS, 3, 0, .ro⟩
def BOOT_STATUS_POWERDOWN_READY : Fld := ⟨BOOT_STATUS, 4, 4, .ro⟩
/-- 16_tack_image_and_boot.md R448. -/
def BOOT_MS : Loc := ⟨0x1304, 0x0, 0x0, 1, 4, 0x0⟩
def BOOT_MS_MS : Fld := ⟨BOOT_MS, 31, 0, .ro⟩
/-- 16_tack_image_and_boot.md R448. -/
def RESET_CTRL : Loc := ⟨0x1308, 0x0, 0x0, 1, 4, 0x0⟩
def RESET_CTRL_STALL : Fld := ⟨RESET_CTRL, 15, 0, .w1s⟩
def RESET_CTRL_PDK : Fld := ⟨RESET_CTRL, 19, 16, .rw⟩
def RESET_CTRL_PADDOCK : Fld := ⟨RESET_CTRL, 20, 20, .w1s⟩
def RESET_CTRL_DEVICE : Fld := ⟨RESET_CTRL, 21, 21, .w1s⟩
def RESET_CTRL_POWERDOWN : Fld := ⟨RESET_CTRL, 22, 22, .w1s⟩
def RESET_CTRL_KEY : Fld := ⟨RESET_CTRL, 31, 24, .wo⟩
/-- 16_tack_image_and_boot.md R448. -/
def RESET_CAUSE : Loc := ⟨0x130c, 0x0, 0x0, 1, 4, 0x1⟩
def RESET_CAUSE_CAUSE : Fld := ⟨RESET_CAUSE, 3, 0, .ro⟩
def RESET_CAUSE_PDK_RESETS : Fld := ⟨RESET_CAUSE, 31, 16, .ro⟩
/-- 16_tack_image_and_boot.md R448. -/
def RESET_PEND : Loc := ⟨0x1310, 0x0, 0x0, 1, 4, 0x0⟩
def RESET_PEND_STALLS : Fld := ⟨RESET_PEND, 15, 0, .ro⟩
def RESET_PEND_PENDING_ENABLE : Fld := ⟨RESET_PEND, 16, 16, .ro⟩
/-- 17_reliability_power_thermal.md R472. -/
def FLT_HEAD : Loc := ⟨0x100000, 0x0, 0x0, 1, 4, 0x0⟩
def FLT_HEAD_COUNT : Fld := ⟨FLT_HEAD, 31, 0, .ro⟩
/-- 17_reliability_power_thermal.md R472. -/
def FLT_TAIL : Loc := ⟨0x100004, 0x0, 0x0, 1, 4, 0x0⟩
def FLT_TAIL_COUNT : Fld := ⟨FLT_TAIL, 31, 0, .rw⟩
/-- 17_reliability_power_thermal.md R472. -/
def FLT_STATUS : Loc := ⟨0x100008, 0x0, 0x0, 1, 4, 0x0⟩
def FLT_STATUS_NEW : Fld := ⟨FLT_STATUS, 0, 0, .w1c⟩
def FLT_STATUS_FULL : Fld := ⟨FLT_STATUS, 1, 1, .ro⟩
def FLT_STATUS_DROPPED : Fld := ⟨FLT_STATUS, 2, 2, .w1c⟩
def FLT_STATUS_PERSIST_DONE : Fld := ⟨FLT_STATUS, 3, 3, .ro⟩
def FLT_STATUS_PERSIST_CUT : Fld := ⟨FLT_STATUS, 4, 4, .w1c⟩
def FLT_STATUS_TAIL_BAD : Fld := ⟨FLT_STATUS, 5, 5, .w1c⟩
/-- 17_reliability_power_thermal.md R472. -/
def FLT_DROP_CNT : Loc := ⟨0x10000c, 0x0, 0x0, 1, 4, 0x0⟩
def FLT_DROP_CNT_COUNT : Fld := ⟨FLT_DROP_CNT, 31, 0, .rc⟩
/-- 17_reliability_power_thermal.md R472. -/
def FLT_PERSIST_CNT : Loc := ⟨0x100010, 0x0, 0x0, 1, 4, 0x0⟩
def FLT_PERSIST_CNT_COUNT : Fld := ⟨FLT_PERSIST_CNT, 8, 0, .ro⟩
/-- 17_reliability_power_thermal.md R472. -/
def FLT_THR_CH : Loc := ⟨0x100100, 0x0, 0x0, 1, 4, 0x10081000⟩
def FLT_THR_CH_CE : Fld := ⟨FLT_THR_CH, 15, 0, .rw⟩
def FLT_THR_CH_UE : Fld := ⟨FLT_THR_CH, 23, 16, .rw⟩
def FLT_THR_CH_DMG : Fld := ⟨FLT_THR_CH, 31, 24, .rw⟩
/-- 17_reliability_power_thermal.md R472. -/
def FLT_THR_LP : Loc := ⟨0x100104, 0x0, 0x0, 1, 4, 0x81000⟩
def FLT_THR_LP_CE : Fld := ⟨FLT_THR_LP, 15, 0, .rw⟩
def FLT_THR_LP_UE : Fld := ⟨FLT_THR_LP, 23, 16, .rw⟩
/-- 17_reliability_power_thermal.md R472. -/
def FLT_THR_GRM : Loc := ⟨0x100108, 0x0, 0x0, 1, 4, 0x1010⟩
def FLT_THR_GRM_FAIL : Fld := ⟨FLT_THR_GRM, 7, 0, .rw⟩
def FLT_THR_GRM_STALL_DMG : Fld := ⟨FLT_THR_GRM, 15, 8, .rw⟩
/-- 17_reliability_power_thermal.md R472. -/
def MAPREQ_STALL : Loc := ⟨0x100110, 0x0, 0x0, 1, 4, 0x0⟩
def MAPREQ_STALL_REQ : Fld := ⟨MAPREQ_STALL, 15, 0, .ro⟩
/-- 17_reliability_power_thermal.md R472. -/
def MAPREQ_LP : Loc := ⟨0x100114, 0x0, 0x0, 1, 4, 0x0⟩
def MAPREQ_LP_REQ : Fld := ⟨MAPREQ_LP, 1, 0, .ro⟩
/-- 17_reliability_power_thermal.md R472. -/
def MAPREQ_GROOM : Loc := ⟨0x100200, 0x0, 0x4, 64, 4, 0x0⟩
def MAPREQ_GROOM_REQ : Fld := ⟨MAPREQ_GROOM, 31, 0, .ro⟩
/-- 17_reliability_power_thermal.md R472. -/
def MON_CH_DMG : Loc := ⟨0x100400, 0x0, 0x1, 256, 1, 0x0⟩
def MON_CH_DMG_COUNT : Fld := ⟨MON_CH_DMG, 7, 0, .ro⟩
/-- 17_reliability_power_thermal.md R472. -/
def MON_STALL_DMG : Loc := ⟨0x100500, 0x0, 0x1, 16, 1, 0x0⟩
def MON_STALL_DMG_COUNT : Fld := ⟨MON_STALL_DMG, 7, 0, .ro⟩
/-- 17_reliability_power_thermal.md R472. -/
def MON_GRM_FAIL : Loc := ⟨0x100800, 0x0, 0x1, 2048, 1, 0x0⟩
def MON_GRM_FAIL_COUNT : Fld := ⟨MON_GRM_FAIL, 7, 0, .ro⟩
/-- 17_reliability_power_thermal.md R472. -/
def PWR_CTRL : Loc := ⟨0x101000, 0x0, 0x0, 1, 4, 0x0⟩
def PWR_CTRL_LIMIT : Fld := ⟨PWR_CTRL, 11, 0, .rw⟩
/-- 17_reliability_power_thermal.md R472. -/
def PWR_STATUS : Loc := ⟨0x101004, 0x0, 0x0, 1, 4, 0x0⟩
def PWR_STATUS_LEVEL : Fld := ⟨PWR_STATUS, 2, 0, .ro⟩
def PWR_STATUS_CAP_EV : Fld := ⟨PWR_STATUS, 3, 3, .w1c⟩
def PWR_STATUS_FAST : Fld := ⟨PWR_STATUS, 4, 4, .w1c⟩
def PWR_STATUS_AVG : Fld := ⟨PWR_STATUS, 31, 16, .ro⟩
/-- 17_reliability_power_thermal.md R472. -/
def PWR_CAP_CNT : Loc := ⟨0x101008, 0x0, 0x0, 1, 4, 0x0⟩
def PWR_CAP_CNT_COUNT : Fld := ⟨PWR_CAP_CNT, 31, 0, .rc⟩
/-- 17_reliability_power_thermal.md R472. -/
def PWR_ENERGY : Loc := ⟨0x101010, 0x0, 0x0, 1, 8, 0x0⟩
def PWR_ENERGY_MJ : Fld := ⟨PWR_ENERGY, 63, 0, .ro⟩
/-- 17_reliability_power_thermal.md R472. -/
def RAIL : Loc := ⟨0x101020, 0x0, 0x4, 9, 4, 0x0⟩
def RAIL_MV : Fld := ⟨RAIL, 15, 0, .ro⟩
def RAIL_CURR : Fld := ⟨RAIL, 31, 16, .ro⟩
/-- 17_reliability_power_thermal.md R472. -/
def STL_TEMP : Loc := ⟨0x101100, 0x0, 0x4, 16, 4, 0x0⟩
def STL_TEMP_TEMP : Fld := ⟨STL_TEMP, 7, 0, .ro⟩
def STL_TEMP_SELF_HOT : Fld := ⟨STL_TEMP, 8, 8, .ro⟩
def STL_TEMP_HALF : Fld := ⟨STL_TEMP, 9, 9, .ro⟩
def STL_TEMP_LEVEL : Fld := ⟨STL_TEMP, 12, 10, .ro⟩
/-- 17_reliability_power_thermal.md R472. -/
def THERM_STATUS : Loc := ⟨0x101200, 0x0, 0x0, 1, 4, 0x0⟩
def THERM_STATUS_TRIP : Fld := ⟨THERM_STATUS, 0, 0, .ro⟩
def THERM_STATUS_SRC : Fld := ⟨THERM_STATUS, 3, 1, .ro⟩
def THERM_STATUS_INDEX : Fld := ⟨THERM_STATUS, 7, 4, .ro⟩
def THERM_STATUS_TEMP : Fld := ⟨THERM_STATUS, 15, 8, .ro⟩
/-- 17_reliability_power_thermal.md R472. -/
def SAG_STATUS : Loc := ⟨0x101300, 0x0, 0x0, 1, 4, 0x0⟩
def SAG_STATUS_AUX_LOW : Fld := ⟨SAG_STATUS, 0, 0, .ro⟩
def SAG_STATUS_BOD : Fld := ⟨SAG_STATUS, 1, 1, .ro⟩
def SAG_STATUS_SAG_EV : Fld := ⟨SAG_STATUS, 2, 2, .w1c⟩
def SAG_STATUS_FLASH_ABANDON : Fld := ⟨SAG_STATUS, 3, 3, .w1c⟩
/-- 17_reliability_power_thermal.md R472. -/
def DROOP_CNT : Loc := ⟨0x101310, 0x0, 0x4, 25, 4, 0x0⟩
def DROOP_CNT_COUNT : Fld := ⟨DROOP_CNT, 31, 0, .rc⟩
/-- 18_register_map.md R477. -/
def DEV_TB : Loc := ⟨0x8, 0x0, 0x0, 1, 8, 0x0⟩
def DEV_TB_TB : Fld := ⟨DEV_TB, 63, 0, .ro⟩
/-- 18_register_map.md R477. -/
def STL_INFO : Loc := ⟨0x300000, 0x100000, 0x0, 1, 4, 0x0⟩
def STL_INFO_STALL : Fld := ⟨STL_INFO, 3, 0, .ro⟩
def STL_INFO_PADDOCK : Fld := ⟨STL_INFO, 7, 4, .ro⟩
def STL_INFO_IN_PDK : Fld := ⟨STL_INFO, 8, 8, .ro⟩
def STL_INFO_MAPPED_OUT : Fld := ⟨STL_INFO, 9, 9, .ro⟩
def STL_INFO_ROLE : Fld := ⟨STL_INFO, 10, 10, .ro⟩
def STL_INFO_HALF : Fld := ⟨STL_INFO, 11, 11, .ro⟩
/-- 18_register_map.md R477. -/
def STL_IRQ_SUM : Loc := ⟨0x300004, 0x100000, 0x0, 1, 4, 0x0⟩
def STL_IRQ_SUM_NUM : Fld := ⟨STL_IRQ_SUM, 0, 0, .ro⟩
def STL_IRQ_SUM_DEC : Fld := ⟨STL_IRQ_SUM, 1, 1, .ro⟩
def STL_IRQ_SUM_MXE : Fld := ⟨STL_IRQ_SUM, 2, 2, .ro⟩
def STL_IRQ_SUM_VXE : Fld := ⟨STL_IRQ_SUM, 3, 3, .ro⟩
def STL_IRQ_SUM_ATS : Fld := ⟨STL_IRQ_SUM, 4, 4, .ro⟩
def STL_IRQ_SUM_TMB : Fld := ⟨STL_IRQ_SUM, 5, 5, .ro⟩
def STL_IRQ_SUM_DMA : Fld := ⟨STL_IRQ_SUM, 15, 8, .ro⟩

def devRegs0 : List (Loc × List Fld) :=
  [(DEV_ID, [DEV_ID_PART_NUM, DEV_ID_SKU, DEV_ID_STEP_MAJOR, DEV_ID_STEP_MINOR]),
   (DEV_CAP, [DEV_CAP_STALLS, DEV_CAP_STACKS, DEV_CAP_LP_PKGS, DEV_CAP_BLK_CRC]),
   (MEM_CTRL, [MEM_CTRL_SCRUB_EN]),
   (MEM_SCRUB_HRS, [MEM_SCRUB_HRS_HOURS]),
   (MEM_LP_CFG, [MEM_LP_CFG_HALVES, MEM_LP_CFG_NCH]),
   (STK_TEMP, [STK_TEMP_TEMP, STK_TEMP_HOT, STK_TEMP_THROTTLE]),
   (STK_TEMP_MAX, [STK_TEMP_MAX_TEMP]),
   (MEM_REPAIR_CMD, [MEM_REPAIR_CMD_OP, MEM_REPAIR_CMD_GO]),
   (MEM_REPAIR_ARG, [MEM_REPAIR_ARG_STACK, MEM_REPAIR_ARG_CHANNEL, MEM_REPAIR_ARG_BANK, MEM_REPAIR_ARG_ROW]),
   (MEM_REPAIR_STATUS, [MEM_REPAIR_STATUS_BUSY, MEM_REPAIR_STATUS_DONE, MEM_REPAIR_STATUS_REFUSED, MEM_REPAIR_STATUS_SPARES_LEFT, MEM_REPAIR_STATUS_LANE_USED]),
   (CH_STATUS, [CH_STATUS_MAPPED_OUT, CH_STATUS_MAPOUT_REQ, CH_STATUS_CE, CH_STATUS_UE, CH_STATUS_OWED]),
   (CH_CE_CNT, [CH_CE_CNT_COUNT])]

def devRegs1 : List (Loc × List Fld) :=
  [(CH_UE_CNT, [CH_UE_CNT_COUNT]),
   (CH_ERR_ADDR, [CH_ERR_ADDR_C]),
   (CH_LANE, [CH_LANE_GROUP, CH_LANE_VALID, CH_LANE_SPARED]),
   (CH_REF_CNT, [CH_REF_CNT_COUNT]),
   (LP_STATUS, [LP_STATUS_MAPPED_OUT, LP_STATUS_CE, LP_STATUS_UE, LP_STATUS_HOT]),
   (LP_CE_CNT, [LP_CE_CNT_COUNT]),
   (LP_UE_CNT, [LP_UE_CNT_COUNT]),
   (LP_ERR_ADDR, [LP_ERR_ADDR_LINE]),
   (LDG_CTRL, [LDG_CTRL_WIN_HALF]),
   (LDG_STATUS, [LDG_STATUS_CMD_REJ, LDG_STATUS_BOOK_ERR, LDG_STATUS_REJ_CODE]),
   (LDG_REJ_CNT, [LDG_REJ_CNT_COUNT]),
   (PDK_CTRL, [PDK_CTRL_OPEN, PDK_CTRL_ABORT_ALL, PDK_CTRL_BAL_EN, PDK_CTRL_ROLESET])]

def devRegs2 : List (Loc × List Fld) :=
  [(PDK_STATUS, [PDK_STATUS_STATE, PDK_STATUS_PENDING_ENABLE, PDK_STATUS_ROLESET, PDK_STATUS_BAND, PDK_STATUS_WAIT_HOST, PDK_STATUS_REPLAY, PDK_STATUS_BOOK_ERR]),
   (PDK_STEP, [PDK_STEP_COUNT]),
   (PDK_HINGE_TB, [PDK_HINGE_TB_TB]),
   (PDK_CNT_A, [PDK_CNT_A_FREE, PDK_CNT_A_QUEUED, PDK_CNT_A_PROMPT, PDK_CNT_A_DECODE]),
   (PDK_CNT_B, [PDK_CNT_B_WAIT_PAGE, PDK_CNT_B_PAUSED, PDK_CNT_B_DRAINING, PDK_CNT_B_DONE]),
   (PDK_PG, [PDK_PG_FREE, PDK_PG_PEND]),
   (PDK_PG_TOTAL, [PDK_PG_TOTAL_TOTAL]),
   (PDK_TIER_TOTAL, [PDK_TIER_TOTAL_TOTAL]),
   (PDK_TIER, [PDK_TIER_FREE, PDK_TIER_PEND]),
   (PDK_TBT_MISS, [PDK_TBT_MISS_COUNT]),
   (PDK_TTFT_MISS, [PDK_TTFT_MISS_COUNT]),
   (PDK_WAITPG_CNT, [PDK_WAITPG_CNT_COUNT])]

def devRegs3 : List (Loc × List Fld) :=
  [(PDK_FAIL_CNT, [PDK_FAIL_CNT_COUNT]),
   (PDK_HINGE_MCLK, [PDK_HINGE_MCLK_MCLK]),
   (PDK_HINGE_MAX, [PDK_HINGE_MAX_MCLK]),
   (TNT_BUDGET, [TNT_BUDGET_BUDGET]),
   (TNT_REFILL, [TNT_REFILL_REFILL]),
   (TNT_CAP, [TNT_CAP_CAP]),
   (TNT_ACTIVE, [TNT_ACTIVE_COUNT]),
   (TNT_LIFE, [TNT_LIFE_UNITS]),
   (TNT_SKIP, [TNT_SKIP_COUNT]),
   (HIF_STATUS, [HIF_STATUS_LINK_UP, HIF_STATUS_SPEED, HIF_STATUS_WIDTH, HIF_STATUS_FLIT, HIF_STATUS_CPL_ERR]),
   (HIF_NUMVF, [HIF_NUMVF_NUMVF, HIF_NUMVF_VF_EN, HIF_NUMVF_DRAINING, HIF_NUMVF_PENDING_ENABLE]),
   (HIF_VIOL_CNT, [HIF_VIOL_CNT_COUNT])]

def devRegs4 : List (Loc × List Fld) :=
  [(HIF_ATC_MISS, [HIF_ATC_MISS_COUNT]),
   (APT_WIN, [APT_WIN_EN, APT_WIN_VIEW, APT_WIN_BASE]),
   (PF_IRQ_MAP, [PF_IRQ_MAP_VEC]),
   (FN_CTRL, [FN_CTRL_EN, FN_CTRL_WIN_HALF]),
   (FN_STATUS, [FN_STATUS_VIOL, FN_STATUS_PRI_FAIL, FN_STATUS_LQ_BAD, FN_STATUS_DRAINING, FN_STATUS_PENDING_ENABLE]),
   (FN_LQ_CFG, [FN_LQ_CFG_LOG2]),
   (FN_LQ_DBELL, [FN_LQ_DBELL_TAIL]),
   (FN_LQ_BASE, [FN_LQ_BASE_ADDR]),
   (FN_CQ_BASE, [FN_CQ_BASE_ADDR]),
   (FN_CQ_DBELL, [FN_CQ_DBELL_CTAIL]),
   (FN_LQ_HEAD, [FN_LQ_HEAD_HEAD]),
   (FN_CQ_HEAD, [FN_CQ_HEAD_HEAD])]

def devRegs5 : List (Loc × List Fld) :=
  [(FN_IRQ_MAP, [FN_IRQ_MAP_CQ_VEC, FN_IRQ_MAP_REC_VEC, FN_IRQ_MAP_ERR_VEC]),
   (FN_COAL, [FN_COAL_COUNT, FN_COAL_TIME]),
   (FN_PRI_TMO, [FN_PRI_TMO_TMO]),
   (FN_PR_OUT, [FN_PR_OUT_COUNT]),
   (FN_VIOL_ADDR, [FN_VIOL_ADDR_OFFSET]),
   (FN_VIOL_CNT, [FN_VIOL_CNT_COUNT]),
   (DRT_ID, [DRT_ID_DID]),
   (DRT_CTRL, [DRT_CTRL_REVERT]),
   (DRT_STATUS, [DRT_STATUS_LOST, DRT_STATUS_TRANSIT_DROP, DRT_STATUS_UNREACH, DRT_STATUS_BAD_FLIT]),
   (DRT_LOST_CNT, [DRT_LOST_CNT_COUNT]),
   (DRT_PORT_STATUS, [DRT_PORT_STATUS_STATE, DRT_PORT_STATUS_MISWIRED, DRT_PORT_STATUS_DOWN_EV, DRT_PORT_STATUS_RETRAINS, DRT_PORT_STATUS_PEER_DID]),
   (DRT_PORT_CE, [DRT_PORT_CE_COUNT])]

def devRegs6 : List (Loc × List Fld) :=
  [(DRT_PORT_REPLAY, [DRT_PORT_REPLAY_COUNT]),
   (DRT_PORT_CRED, [DRT_PORT_CRED_VL0, DRT_PORT_CRED_VL1, DRT_PORT_CRED_VL2, DRT_PORT_CRED_VL3]),
   (DRT_PORT_TX, [DRT_PORT_TX_COUNT]),
   (DRT_PORT_RX, [DRT_PORT_RX_COUNT]),
   (COLL_STATUS, [COLL_STATUS_ABORT, COLL_STATUS_BROKEN, COLL_STATUS_DIVERGED, COLL_STATUS_REASON, COLL_STATUS_MISSING]),
   (COLL_EPOCH, [COLL_EPOCH_EPOCH]),
   (COLL_ABORT_CNT, [COLL_ABORT_CNT_COUNT]),
   (COLL_LATE_CNT, [COLL_LATE_CNT_COUNT]),
   (COLL_DECIDE_MAX, [COLL_DECIDE_MAX_NS]),
   (EXP_PUSH, [EXP_PUSH_VIEW, EXP_PUSH_ADDR]),
   (EXP_STATUS, [EXP_STATUS_QDEPTH, EXP_STATUS_ERR, EXP_STATUS_CODE]),
   (EXP_DONE_CNT, [EXP_DONE_CNT_COUNT])]

def devRegs7 : List (Loc × List Fld) :=
  [(IMP_REJ_CNT, [IMP_REJ_CNT_COUNT]),
   (DRT_ROUTE, [DRT_ROUTE_PRIMARY, DRT_ROUTE_ALT, DRT_ROUTE_ALT_EN, DRT_ROUTE_VALID]),
   (TACK_STATUS, [TACK_STATUS_STATE, TACK_STATUS_SRC, TACK_STATUS_MAINT_CAUSE]),
   (TACK_COMPAT, [TACK_COMPAT_FW, TACK_COMPAT_UC]),
   (TACK_IMAGE_ID, [TACK_IMAGE_ID_ID]),
   (TACK_CMD, [TACK_CMD_OP, TACK_CMD_PADDOCK, TACK_CMD_TACK_ARG, TACK_CMD_GO]),
   (TACK_CMD_STATUS, [TACK_CMD_STATUS_BUSY, TACK_CMD_STATUS_CMD_DONE, TACK_CMD_STATUS_CMD_ERR, TACK_CMD_STATUS_CMD_CAUSE]),
   (TACK_STAGE, [TACK_STAGE_VIEW, TACK_STAGE_ADDR]),
   (TACK_STAGE_LEN, [TACK_STAGE_LEN_LEN]),
   (TACK_FLASH_OFS, [TACK_FLASH_OFS_OFFSET]),
   (MAP_STALL, [MAP_STALL_OUT]),
   (MAP_CHANNEL, [MAP_CHANNEL_OUT])]

def devRegs8 : List (Loc × List Fld) :=
  [(MAP_GROOM, [MAP_GROOM_OUT]),
   (PDK_TACK, [PDK_TACK_CAUSE, PDK_TACK_SHRUNK, PDK_TACK_WAIT_SHRINK, PDK_TACK_SECT_VER]),
   (BOOT_STATUS, [BOOT_STATUS_PHASE, BOOT_STATUS_POWERDOWN_READY]),
   (BOOT_MS, [BOOT_MS_MS]),
   (RESET_CTRL, [RESET_CTRL_STALL, RESET_CTRL_PDK, RESET_CTRL_PADDOCK, RESET_CTRL_DEVICE, RESET_CTRL_POWERDOWN, RESET_CTRL_KEY]),
   (RESET_CAUSE, [RESET_CAUSE_CAUSE, RESET_CAUSE_PDK_RESETS]),
   (RESET_PEND, [RESET_PEND_STALLS, RESET_PEND_PENDING_ENABLE]),
   (FLT_HEAD, [FLT_HEAD_COUNT]),
   (FLT_TAIL, [FLT_TAIL_COUNT]),
   (FLT_STATUS, [FLT_STATUS_NEW, FLT_STATUS_FULL, FLT_STATUS_DROPPED, FLT_STATUS_PERSIST_DONE, FLT_STATUS_PERSIST_CUT, FLT_STATUS_TAIL_BAD]),
   (FLT_DROP_CNT, [FLT_DROP_CNT_COUNT]),
   (FLT_PERSIST_CNT, [FLT_PERSIST_CNT_COUNT])]

def devRegs9 : List (Loc × List Fld) :=
  [(FLT_THR_CH, [FLT_THR_CH_CE, FLT_THR_CH_UE, FLT_THR_CH_DMG]),
   (FLT_THR_LP, [FLT_THR_LP_CE, FLT_THR_LP_UE]),
   (FLT_THR_GRM, [FLT_THR_GRM_FAIL, FLT_THR_GRM_STALL_DMG]),
   (MAPREQ_STALL, [MAPREQ_STALL_REQ]),
   (MAPREQ_LP, [MAPREQ_LP_REQ]),
   (MAPREQ_GROOM, [MAPREQ_GROOM_REQ]),
   (MON_CH_DMG, [MON_CH_DMG_COUNT]),
   (MON_STALL_DMG, [MON_STALL_DMG_COUNT]),
   (MON_GRM_FAIL, [MON_GRM_FAIL_COUNT]),
   (PWR_CTRL, [PWR_CTRL_LIMIT]),
   (PWR_STATUS, [PWR_STATUS_LEVEL, PWR_STATUS_CAP_EV, PWR_STATUS_FAST, PWR_STATUS_AVG]),
   (PWR_CAP_CNT, [PWR_CAP_CNT_COUNT])]

def devRegs10 : List (Loc × List Fld) :=
  [(PWR_ENERGY, [PWR_ENERGY_MJ]),
   (RAIL, [RAIL_MV, RAIL_CURR]),
   (STL_TEMP, [STL_TEMP_TEMP, STL_TEMP_SELF_HOT, STL_TEMP_HALF, STL_TEMP_LEVEL]),
   (THERM_STATUS, [THERM_STATUS_TRIP, THERM_STATUS_SRC, THERM_STATUS_INDEX, THERM_STATUS_TEMP]),
   (SAG_STATUS, [SAG_STATUS_AUX_LOW, SAG_STATUS_BOD, SAG_STATUS_SAG_EV, SAG_STATUS_FLASH_ABANDON]),
   (DROOP_CNT, [DROOP_CNT_COUNT]),
   (DEV_TB, [DEV_TB_TB])]

/-- The registers of the device, ostler and ledger blocks. -/
def devRegs : List (Loc × List Fld) :=
  devRegs0 ++ devRegs1 ++ devRegs2 ++ devRegs3 ++ devRegs4 ++ devRegs5 ++ devRegs6 ++ devRegs7 ++ devRegs8 ++ devRegs9 ++ devRegs10

def stallRegs0 : List (Loc × List Fld) :=
  [(NUM_STATUS, [NUM_STATUS_SAT_SEEN, NUM_STATUS_NAN_NARROW, NUM_STATUS_ACC_INF, NUM_STATUS_ACC_NAN, NUM_STATUS_SCALE_RANGE, NUM_STATUS_FMT_BAD]),
   (NUM_SAT_CNT, [NUM_SAT_CNT_COUNT]),
   (NUM_NAN_CNT, [NUM_NAN_CNT_COUNT]),
   (NUM_IRQ_EN, [NUM_IRQ_EN_EN]),
   (HGU_CTRL, [HGU_CTRL_MODE, HGU_CTRL_CLEAR]),
   (HGU_LO, [HGU_LO_LO]),
   (HGU_INVW, [HGU_INVW_INVW]),
   (HGU_STATUS, [HGU_STATUS_BIN_SAT, HGU_STATUS_BUSY]),
   (HGU_NAN_CNT, [HGU_NAN_CNT_COUNT]),
   (HGU_BIN, [HGU_BIN_COUNT]),
   (SCL_FILE, [SCL_FILE_SCALE_LO, SCL_FILE_SCALE_HI]),
   (DEC_STATUS, [DEC_STATUS_DAMAGE, DEC_STATUS_DMG_OVF, DEC_STATUS_TBL_BAD, DEC_STATUS_TBL_MISS])]

def stallRegs1 : List (Loc × List Fld) :=
  [(DEC_DMG_CNT, [DEC_DMG_CNT_COUNT]),
   (DMG_TENSOR, [DMG_TENSOR_TENSOR_TAG, DMG_TENSOR_TABLE_ID, DMG_TENSOR_SUBSTREAM]),
   (DMG_BLOCK, [DMG_BLOCK_BLOCK]),
   (DMG_WHERE, [DMG_WHERE_CAUSE, DMG_WHERE_SRC, DMG_WHERE_GROOM, DMG_WHERE_CHANNEL, DMG_WHERE_STACK]),
   (DEC_IRQ_EN, [DEC_IRQ_EN_EN]),
   (TBL_BAD_ID, [TBL_BAD_ID_TABLE_ID]),
   (TBL_VALID, [TBL_VALID_VALID]),
   (MXE_STATUS, [MXE_STATUS_SHAPE_BAD, MXE_STATUS_OPND_RANGE, MXE_STATUS_POISON_SEEN]),
   (MXE_IRQ_EN, [MXE_IRQ_EN_EN]),
   (MXE_BUSY, [MXE_BUSY_ARRAY0, MXE_BUSY_ARRAY1, MXE_BUSY_WPATH]),
   (MXE_REJ_CNT, [MXE_REJ_CNT_COUNT]),
   (MXE_ISSUE_CNT, [MXE_ISSUE_CNT_COUNT])]

def stallRegs2 : List (Loc × List Fld) :=
  [(MXE_ROW_CNT, [MXE_ROW_CNT_COUNT]),
   (ACC_POISON0, [ACC_POISON0_ROWS]),
   (ACC_POISON1, [ACC_POISON1_ROWS]),
   (VXE_STATUS, [VXE_STATUS_DESC_BAD, VXE_STATUS_OP_BAD, VXE_STATUS_SEG_BAD, VXE_STATUS_V_INF, VXE_STATUS_V_NAN, VXE_STATUS_POISON_SEEN, VXE_STATUS_RED_EMPTY]),
   (VXE_IRQ_EN, [VXE_IRQ_EN_EN]),
   (VXE_BUSY, [VXE_BUSY_VXE, VXE_BUSY_RDU, VXE_BUSY_SEG_OPEN]),
   (VXE_REJ_CNT, [VXE_REJ_CNT_COUNT]),
   (VXE_ROW_CNT, [VXE_ROW_CNT_COUNT]),
   (SUMM, [SUMM_VALUE, SUMM_INDEX]),
   (SUMM_FLAGS, [SUMM_FLAGS_VALID0, SUMM_FLAGS_ANY_NAN0, SUMM_FLAGS_ANY_INF0, SUMM_FLAGS_ANY_POISON0, SUMM_FLAGS_EMPTY0, SUMM_FLAGS_SAT0, SUMM_FLAGS_VALID1, SUMM_FLAGS_ANY_NAN1, SUMM_FLAGS_ANY_INF1, SUMM_FLAGS_ANY_POISON1, SUMM_FLAGS_EMPTY1, SUMM_FLAGS_SAT1, SUMM_FLAGS_VALID2, SUMM_FLAGS_ANY_NAN2, SUMM_FLAGS_ANY_INF2, SUMM_FLAGS_ANY_POISON2, SUMM_FLAGS_EMPTY2, SUMM_FLAGS_SAT2, SUMM_FLAGS_VALID3, SUMM_FLAGS_ANY_NAN3, SUMM_FLAGS_ANY_INF3, SUMM_FLAGS_ANY_POISON3, SUMM_FLAGS_EMPTY3, SUMM_FLAGS_SAT3, SUMM_FLAGS_VALID4, SUMM_FLAGS_ANY_NAN4, SUMM_FLAGS_ANY_INF4, SUMM_FLAGS_ANY_POISON4, SUMM_FLAGS_EMPTY4, SUMM_FLAGS_SAT4, SUMM_FLAGS_VALID5, SUMM_FLAGS_ANY_NAN5, SUMM_FLAGS_ANY_INF5, SUMM_FLAGS_ANY_POISON5, SUMM_FLAGS_EMPTY5, SUMM_FLAGS_SAT5, SUMM_FLAGS_VALID6, SUMM_FLAGS_ANY_NAN6, SUMM_FLAGS_ANY_INF6, SUMM_FLAGS_ANY_POISON6, SUMM_FLAGS_EMPTY6, SUMM_FLAGS_SAT6, SUMM_FLAGS_VALID7, SUMM_FLAGS_ANY_NAN7, SUMM_FLAGS_ANY_INF7, SUMM_FLAGS_ANY_POISON7, SUMM_FLAGS_EMPTY7, SUMM_FLAGS_SAT7]),
   (STB_POISON_LINES, [STB_POISON_LINES_COUNT]),
   (STB_POISON, [STB_POISON_BITS])]

def stallRegs3 : List (Loc × List Fld) :=
  [(GPORT_STATUS, [GPORT_STATUS_STARTUP, GPORT_STATUS_GP_BAD, GPORT_STATUS_GP_CAUSE]),
   (GPORT_WDOG, [GPORT_WDOG_LIMIT]),
   (GPORT_SEL, [GPORT_SEL_GI]),
   (GPORT_READY, [GPORT_READY_READY]),
   (GPORT_MAP, [GPORT_MAP_CHANNEL, GPORT_MAP_STACK, GPORT_MAP_FAR, GPORT_MAP_ADOPTED, GPORT_MAP_VALID]),
   (DMA_CH_CTRL, [DMA_CH_CTRL_EN, DMA_CH_CTRL_ABORT, DMA_CH_CTRL_RESUME]),
   (DMA_CH_PUSH, [DMA_CH_PUSH_DESC]),
   (DMA_CH_CFG, [DMA_CH_CFG_OUTSTANDING]),
   (DMA_CH_STATUS, [DMA_CH_STATUS_STATE, DMA_CH_STATUS_CODE, DMA_CH_STATUS_DONE, DMA_CH_STATUS_ERR, DMA_CH_STATUS_HALT, DMA_CH_STATUS_PENDING_ENABLE, DMA_CH_STATUS_QDEPTH]),
   (DMA_CH_SPOS, [DMA_CH_SPOS_BLOCK, DMA_CH_SPOS_OFFSET]),
   (DMA_CH_DPOS, [DMA_CH_DPOS_ALL]),
   (DMA_CH_FAULT_ADDR, [DMA_CH_FAULT_ADDR_ADDR])]

def stallRegs4 : List (Loc × List Fld) :=
  [(DMA_CH_SLOTS, [DMA_CH_SLOTS_FREE, DMA_CH_SLOTS_FILLING, DMA_CH_SLOTS_FULL, DMA_CH_SLOTS_TAKEN, DMA_CH_SLOTS_NSLOT]),
   (DMA_CH_DONE_CNT, [DMA_CH_DONE_CNT_COUNT]),
   (DMA_CH_DONE_TAG, [DMA_CH_DONE_TAG_TAG]),
   (DMA_CH_BYTES, [DMA_CH_BYTES_COUNT]),
   (DMA_CH_IRQ_EN, [DMA_CH_IRQ_EN_EN]),
   (SHORT_STATUS, [SHORT_STATUS_INFLIGHT, SHORT_STATUS_ERR, SHORT_STATUS_CODE, SHORT_STATUS_ERR_TAG]),
   (DMA_STATUS, [DMA_STATUS_ALIGN_FAULT, DMA_STATUS_ALIGN_SRC]),
   (ATS_STATUS, [ATS_STATUS_DESC_BAD, ATS_STATUS_MMU_FAULT, ATS_STATUS_EMPTY_ROW, ATS_STATUS_INF_SCORE, ATS_STATUS_NAN_SCORE, ATS_STATUS_POISON_SEEN]),
   (ATS_IRQ_EN, [ATS_IRQ_EN_EN]),
   (ATS_BUSY, [ATS_BUSY_ATTN]),
   (ATS_EMPTY_CNT, [ATS_EMPTY_CNT_COUNT]),
   (ATS_INF_CNT, [ATS_INF_CNT_COUNT])]

def stallRegs5 : List (Loc × List Fld) :=
  [(ATS_NAN_CNT, [ATS_NAN_CNT_COUNT]),
   (ATS_FAULT_CNT, [ATS_FAULT_CNT_COUNT]),
   (ATS_SIDE_BASE, [ATS_SIDE_BASE_VIEW, ATS_SIDE_BASE_ADDR]),
   (ATS_FAULT_VA, [ATS_FAULT_VA_VA]),
   (ATS_FAULT_SEQ, [ATS_FAULT_SEQ_LEDGER, ATS_FAULT_SEQ_CAUSE]),
   (ATS_SPAN_CNT, [ATS_SPAN_CNT_COUNT]),
   (TMB_STATUS, [TMB_STATUS_PARAM_BAD, TMB_STATUS_EMPTY_ROW, TMB_STATUS_POISON_ROW, TMB_STATUS_NAN_LOGIT, TMB_STATUS_RING_HELD, TMB_STATUS_RING_BAD, TMB_STATUS_DESC_BAD]),
   (TMB_IRQ_EN, [TMB_IRQ_EN_EN]),
   (TMB_BUSY, [TMB_BUSY_SAMPLE]),
   (TMB_NAN_CNT, [TMB_NAN_CNT_COUNT]),
   (TMB_EMPTY_CNT, [TMB_EMPTY_CNT_COUNT]),
   (TMB_POISON_CNT, [TMB_POISON_CNT_COUNT])]

def stallRegs6 : List (Loc × List Fld) :=
  [(TMB_PARAM_CNT, [TMB_PARAM_CNT_COUNT]),
   (TMB_HELD_CNT, [TMB_HELD_CNT_COUNT]),
   (TMB_FIRST, [TMB_FIRST_LEDGER, TMB_FIRST_CAUSE]),
   (TMB_TOKEN_CNT, [TMB_TOKEN_CNT_COUNT]),
   (TMB_ROW_CNT, [TMB_ROW_CNT_COUNT]),
   (SCC_CTRL, [SCC_CTRL_RUN]),
   (SCC_STATUS, [SCC_STATUS_RUNNING, SCC_STATUS_MODE, SCC_STATUS_WAITING, SCC_STATUS_FATAL, SCC_STATUS_VIOL]),
   (SCC_RESET_PC, [SCC_RESET_PC_PC]),
   (SCC_TEN_BASE, [SCC_TEN_BASE_IBASE, SCC_TEN_BASE_DBASE]),
   (SCC_VIOL_ADDR, [SCC_VIOL_ADDR_ADDR]),
   (SCC_VIOL_CNT, [SCC_VIOL_CNT_COUNT]),
   (SCC_FATAL, [SCC_FATAL_CAUSE, SCC_FATAL_PC])]

def stallRegs7 : List (Loc × List Fld) :=
  [(SCC_MBOX, [SCC_MBOX_MSG]),
   (DSP_CTRL, [DSP_CTRL_SKIP, DSP_CTRL_FLUSH]),
   (DSP_STATUS, [DSP_STATUS_DEPTH, DSP_STATUS_CMD_REJ]),
   (DSP_SEQ, [DSP_SEQ_SEQ]),
   (DSP_REJ_SEQ, [DSP_REJ_SEQ_SEQ]),
   (DSP_REJ_OP, [DSP_REJ_OP_OP]),
   (LATCH_STATE, [LATCH_STATE_REL]),
   (SCC_INSN_CNT, [SCC_INSN_CNT_COUNT]),
   (STL_DQ_CTRL, [STL_DQ_CTRL_EN, STL_DQ_CTRL_BASE, STL_DQ_CTRL_LOG2]),
   (STL_DBELL, [STL_DBELL_TAIL]),
   (STL_DQ_HEAD, [STL_DQ_HEAD_HEAD]),
   (STL_DQ_DONE, [STL_DQ_DONE_COUNT])]

def stallRegs8 : List (Loc × List Fld) :=
  [(STL_INFO, [STL_INFO_STALL, STL_INFO_PADDOCK, STL_INFO_IN_PDK, STL_INFO_MAPPED_OUT, STL_INFO_ROLE, STL_INFO_HALF]),
   (STL_IRQ_SUM, [STL_IRQ_SUM_NUM, STL_IRQ_SUM_DEC, STL_IRQ_SUM_MXE, STL_IRQ_SUM_VXE, STL_IRQ_SUM_ATS, STL_IRQ_SUM_TMB, STL_IRQ_SUM_DMA])]

/-- The registers of a stall block. -/
def stallRegs : List (Loc × List Fld) :=
  stallRegs0 ++ stallRegs1 ++ stallRegs2 ++ stallRegs3 ++ stallRegs4 ++ stallRegs5 ++ stallRegs6 ++ stallRegs7 ++ stallRegs8

def groomRegs0 : List (Loc × List Fld) :=
  [(GRM_CTRL, [GRM_CTRL_GO, GRM_CTRL_ABORT, GRM_CTRL_ENTRY, GRM_CTRL_SEQ]),
   (GRM_STATUS, [GRM_STATUS_READY, GRM_STATUS_BUSY, GRM_STATUS_PENDING, GRM_STATUS_DONE, GRM_STATUS_ERR, GRM_STATUS_ABORTED, GRM_STATUS_WDOG, GRM_STATUS_CORE_FAULT, GRM_STATUS_DESC_BAD, GRM_STATUS_ADDR_BAD, GRM_STATUS_SCALE_RANGE, GRM_STATUS_TBL_BAD, GRM_STATUS_TBL_MISS, GRM_STATUS_DAMAGE, GRM_STATUS_ACC_INF, GRM_STATUS_ACC_NAN, GRM_STATUS_SEQ_DONE]),
   (GRM_FAULT, [GRM_FAULT_FAULT_PC, GRM_FAULT_FAULT_CAUSE, GRM_FAULT_CHAIN_STUCK]),
   (GRM_DMG_CNT, [GRM_DMG_CNT_COUNT]),
   (GRM_REF_CNT, [GRM_REF_CNT_COUNT]),
   (GRM_CYCLES, [GRM_CYCLES_COUNT]),
   (GRM_CTX_SLOT, [GRM_CTX_SLOT_MAP]),
   (GRM_CTX_SCALE, [GRM_CTX_SCALE_OFFSET]),
   (GRM_TBL, [GRM_TBL_TABLE_ID, GRM_TBL_VALID]),
   (GRM_ARG, [GRM_ARG_ARG]),
   (GRM_RET, [GRM_RET_RET])]

/-- The registers of one groom command area. -/
def groomRegs : List (Loc × List Fld) :=
  groomRegs0

end Reg
end Sys2Proof.Machine
end

