-- ==== Sys2Proof/Config.lean ====
section
/-! DEFINITION. The free values of the model: what 00_scope.md to 19_package_and_electrical.md leave open. None has a body, so no
proof can see its value; each is applied to State's counter `free`, which the step that uses it advances. -/
namespace Sys2Proof

/-- A value the spec leaves undefined or does not state (notes/assumptions/12.md). -/
opaque Config.freeValue : Nat → BitVec 64

/-- A choice the spec leaves to the part (notes/assumptions/12.md). -/
opaque Config.freeChoice : Nat → Bool

end Sys2Proof
end

