-- ==== Sys2Proof/Machine/Blocks.lean ====
section
/-! DEFINITION. Code tables, compressed blocks and their checks (03_weight_compression.md R71 to R88), and packed codes (R36). -/
namespace Sys2Proof.Machine

/-- Byte `i` of a list, 0 beyond its end. -/
def byteAt (l : List Byte) (i : Nat) : Nat := (l.getD i 0).toNat

/-- The little-endian number in bytes `i` to `i + n − 1` (00_scope.md R5). -/
def leAt (l : List Byte) (i : Nat) : Nat → Nat
  | 0 => 0
  | n + 1 => byteAt l i + 256 * leAt l (i + 1) n

/-- The `n` bytes of a number, least significant first. -/
def leBytes (v : Nat) : Nat → List Byte
  | 0 => []
  | n + 1 => BitVec.ofNat 8 v :: leBytes (v / 256) n

/-- Bits `hi` down to `lo` of a number. -/
def bits (v hi lo : Nat) : Nat := v / 2 ^ lo % 2 ^ (hi + 1 - lo)

/-- Bit `i` of a number. -/
def bit (v i : Nat) : Bool := v / 2 ^ i % 2 == 1

/-- A number with bits `hi` down to `lo` replaced. -/
def putBits (v hi lo x : Nat) : Nat :=
  v - bits v hi lo * 2 ^ lo + x % 2 ^ (hi + 1 - lo) * 2 ^ lo

def allZero (l : List Byte) : Bool := l.all fun b => decide (b = 0)

/-- Code `i` of width `w` in bytes packed under R36. -/
def packedCode (l : List Byte) (w i : Nat) : Nat :=
  bits (leAt l (w * i / 8) 5) (w * i % 8 + w - 1) (w * i % 8)

/-- Replaces code `i` of width `w` in packed bytes. -/
def putCode (l : List Byte) (w i c : Nat) : List Byte :=
  let b := w * i / 8
  let n := (w * i % 8 + w + 7) / 8
  let v := putBits (leAt l b n) (w * i % 8 + w - 1) (w * i % 8) c
  l.take b ++ leBytes v n ++ l.drop (b + n)

/-- A code table: its format, its longest code and the length of each symbol (R75, R76). -/
structure CodeTable where
  fmt : Nat
  maxLen : Nat
  lens : List Nat
deriving DecidableEq, Repr

/-- Formats that may be compressed (R71). -/
def fmtCodable (f : Nat) : Bool := decide (f ≤ 5)
def fmtSymbols (f : Nat) : Nat := 2 ^ fmtBits f
/-- Codes per sub-stream, n of R72. -/
def codesPerSub (f : Nat) : Nat := match fmtBits f with | 4 => 512 | 6 => 340 | _ => 256
def codesPerBlock (f : Nat) : Nat := 16 * codesPerSub f
def tableImageSize (f : Nat) : Nat := if fmtBits f = 8 then 192 else 64

/-- The fields of an image that its checks and TBL_BAD_ID need. -/
def tableImageId (img : List Byte) : Nat := bits (leAt img 0 2) 9 0
def tableImageFmt (img : List Byte) : Nat := bits (leAt img 0 2) 15 12

/-- The checks of R77 on an image that lies wholly in the STB. -/
def parseTable (img : List Byte) : Option CodeTable :=
  let fmt := tableImageFmt img
  let maxLen := bits (byteAt img 2) 3 0
  let lens := (List.range (fmtSymbols fmt)).map fun s => packedCode (img.drop 16) 4 s
  let used := 16 + fmtSymbols fmt / 2
  let present := lens.filter (· > 0)
  if fmtCodable fmt && bits (leAt img 0 2) 11 10 == 0 && bits (byteAt img 2) 7 4 == 0
      && allZero ((img.drop 3).take 13) && allZero ((img.take (tableImageSize fmt)).drop used)
      && lens.all (· ≤ 12) && lens.foldl max 0 == maxLen && decide (present.length ≥ 2)
      && (present.map fun n => 2 ^ (12 - n)).sum == 4096
  then some ⟨fmt, maxLen, lens⟩ else none

/-- The number of symbols of length `n`. -/
def CodeTable.count (t : CodeTable) (n : Nat) : Nat := (t.lens.filter (· == n)).length

/-- The symbols of length `n`, in increasing value. -/
def CodeTable.symbolsOf (t : CodeTable) (n : Nat) : List Nat :=
  (List.range t.lens.length).filter fun s => t.lens.getD s 0 == n

/-- One row of the decoder: the first code of this length and the symbols that have it. -/
abbrev DecodeRow := Nat × List Nat

/-- first[n] and the symbols of each length 1 to `fuel` (R75). -/
def CodeTable.rows (t : CodeTable) : Nat → Nat → Nat → List DecodeRow
  | 0, _, _ => []
  | k + 1, n, code => (code, t.symbolsOf n) :: CodeTable.rows t k (n + 1) ((code + (t.symbolsOf n).length) * 2)

/-- decode_one of R75: the symbol and the bits that remain, none where the bits end first. -/
def decodeOne : List DecodeRow → Nat → List Bool → Option (Nat × List Bool)
  | [], _, _ => none
  | _ :: _, _, [] => none
  | (first, syms) :: r, v, b :: bs =>
    let v := v * 2 + (if b then 1 else 0)
    if syms.length > 0 && decide (v < first + syms.length) then some (syms.getD (v - first) 0, bs)
    else decodeOne r v bs

/-- `n` codes one after another. -/
def decodeMany (rows : List DecodeRow) : Nat → List Bool → Option (List Nat × List Bool)
  | 0, bs => some ([], bs)
  | n + 1, bs =>
    match decodeOne rows 0 bs with
    | none => none
    | some (s, bs') =>
      match decodeMany rows n bs' with
      | none => none
      | some (l, bs'') => some (s :: l, bs'')

/-- The bits of a sub-stream in reading order: bytes rising, bit 7 of each first (R74). -/
def streamBits (l : List Byte) : List Bool :=
  l.flatMap fun b => (List.range 8).map fun i => bit b.toNat (7 - i)

/-- One bit of the reflected CRC-32C register (R86). -/
def crcStep (c : Nat) : Nat := if c % 2 = 1 then (c / 2) ^^^ 0x82F63B78 else c / 2
def crcByte (c : Nat) (b : Byte) : Nat :=
  let x := c ^^^ b.toNat
  crcStep (crcStep (crcStep (crcStep (crcStep (crcStep (crcStep (crcStep x)))))))
/-- CRC-32C (R86). -/
def crc32c (l : List Byte) : Nat := (l.foldl crcByte 0xFFFFFFFF) ^^^ 0xFFFFFFFF

/-- What decoding a block answers: CAUSE of R88 (0: no damage), the sub-stream reported and its codes. -/
structure BlockVerdict where
  cause : Nat
  sub : Nat
  codes : List Nat
deriving DecidableEq, Repr

def blockHeaderSize (crc : Bool) : Nat := if crc then 16 else 8
/-- Stored size of R83. -/
def blockStoredSize (crc raw : Bool) (slot : Nat) : Nat :=
  if raw then 4160 else (blockHeaderSize crc + 256 * slot + 63) / 64 * 64

/-- LEN[s] of R82, `crc` telling the X8 from the S4. -/
def blockSubLen (crc : Bool) (b : List Byte) (s : Nat) : Nat :=
  let slot := byteAt b 2
  if crc then 16 * slot - bits (leAt b 4 8) (4 * s + 3) (4 * s)
  else 16 * slot - 4 * bits (leAt b 4 4) (2 * s + 1) (2 * s)

/-- The header checks of R87 item 1, as CAUSE 1 to 5 of R88. -/
def blockHeaderCause (crc : Bool) (fmt tid : Nat) (b : List Byte) : Nat :=
  let h := leAt b 0 2
  let raw := bit h 10
  let slot := byteAt b 2
  if bit h 11 || byteAt b 3 != 0 then 1
  else if bits h 15 12 != fmt then 2
  else if bits h 9 0 != tid then 3
  else if (if raw then slot != 0 else slot == 0 || decide (slot > 15)) || b.length != blockStoredSize crc raw slot then 4
  else if raw && (if crc then leAt b 4 8 else leAt b 4 4) != 0 then 5
  else 0

/-- Sub-stream `s` of a compressed block (R87 item 2): its cause and its codes. -/
def blockSub (crc : Bool) (rows : List DecodeRow) (n : Nat) (b : List Byte) (s : Nat) : Nat × List Nat :=
  let len := blockSubLen crc b s
  let body := (b.drop (blockHeaderSize crc + s * 16 * byteAt b 2)).take len
  match decodeMany rows n (streamBits body) with
  | none => (6, [])
  | some (codes, rest) =>
    let unit := if crc then 8 else 32
    if rest.length ≥ unit then (7, codes)
    else if rest.any id then (8, codes)
    else (0, codes)

/-- The lowest cause among the sub-streams, with the lowest sub-stream that has it (R88). -/
def lowestCause (l : List (Nat × Nat)) : Nat × Nat :=
  l.foldl (fun best x => if x.1 = 0 then best else if best.1 = 0 || decide (x.1 < best.1) then x else best) (0, 0)

/-- All checks of R87 on one stored block, with the codes it gives: none with a header cause, else those its sub-streams decode, one that a code
overruns giving none, so that the codes after it move up (DESIGN CHOICE, notes/assumptions/75.md; they are poisoned all the same, R89). -/
def decodeBlock (crc : Bool) (fmt tid : Nat) (t : CodeTable) (b : List Byte) : BlockVerdict :=
  let hc := blockHeaderCause crc fmt tid b
  if hc ≠ 0 then ⟨hc, 0, []⟩
  else
    let hs := blockHeaderSize crc
    let raw := bit (leAt b 0 2) 10
    let payload := if raw then 4096 else 256 * byteAt b 2
    let crcBad := crc && crc32c (b.take 12 ++ (b.drop 16).take payload) != leAt b 12 4
    if raw then
      let p := (b.drop hs).take 4096
      let codes := (List.range (codesPerBlock fmt)).map fun i => packedCode p (fmtBits fmt) i
      if fmtBits fmt = 6 && !allZero (p.drop 4080) then ⟨8, 0, codes⟩
      else if crcBad then ⟨9, 0, codes⟩ else ⟨0, 0, codes⟩
    else
      let rows := t.rows t.maxLen 1 0
      let subs := (List.range 16).map fun s => blockSub crc rows (codesPerSub fmt) b s
      let codes := subs.flatMap (·.2)
      let worst := lowestCause ((List.range 16).map fun s => ((subs.getD s (0, [])).1, s))
      if worst.1 ≠ 0 then ⟨worst.1, worst.2, codes⟩
      else if crcBad then ⟨9, 0, codes⟩ else ⟨0, 0, codes⟩

end Sys2Proof.Machine
end

