-- ==== Sys2Proof/Machine/State.lean ====
section
/-! DEFINITION. The state of the part as plain data, the two kinds of stop, and the state right after release of cold reset.
Every store is keyed by the index of the unit it belongs to; an unlisted key holds the unit's reset value. -/
namespace Sys2Proof.Machine

/-- No command of this model ends in a fault: the spec gives every command its effect (an access to an address that names
nothing completes with an error response, R12 and R184). -/
inductive Fault
deriving DecidableEq, Repr

/-- The one refusal. -/
inductive Refusal
  /-- Raised by an arm of `exec` whose command has no meaning yet (safe: the machine stops where the hardware goes on). -/
  | notModelled (mnemonic : String)
deriving DecidableEq, Repr

/-- The SKU and stepping of the part (R1 to R4). -/
structure Part where
  x8 : Bool := true
  b0 : Bool := true
deriving DecidableEq, Repr

/-- An event on its way to the fault log (R451, R452). -/
structure FltEvent where
  tb : Dword
  serial : Nat
  code : Nat
  kind : Nat
  index : Nat
  detail : Dword
  marked : Bool
deriving DecidableEq, Repr

/-- The PMBus commands that the host sends, and no others (R498). -/
inductive PmbusCmd
  | readVout | readIout | statusWord | clearFaults
deriving DecidableEq, Repr

/-- The JTAG instructions that drive pins (R500). -/
inductive BoundaryScan
  | extest | pulse | train
deriving DecidableEq, Repr

/-- What leaves the part: the model's own log of its boundary, newest first (notes/assumptions/3.md). -/
inductive BusEvent
  | regValue (req : Requester) (off : Nat) (v : Dword)
  | regError (req : Requester) (off : Nat)
  | memValue (req : Requester) (bytes : List Byte) (poisoned : Bool)
  | memError (req : Requester) (addr : Nat)
  | msix (fn vec : Nat)
  | pageRequest (fn page idx : Nat)
  | translationRequest (fn page : Nat)
  | invalidationDone (fn : Nat)
  | unsupported (fn : Nat)
  | configRetry (fn : Nat)
  /-- The value of an item of configuration space; none of an item that the function does not have. -/
  | configValue (fn : Nat) (item : CfgItem) (v : Option Nat)
  | flit (port : Nat) (bytes : List Byte)
  | smbData (bytes : List Byte)
  | smbNoResponse
  /-- A command that the PMBus host sends to the regulator at an address (R498). -/
  | pmbus (addr : Nat) (cmd : PmbusCmd)
  | jtagData (v : Nat)
  /-- The levels, or the pulses of the lanes, that the boundary register puts on the pins (R500). -/
  | boundary (scan : BoundaryScan) (v : Dword)
  | pin (name : String) (level : Bool)
deriving DecidableEq, Repr

/-- Rows still to be put into a stream ring (R239): channel, slots in all, the next of them, and (offset, bytes with the bits
that are written, poisoned) writes. -/
structure RingOut where
  chan : Nat
  slots : Nat
  next : Nat
  writes : List (Nat × List (Option (Byte × Byte)) × Bool)
  /-- Slot `made` of the ring is FILLING for this command. -/
  filling : Bool := false
deriving DecidableEq, Repr

/-- A command record in a dispatcher window or in an engine (R347, R350). -/
structure WinCmd where
  seq : Word
  op : Nat
  waits : List Nat
  relEn : Bool
  rel : Nat
  relStall : Nat
  record : List Byte
  viaDq : Bool := false
  /-- Completed with status OK, its completion not yet acted on. -/
  ok : Bool := false
  /-- Bytes and line poison taken so far from a stream ring, keyed by the place of the descriptor in the record (R238). -/
  got : SMap (List Byte) := []
  gotPoison : SMap (List Bool) := []
  /-- Slots read so far, and whether a slot is TAKEN, keyed by the place of the descriptor. -/
  reads : SMap Nat := []
  holding : SMap Bool := []
  /-- Issued: its checks have passed; what it captured then (R44; HGU settings of a HIST). -/
  issued : Bool := false
  snap : List Nat := []
  /-- What an executed command still has to put into a stream ring. -/
  outs : Option RingOut := none
  /-- What a VCHAIN writes into its summary slot at completion: the slot, VALUE and INDEX, the flags beside VALID (R143). -/
  summ : Option (Nat × Nat × Nat) := none
deriving DecidableEq, Repr

/-- The dispatcher of a stall (R350 to R354). `held`: the rejected command whose release SKIP performs. -/
structure Dsp where
  window : List WinCmd := []
  running : List WinCmd := []
  held : Option WinCmd := none
  stepMsg : Option Dword := none
  /-- Sequence number plus one of the matrix instruction whose first tile the weight path holds (R112); 0: none. -/
  preload : Nat := 0
  /-- Sequence number plus one of the last VCHAIN accepted that names a summary slot (R144). -/
  summLast : SMap Nat := []
deriving DecidableEq, Repr

/-- The two tile registers of an array (R97): the codes of the tile that each holds with the mark of a poisoned tile, and the one the
array multiplies with. -/
structure TileRegs where
  tiles : SMap (List Nat × Bool) := []
  sel : Nat := 0
deriving DecidableEq, Repr

/-- One hardware loop register set (R344). -/
structure LoopSet where
  count : Word := 0
  start : Dword := 0
  last : Dword := 0
deriving DecidableEq, Repr

/-- A store waiting in the store buffer (R365). -/
structure StoreEntry where
  addr : Dword
  size : Nat
  value : Dword
  sup : Bool
deriving DecidableEq, Repr

/-- The delay slot in progress: the address of its branch and, where the branch is taken, its target (R342, R364). -/
structure SlotCtx where
  branchPc : Dword
  target : Option Dword
deriving DecidableEq, Repr

/-- The stall control core (R338 to R346, R358 to R367); its mode and run bits lie in SCC_STATUS. -/
structure Scc where
  gpr : SMap Dword := []
  pc : Dword := 0
  slot : Option SlotCtx := none
  loopsSup : SMap LoopSet := []
  loopsTen : SMap LoopSet := []
  ie : Bool := false
  inTrap : Bool := false
  inSlot : Bool := false
  prevSup : Bool := false
  prevIe : Bool := false
  trapPc : Dword := 0
  trapCause : Dword := 0
  trapInfo : Dword := 0
  trapEntry : Dword := 0
  trapSave : Dword := 0
  intMask : Dword := 0xFFFFFFFFFFFFFFFF
  tbAlarm : Dword := 0
  stores : List StoreEntry := []
  /-- The next instruction is the first after a TRET (R362). -/
  afterTret : Bool := false
  /-- IE written by SYSW, in force from the boundary after the next instruction (R363): the value and the boundaries to go. -/
  ieLater : Option (Bool × Nat) := none
  rejPending : Bool := false
  mboxPending : Bool := false
  /-- RUN has been cleared and the store buffer is not yet empty; RUN was set again meanwhile (R447). -/
  halting : Bool := false
  heldRun : Bool := false
  /-- What a waiting SHORT_WAIT waits for, a tag or 65,536 for every transfer, and the first failing status since (R356). -/
  shortWait : Option (Nat × Nat) := none
deriving DecidableEq, Repr

/-- An open segmented SUM (R134): its fields, the elements of each result so far (their canonical sum is what the running leaves
give), whether one was unmasked, and whether one was poisoned. -/
structure SegState where
  axis : Nat
  kTotal : Nat
  parts : Nat
  part : Nat
  pos : Nat
  elems : List (List Word)
  active : List Bool
  poison : List Bool
deriving DecidableEq, Repr

/-- A DMA channel descriptor (R231). -/
structure DmaDesc where
  kind : Nat
  trigger : Nat
  trigArg : Nat
  deadline : Nat
  trigVal : Nat
  pace : Nat
  srcCount : Nat
  dstCount : Nat
  srcList : Nat
  dstList : Nat
  ringBase : Nat
  nslot : Nat
  slotLines : Nat
  doneLatch : Nat
  latchEn : Bool
  irq : Bool
  tag : Nat
deriving DecidableEq, Repr

/-- The ring of a stream (R236): slot numbers count from 0 for the first slot used. -/
structure Ring where
  base : Nat
  nslot : Nat
  slotLines : Nat
  isOut : Bool
  /-- The oldest slot that has not come back to FREE. -/
  head : Nat := 0
  /-- STREAM_OUT: slots the producer has filled. -/
  made : Nat := 0
  /-- Lines the stream has issued. -/
  issued : Nat := 0
  /-- Lines written (or carried out) of each slot. -/
  lines : SMap Nat := []
  /-- The list of the stream has ended. -/
  ended : Bool := false
  /-- STREAM_IN: slot `head` is TAKEN by a consumer. STREAM_OUT: slot `made` is FILLING. -/
  inUse : Bool := false
  /-- The stream's descriptor has completed. -/
  finished : Bool := false
deriving DecidableEq, Repr

/-- Where a 64-byte line lies: a stack channel and channel-local address, a tier channel and raw address, an STB offset, a register
window offset, host memory (a function and its address), or nowhere. -/
inductive LineRef
  | dram (q c : Nat)
  | tier (p a : Nat)
  | stb (st off : Nat)
  | reg (off : Nat)
  | host (fn a : Nat)
  | hole
deriving DecidableEq, Repr

/-- One line of a transfer in flight, with the ring slot it fills or empties. -/
structure Flight where
  src : LineRef
  dst : LineRef
  slot : Option Nat
  /-- Its transfer (R240), its positions as DMA_CH_SPOS and DMA_CH_DPOS hold them, its address where a halt reports it. -/
  xfer : Nat
  spos : Nat
  dpos : Nat
  addr : Nat
deriving DecidableEq, Repr

/-- A request in the queue of a stack channel or of a tier channel (R197, R242): its DMA channel (8 × stall + channel), the line it
moves, the data of a write, its slack and when it entered. -/
structure MemReq where
  owner : Nat
  flight : Flight
  /-- none: a read; else the data to write. -/
  data : Option (List Byte)
  slack : Nat
  tb : Dword
deriving DecidableEq, Repr

/-- The controller of a stack channel (R197, R214). `open_`: the open row of each bank. -/
structure ChanCtl where
  queue : List MemReq := []
  writing : Bool := false
  inRow : Nat := 0
  rows : SMap (Option Nat) := []
  /-- TB value until which the channel retrains after SPARE_LANE. -/
  retrain : Dword := 0
  /-- Where the patrol scrubber reads next. -/
  scrub : Nat := 0
deriving DecidableEq, Repr

/-- A DMA channel (R231 to R254); its state, positions and counters lie in its registers. -/
structure DmaChan where
  queue : List Nat := []
  cur : Option DmaDesc := none
  /-- The trigger has been met. -/
  started : Bool := false
  startTb : Dword := 0
  /-- TB at the start of the last block, for PACE. -/
  blockTb : Option Dword := none
  ring : Option Ring := none
  /-- Lines in flight, and those of them whose source is not yet read, in order. -/
  flights : List Flight := []
  unread : List Flight := []
  nextXfer : Nat := 0
  /-- The host function and page it waits for. -/
  waitPage : Option (Nat × Nat) := none
  aborting : Bool := false
  passed : Nat := 0
  /-- The completion that set DONE asked for its interrupt. -/
  irqDone : Bool := false
deriving DecidableEq, Repr

/-- One end of a short transfer (R244). -/
structure ShortEnd where
  space : Nat
  view : Bool
  addr : Nat
deriving DecidableEq, Repr

/-- A short transfer in flight (R244, R245). -/
structure ShortXfer where
  tag : Nat
  src : ShortEnd
  dst : ShortEnd
  lines : Nat
  issued : Bool := false
deriving DecidableEq, Repr

/-- An entry of the address translation cache (R380). -/
structure AtcEntry where
  fn : Nat
  page : Nat
  size : Nat
  pa : Nat
  r : Bool
  w : Bool
deriving DecidableEq, Repr

/-- A page request outstanding (R381). -/
structure PageReq where
  fn : Nat
  page : Nat
  idx : Nat
  tb : Dword
deriving DecidableEq, Repr

/-- Events of a function's source not yet signalled (R385). -/
structure Coal where
  n : Nat := 0
  first : Dword := 0
deriving DecidableEq, Repr

/-- A checked ledger command whose completion record has not gone out: its serial number, status, ledger index and 64 bytes (R376). -/
structure CplWait where
  serial : Word
  status : Nat
  ix : Nat
  cmd : List Byte
deriving DecidableEq, Repr

/-- A PCIe function (R370 to R389): what its configuration space enables, its doorbells, commands fetched and not yet checked. -/
structure FnState where
  ats : Bool := false
  pri : Bool := false
  prAlloc : Nat := 0
  priStop : Bool := false
  d3 : Bool := false
  /-- Max_Payload_Size and Max_Read_Request_Size in bytes, and the completion timeout (R368): 0 the default, 1 to 4 the ranges A to D. -/
  maxPayload : Nat := 128
  maxReadRequest : Nat := 512
  cplRange : Nat := 0
  /-- A function-level reset is in progress. -/
  flr : Bool := false
  lqTail : Word := 0
  cqTail : Word := 0
  fetched : List (Word × List Byte) := []
  cpl : Option CplWait := none
  /-- The page that a ledger fetch waits for, and the one that the write of a completion record does. -/
  fetchPage : Option Nat := none
  cplPage : Option Nat := none
  coal : SMap Coal := []
deriving DecidableEq, Repr

/-- A GO taken or held: its entry, its tag and the snapshot of GRM_ARG (R152). -/
structure GoSnap where
  entry : Nat
  seq : Nat
  args : List Word
deriving DecidableEq, Repr

/-- A running groom sequence: the context (groom position) it runs for, its GO, whether GEND or a fault has ended it and with what. -/
structure GSeq where
  ctx : Nat
  go : GoSnap
  ended : Bool := false
  err : Bool := false
deriving DecidableEq, Repr

/-- A GMUL that has begun: its fields, the bytes of its weight stream read so far, the POISON marks of the results written, column by column,
and what it took at its issue: its scale entries, the stored sizes of its blocks and its code table with its number (R79, R153, R160). -/
structure GmulAt where
  args : GMulArgs
  data : List Byte := []
  marks : List Bool := []
  scales : List Nat := []
  sizes : List Nat := []
  table : Option (Nat × CodeTable) := none
deriving DecidableEq, Repr

/-- A groom (R146): what its contexts share (R177). -/
structure Groom where
  gr : SMap Word := []
  pc : Nat := 0
  run : Option GSeq := none
  /-- Bytes of code and entry points of the image its store holds; 0: none. -/
  codeLen : Nat := 0
  entries : List Nat := []
  /-- Flits received and not yet taken, oldest first, with their POISON bits. -/
  rx : List (List Byte × Bool) := []
  /-- Flits a waiting GRECV has taken so far. -/
  recvDone : Nat := 0
  tables : SMap (Option (Nat × CodeTable)) := []
  scale : SMap (BitVec 16) := []
  /-- POISON bit of each 32-byte word of scratch. -/
  poison : SMap Bool := []
  /-- The GMUL that its array is at. -/
  gmul : Option GmulAt := none
  sat : Nat := 0
  nan : Nat := 0
deriving DecidableEq, Repr

/-- A context of a groom, by groom position (R177): its pending GO, the GO held behind a drain, the drain. -/
structure GCtx where
  pend : Option GoSnap := none
  held : Option GoSnap := none
  draining : Bool := false
deriving DecidableEq, Repr

/-- Where a flit goes: a groom, or bytes of its owning stall's STB. -/
inductive FlitDst
  | groom (n : Nat)
  | stb (st off : Nat)
deriving DecidableEq, Repr

/-- A flit on a hitch chain (R165). -/
structure ChainFlit where
  src : Nat
  ctx : Nat
  dst : FlitDst
  data : List Byte
  poison : Bool
deriving DecidableEq, Repr

/-- A page held in a pool of a paddock (R432): the ring position of the stall it belongs to, and where it lies: striped over the 16
channels from `q` at channel-local address `c`, or contiguous in channel `q` at `c`. -/
structure PoolPage where
  pos : Nat
  stripe : Bool
  q : Nat
  c : Nat
deriving DecidableEq, Repr

/-- A page that a request holds: its layer-group and page of positions, the pool page's number, and whether it lies in the tier. -/
structure HeldPage where
  lg : Nat
  tp : Nat
  page : Nat
  tier : Bool
deriving DecidableEq, Repr

/-- A copy of a request's pages between the stacks and the tier (R297, R304, R306). -/
structure KvCopy where
  toTier : Bool
  dst : List HeldPage
  /-- The bytes have been copied; the change waits for a commit. -/
  ready : Bool := false
deriving DecidableEq, Repr

/-- A record on its way to an output ring (R330, R333). -/
structure Rec where
  kind : Nat
  token : Nat
  pos : Nat
  logprob : Nat := 0
  stop : Bool := false
  draft : Bool := false
  /-- It is the first record of its step (R298); the stall whose tumbler counts it; it has entered the hold. -/
  lead : Bool := false
  st : Nat := 0
  held : Bool := false
deriving DecidableEq, Repr

/-- A ledger entry (R283) and what the ledger keeps beside it (R332, R333, R370). -/
structure Entry where
  state : Nat := 0
  paddock : Nat := 0
  tenant : Nat := 0
  priority : Nat := 0
  kvLoc : Nat := 0
  tbtLate : Bool := false
  cancelReq : Bool := false
  pauseReq : Bool := false
  resumeReq : Bool := false
  replay : Bool := false
  spec : Bool := false
  imported : Bool := false
  importDone : Bool := false
  ttftMiss : Bool := false
  ttftTgt : Nat := 0
  home : Nat := 0
  tbtTgt : Nat := 0
  kDraft : Nat := 0
  lCommit : Nat := 0
  lSpec : Nat := 0
  lPrompt : Nat := 0
  lMax : Nat := 0
  ttl : Nat := 0
  /-- TTL of the PAUSE that PAUSE_REQ stands for (R304). -/
  ttlReq : Nat := 0
  root : Nat := 0
  promptPtr : Nat := 0
  sampPtr : Nat := 0
  ringBase : Nat := 0
  ringHead : Word := 0
  ringLog2 : Nat := 0
  tokOut : Nat := 0
  tokIn : Nat := 0
  version : BitVec 16 := 0
  tbtMiss : Nat := 0
  tSubmit : Dword := 0
  tLast : Dword := 0
  tExpire : Dword := 0
  hostTag : Dword := 0
  lastTok : Nat := 0
  pgHeld : Nat := 0
  /-- The function that submitted it, or the DID of the importer that did. -/
  fn : Nat := 0
  link : Option Nat := none
  tailSeen : Word := 0
  issuedTo : Nat := 0
  recs : List Rec := []
  closed : Bool := false
  /-- Its closing record counts as issued without being written (R386). -/
  silent : Bool := false
  pages : List HeldPage := []
  /-- Leaf tables in use: layer-group, TP / 256, number of the leaf table. -/
  leafs : List (Nat × Nat × Nat) := []
  copy : Option KvCopy := none
  /-- The token record that its TTFT is judged by has been issued. -/
  first : Bool := false
deriving DecidableEq, Repr

/-- A request that a step holds: the positions it computes, whether they are a prompt chunk, the first of them. -/
structure StepReq where
  ix : Nat
  qrows : Nat
  prompt : Bool
  pos0 : Nat
deriving DecidableEq, Repr

/-- What the tumbler and the ATS report of a request at the end of its rows (R303, R329): accepted count, last token, stop, and the
cause of a failure. -/
structure SampRes where
  ix : Nat
  a : Nat
  lastTok : Nat
  stop : Bool
  cause : Nat
deriving DecidableEq, Repr

/-- The shadow of a planning (R291): entries before and after, the step, what the commit charges and sends. -/
structure Plan where
  entries : List (Nat × Entry × Entry)
  step : List StepReq
  band : Nat
  roleset : Nat
  replay : Bool
  charges : List (Nat × Nat)
  cmds : List (List Byte)
  /-- The reports of the step before, which a lead sends on (R415). -/
  res : List SampRes
deriving DecidableEq, Repr

/-- A round of a collective open at a member (R409 to R411). -/
structure Round where
  st : Nat
  idx : Nat
  /-- Its 64-byte descriptor (R407). -/
  desc : List Byte
  openTb : Dword
  /-- Offsets of the lines that peers have written to STAGE. -/
  got : List Nat
  voted : Bool
  votes : List Nat
  done : Bool
deriving DecidableEq, Repr

/-- The paddock sequencer of a paddock (R289 to R314) and its collective group (R406 to R417). Its registers are PDK_ and COLL_. -/
structure Pdk where
  pool : List PoolPage := []
  /-- A step runs; its requests, the stalls at STEP_END, the reports so far. -/
  running : Bool := false
  step : List StepReq := []
  ended : List Nat := []
  res : List SampRes := []
  /-- A hinge of an idle paddock is wanted. -/
  due : Bool := false
  plan : Option Plan := none
  planTb : Dword := 0
  /-- TB since which the hinge waits on held records; the wait has passed RING_WAIT. -/
  waitFrom : Option Dword := none
  waited : Bool := false
  upCnt : Nat := 0
  downCnt : Nat := 0
  hold : Nat := 0
  /-- The step in progress is to be replayed; it was abandoned; the first round of it that an abort abandons (R411); aborts and paddock
  resets of it in a row. -/
  replay : Bool := false
  abandon : Bool := false
  abandonAt : Option Nat := none
  aborts : Nat := 0
  resets : Nat := 0
  /-- Stop cause of R443; 0: not stopped. A book check failed: nothing is admitted before a reload (R314). -/
  stop : Nat := 0
  bookBad : Bool := false
  /-- A paddock reset is in progress since this TB; what is held behind it (R447): 1 a paddock reset, 2 a LOAD_PADDOCK, 0 nothing; the staged bytes of a load held, VIEW, address and length. -/
  resetTb : Option Dword := none
  heldCmd : Nat := 0
  heldStage : Bool × Nat × Nat := (false, 0, 0)
  lenTab : SMap (List Byte) := []
  sampTab : SMap (List Byte) := []
  /-- Commands of the slice that the next planning applies, in order of arrival (R415). -/
  cmds : List (List Byte) := []
  rounds : List Round := []
  /-- Where the collective table of stall `st` for band `b` stands, plus 1, once its first round has opened: key 16·st + b (R407). -/
  collAt : SMap Nat := []
  /-- Parts of a lead's plan received, and the TB of the first. -/
  parts : SMap (List Byte) := []
  partsTb : Dword := 0
  /-- Own results of the last step, to compare with the lead's (R416). -/
  lastRes : List SampRes := []
deriving DecidableEq, Repr

/-- A Dartin port (R391 to R401). -/
structure DrtPort where
  /-- SEQ of the next new flit; last SEQ accepted in order. -/
  txSeq : Nat := 0
  rxSeq : Nat := 0xFFFF
  /-- The replay buffer; the flits waiting, each with the port whose receive buffer still holds it; the flits received for this device. -/
  sent : List (Nat × List Byte) := []
  tx : List (Option Nat × List Byte) := []
  rx : List (List Byte) := []
  /-- Credits to return, by VL; the ACK of a NAK received and not acted on; its resends since ACK advanced. -/
  owed : SMap Nat := []
  nakFrom : Option Nat := none
  resends : Nat := 0
  lastGood : Dword := 0
  turn : Nat := 0
  tries : Nat := 0
  downTb : Dword := 0
  /-- Routes whose PRIMARY is this port use their ALT (R405). -/
  diverted : Bool := false
deriving DecidableEq, Repr

/-- An import write of the export engine not yet acknowledged (R421). -/
structure ExpWrite where
  wseq : Nat
  tb : Dword
  resends : Nat
  body : List Byte
deriving DecidableEq, Repr

/-- The export engine (R421). -/
structure Export where
  queue : List (Bool × Nat) := []
  /-- The descriptor in hand, the TB since which it waits, whether IMPORT_READY has come, and its writes in flight. -/
  cur : Option (List Byte) := none
  tb : Dword := 0
  ready : Bool := false
  writes : List ExpWrite := []
  /-- WSEQ of the next write; IMPORT_READY messages kept for descriptors to come, as (DID, ledger index, HOST_TAG). -/
  next : Nat := 0
  readies : List (Nat × Nat × Nat) := []
deriving DecidableEq, Repr

/-- A copy of the directory of the boot flash: its sequence number, the boot slots of the firmware bundle and of the tack image (R438). -/
structure DirCopy where
  seq : Nat := 0
  fw : Nat := 0
  tack : Nat := 0
deriving DecidableEq, Repr

/-- The boundary pins and the boot and power-down state of the part (R446, R488 to R500). -/
structure Board where
  pwrgd : Bool := true
  /-- PERST# asserted. -/
  perst : Bool := false
  refPcie : Bool := true
  refDrt : Bool := true
  /-- The part is held in cold reset; a cold boot is owed. -/
  cold : Bool := false
  bootDue : Bool := true
  /-- The SMBus target address, 0x58 + GPIO[2:0] as sampled at the release of cold reset (R496, R497). -/
  smbAddr : Nat := 0x58
  /-- TRST# asserted: the TAP is held in reset (R500). -/
  trst : Bool := false
  tripLow : Bool := false
  pdReadyLow : Bool := false
  /-- An orderly power-down runs since this TB. -/
  downTb : Option Dword := none
  /-- The fused TACK_KEY_HASH. -/
  keyHash : List Byte := List.replicate 48 0
  /-- The two copies of the flash directory (R438). -/
  dirA : DirCopy := { seq := 1 }
  dirB : DirCopy := {}
  /-- Resources that failed at the current boot (R441), as in `mapList`. -/
  bootBad : List (Nat × Nat) := []
  /-- The boot ROM runs alone: no firmware slot verified (R439). -/
  romOnly : Bool := false
  /-- Log entries copied to flash this boot: those waiting for their page and the TB of the first of them. -/
  persist : List (List Byte) := []
  persistTb : Dword := 0
  /-- Those that a sag made the ostler abandon (R469). -/
  persistGone : Nat := 0
  /-- TB at which THERMTRIP_N was driven low (R494). -/
  tripTb : Dword := 0
  bootCount : Nat := 0
  /-- Power evaluations in a row below 95 % of the limit (R463). -/
  calm : Nat := 0
  /-- Rails whose regulator's silence has been logged (R498). -/
  silentRails : List Nat := []
  /-- The boundary-scan register (R500). -/
  bsr : Dword := 0
  /-- TB of the fatal halts of each stall (R435). -/
  fatals : List (Nat × Dword) := []
  /-- Energy since cold reset in units of 1/20 mJ: watts over 50 µs (R463, R472). -/
  energy : Nat := 0
  /-- PWR_LIMIT of the tack image in force (R462). -/
  pwrLimit : Nat := 0
deriving DecidableEq, Repr

/-- The state of the part. -/
structure State where
  part : Part := {}
  /-- DEV_TB (R28). -/
  tb : Dword := 0
  /-- Every memory-mapped register (Machine/Regs.lean), keyed by PF BAR0 offset; an unlisted one holds its reset value. -/
  regs : SMap Dword := []
  /-- Every addressed memory of the part and the host memory it reaches, one byte a cell (Machine/Ops.lean `Space`). -/
  mem : List Host.Cell := []
  /-- The stored check symbols of a line of a protected granule or of the tier (R201, R218), keyed by the line's key in `mem`; an
  unlisted line holds the check symbols of its address and the data bytes that `mem` holds. -/
  checks : SMap (List Byte) := []
  /-- Lines of host memory whose reads complete with EP set, by address / 64 (R380). -/
  hostPoison : SMap Bool := []
  chans : SMap ChanCtl := []
  /-- Request queues of the tier channels, and where their scrubber reads next. -/
  lpQueue : SMap (List MemReq) := []
  lpScrub : SMap Nat := []
  /-- Lines corrected since cold reset, as (channel, C) (R459). -/
  corrected : List (Nat × Nat) := []
  /-- NCH and P0 for which the check symbols of unlisted tier lines were made (R217, R218); none: those now in force. -/
  tierWas : Option (Nat × Nat) := none
  /-- The repair table in flash, spare rows bound softly and by fuse: (channel, bank, row) (R214). -/
  repairTable : List (Nat × Nat × Nat) := []
  softRows : List (Nat × Nat × Nat) := []
  fusedRows : List (Nat × Nat × Nat) := []
  /-- Tile registers of the MXE arrays, keyed 2 × stall + array (R97). -/
  wregs : SMap TileRegs := []
  /-- Accumulator elements of the MXE banks (R100). -/
  acc : SMap Word := []
  /-- Tile register elements of the VXE (R116). -/
  treg : SMap Word := []
  tregPoison : SMap Bool := []
  seg : SMap (Option SegState) := []
  /-- Table stores of the stalls (R78), keyed 1,024 × stall + slot. -/
  tables : SMap (Option CodeTable) := []
  dsp : SMap Dsp := []
  scc : SMap Scc := []
  /-- DMA channels, keyed 8 × stall + channel. -/
  dma : SMap DmaChan := []
  /-- The map-out list in flash, as (KIND of R451, index); its layout is not given (R428, R438). -/
  mapList : List (Nat × Nat) := []
  /-- Flash list and repair-table writes given up under a supply sag, to be made again (R458, R469). -/
  mapRetry : List (Nat × Nat) := []
  /-- The fault log in ostler memory: entry n mod 1,024 (R451, R453). -/
  fltLog : SMap (List Byte) := []
  repairRetry : List (Nat × Nat × Nat) := []
  /-- The tack image in force: the bodies of its DEVICE, COMPAT and PADDOCK sections (R423 to R431). -/
  tackDevice : List Byte := []
  tackCompat : List Byte := []
  tackPdk : SMap (List Byte) := []
  /-- Granule codes in force, keyed 768 × channel + granule (R432). -/
  granules : SMap Nat := []
  /-- The firmware's built-in table: FW, UC, lowest and highest ABI of each row (R429). -/
  fwTable : List (Nat × Nat × Nat × Nat) := []
  grooms : SMap Groom := []
  gctx : SMap GCtx := []
  /-- Flits in flight on the hitch chains, in order (R165). -/
  chain : List ChainFlit := []
  /-- Flits bound for the stall that wait at the exit node of a channel, oldest first (R166). -/
  xnode : SMap (List ChainFlit) := []
  /-- Short transfers in flight of each stall (R244). -/
  shorts : SMap (List ShortXfer) := []
  fns : SMap FnState := []
  /-- The function after the one whose command the ledger checked last (R375). -/
  lqTurn : Nat := 0
  atc : List AtcEntry := []
  /-- Translation Requests without a completion yet, as (function, page). -/
  xlReqs : List (Nat × Nat) := []
  pageReqs : List PageReq := []
  /-- ATS invalidations whose completion waits for lines on their way to a removed translation: the function and those lines. -/
  invPend : List (Nat × List Flight) := []
  /-- Sequence faults the ATS has reported to the paddock sequencer, by ledger index (R277). -/
  atsFault : SMap Bool := []
  /-- The ledger, by index; an unlisted entry is FREE (R282). -/
  ledger : SMap Entry := []
  pdks : SMap Pdk := []
  /-- Where the tables of a stall lie in its STB, as its commands last named them, keyed 2 × stall and 2 × stall + 1 (the sampling table): the
  offset and 1; 0: not known (notes/assumptions/35.md). -/
  tabAt : SMap Nat := []
  /-- Step-start messages on their way to each stall (R354). -/
  stepMsgs : SMap (List Dword) := []
  /-- MSI-X table words, keyed 1,024 × function + word. -/
  msixTab : SMap Word := []
  ports : SMap DrtPort := []
  exp : Export := {}
  /-- Completions kept by (SRC, XTAG) (R418). -/
  xtags : List (Nat × Nat × List Byte) := []
  board : Board := {}
  /-- The count last written to STL_DBELL of each stall (R378). -/
  dqTail : SMap Word := []
  /-- Events raised since cold reset, dropped ones included (R451). -/
  fltSerial : Nat := 0
  /-- MSI-X pending bits, keyed 256 × function + vector (R385). -/
  msixPend : SMap Bool := []
  /-- MSI-X vectors unmasked by the host, keyed as above, and functions whose MSI-X is enabled. -/
  msixUnmasked : SMap Bool := []
  msixEn : SMap Bool := []
  /-- Functions whose MSI-X Function Mask is set, and the uncorrectable errors that a function's AER status has recorded (R368). -/
  msixFnMask : SMap Bool := []
  aer : SMap Nat := []
  /-- Events waiting for the fault log, oldest first (R453). -/
  fltQueue : List FltEvent := []
  /-- Values of 64-bit registers captured by a 32-bit read of their low half, by requester (R10). -/
  captured : List (Requester × Nat × Word) := []
  bus : List BusEvent := []
  /-- How many free values have been taken (the model's own field, notes/assumptions/12.md). -/
  free : Nat := 0
  /-- The commands that are waiting, first in, first out. -/
  pending : List Instr := []
deriving DecidableEq, Repr

/-- The vector and the function let the message out. -/
def State.msixOn (s : State) (fn vec : Nat) : Bool :=
  SMap.get s.msixEn false fn && !SMap.get s.msixFnMask false fn && SMap.get s.msixUnmasked false (fn * 256 + vec)

/-- The part right after release of cold reset (notes/assumptions/1.md). -/
def State.reset : State := {}

end Sys2Proof.Machine
end

