-- ==== Sys2Proof/Machine/Ops.lean ====
section
/-! DEFINITION. The named operations over registers and memory that every meaning is written with. -/
namespace Sys2Proof.Machine

/-! ### Addressed memories -/

/-- The addressed memories: stack DRAM by channel and channel-local address, the tier by byte, the stall buffers, SCC memories,
groom memories, the boot flash, and the host memory the part reads and writes. -/
inductive Space
  | dram | tier | stb | imem | dmem | grmProg | grmScratch | flash | host
deriving DecidableEq, Repr

/-- The first key of each space in State.mem; the spaces are disjoint. -/
def Space.base (sp : Space) : Nat :=
  match sp with
  | .dram => 0
  | .tier => 2 ^ 40
  | .stb => 2 ^ 42
  | .imem => 2 ^ 43
  | .dmem => 2 ^ 43 + 2 ^ 30
  | .grmProg => 2 ^ 44
  | .grmScratch => 2 ^ 45
  | .flash => 2 ^ 46
  | .host => 2 ^ 64

def dramKey (q c : Nat) : Nat := q * 2 ^ 31 + c
def stbKey (st off : Nat) : Nat := 2 ^ 42 + st * 2 ^ 24 + off
def imemKey (st off : Nat) : Nat := 2 ^ 43 + st * 2 ^ 16 + off
def dmemKey (st off : Nat) : Nat := 2 ^ 43 + 2 ^ 30 + st * 2 ^ 16 + off
def grmProgKey (n off : Nat) : Nat := 2 ^ 44 + n * 2 ^ 14 + off
def grmScratchKey (n off : Nat) : Nat := 2 ^ 45 + n * 2 ^ 13 + off
def flashKey (off : Nat) : Nat := 2 ^ 46 + off
def hostKey (a : Nat) : Nat := 2 ^ 64 + a

/-- What an unlisted byte reads as: an erased flash byte is 0xFF, every other byte 0 (notes/assumptions/2.md, DESIGN CHOICE). -/
def Memory.unlisted (k : Nat) : Byte := if 2 ^ 46 ≤ k ∧ k < 2 ^ 46 + 2 ^ 26 then 0xFF#8 else 0#8

/-- The canonical form: addresses strictly rising, no entry equal to what the address reads as unlisted. -/
def Memory.wf (m : List Host.Cell) : Bool :=
  SMap.rising m && m.all fun c => decide (c.2 ≠ Memory.unlisted c.1)

def Memory.read (m : List Host.Cell) (k : Nat) : Byte := SMap.get m (Memory.unlisted k) k
def Memory.write (m : List Host.Cell) (k : Nat) (b : Byte) : List Host.Cell := SMap.set m (Memory.unlisted k) k b

def Memory.writeList (m : List Host.Cell) (k : Nat) : List Byte → List Host.Cell
  | [] => m
  | b :: r => Memory.writeList (Memory.write m k b) (k + 1) r

/-- `n` bytes from key `k` on. -/
def Memory.readList (m : List Host.Cell) (k : Nat) : Nat → List Byte
  | 0 => []
  | n + 1 => Memory.read m k :: Memory.readList m (k + 1) n

def State.byte (s : State) (k : Nat) : Byte := Memory.read s.mem k
def State.bytes (s : State) (k n : Nat) : List Byte := Memory.readList s.mem k n
def State.putBytes (s : State) (k : Nat) (l : List Byte) : State := { s with mem := Memory.writeList s.mem k l }

/-! ### Registers (R7) -/

/-- The key of a register: unit `u` (stall or groom position), repeat `i`. -/
def Loc.key (r : Loc) (u i : Nat) : Nat := r.base + r.unitStep * u + r.step * i

/-- The value a register holds. -/
def State.rd (s : State) (r : Loc) (u : Nat := 0) (i : Nat := 0) : Nat :=
  (SMap.get s.regs (BitVec.ofNat 64 r.reset) (r.key u i)).toNat

/-- Sets the value a register holds, cut to its width. -/
def State.wr (s : State) (r : Loc) (v : Nat) (u : Nat := 0) (i : Nat := 0) : State :=
  { s with regs := SMap.set s.regs (BitVec.ofNat 64 r.reset) (r.key u i) (BitVec.ofNat 64 (v % 2 ^ (8 * r.bytes))) }

/-- The value of a field. -/
def State.fld (s : State) (f : Fld) (u : Nat := 0) (i : Nat := 0) : Nat := bits (s.rd f.loc u i) f.hi f.lo

def State.flag (s : State) (f : Fld) (u : Nat := 0) (i : Nat := 0) : Bool := s.fld f u i != 0

/-- Sets a field and keeps the rest of its register. -/
def State.setFld (s : State) (f : Fld) (v : Nat) (u : Nat := 0) (i : Nat := 0) : State :=
  s.wr f.loc (putBits (s.rd f.loc u i) f.hi f.lo v) u i

def State.setFlag (s : State) (f : Fld) (u : Nat := 0) (i : Nat := 0) : State := s.setFld f 1 u i

def State.setIf (s : State) (c : Bool) (f : Fld) (u : Nat := 0) (i : Nat := 0) : State := if c then s.setFlag f u i else s

/-- Adds to a counter field that holds at its largest value (R461). -/
def State.bump (s : State) (f : Fld) (n : Nat) (u : Nat := 0) (i : Nat := 0) : State :=
  s.setFld f (min (s.fld f u i + n) (2 ^ (f.hi + 1 - f.lo) - 1)) u i

/-- Adds to a counter field that wraps. -/
def State.count (s : State) (f : Fld) (n : Nat) (u : Nat := 0) (i : Nat := 0) : State :=
  s.setFld f ((s.fld f u i + n) % 2 ^ (f.hi + 1 - f.lo)) u i

/-- Takes a register back to its reset value. -/
def State.clr (s : State) (r : Loc) (u : Nat := 0) (i : Nat := 0) : State := s.wr r r.reset u i

/-- Every register whose key lies in a span returns to its reset value (an unlisted register holds it). -/
def State.clrSpan (s : State) (lo hi : Nat) : State :=
  { s with regs := s.regs.filter fun e => !(decide (lo ≤ e.1) && decide (e.1 < hi)) }

/-! ### Units -/

def State.dspOf (s : State) (st : Nat) : Dsp := SMap.get s.dsp {} st
def State.putDsp (s : State) (st : Nat) (d : Dsp) : State := { s with dsp := SMap.set s.dsp {} st d }
def State.sccOf (s : State) (st : Nat) : Scc := SMap.get s.scc {} st
def State.putScc (s : State) (st : Nat) (c : Scc) : State := { s with scc := SMap.set s.scc {} st c }

/-- A value the spec leaves open, a fresh one each time. -/
def State.freeVal (s : State) : Dword := Config.freeValue s.free
def State.freeBit (s : State) : Bool := Config.freeChoice s.free
def State.tick (s : State) (n : Nat := 1) : State := { s with free := s.free + n }
/-- `n` bytes the spec leaves open. -/
def State.freeBytes (s : State) (n : Nat) : List Byte :=
  (List.range n).map fun i => (Config.freeValue (s.free + i)).setWidth 8

def State.emit (s : State) (e : BusEvent) : State := { s with bus := e :: s.bus }

/-- The empty queue: DEV_TB counts one (R28; notes/assumptions/4.md). -/
def State.idleTick (s : State) : State := { s with tb := s.tb + 1 }

/-! ### The part (R3) -/

def State.crc (s : State) : Bool := s.part.x8
def State.nStall (s : State) : Nat := if s.part.x8 then 16 else 8
def State.nStack (s : State) : Nat := if s.part.x8 then 8 else 4
def State.nChan (s : State) : Nat := 32 * s.nStack

/-- A stall that the tack image in force does not map out and that the part has (R474). -/
def State.stallUp (s : State) (st : Nat) : Bool := decide (st < s.nStall) && !bit (s.fld Reg.MAP_STALL_OUT) st
/-- A channel that is fitted and not mapped out (R184). -/
def State.chanUp (s : State) (q : Nat) : Bool := decide (q < s.nChan) && !bit (s.rd Reg.MAP_CHANNEL 0 (q / 32)) (q % 32)
def State.groomOut (s : State) (n : Nat) : Bool := bit (s.rd Reg.MAP_GROOM 0 (n / 32)) (n % 32)
/-- The paddock of a stall (R16). -/
def State.paddockOf (s : State) (st : Nat) : Option Nat :=
  if s.flag Reg.STL_INFO_IN_PDK st then some (s.fld Reg.STL_INFO_PADDOCK st) else none
/-- Same paddock, or the same stall where it is in none. -/
def State.samePaddock (s : State) (a b : Nat) : Bool :=
  a == b || ((s.paddockOf a).isSome && s.paddockOf a == s.paddockOf b)

/-! ### Who owns and who adopts (R22, R176, R177) -/

/-- Channel of slot `k` of a stall's groom port, where the slot is in use. -/
def State.slotChan (s : State) (st k : Nat) : Option Nat :=
  if s.flag Reg.GPORT_MAP_VALID st k then some (32 * s.fld Reg.GPORT_MAP_STACK st k + s.fld Reg.GPORT_MAP_CHANNEL st k) else none

/-- The stall whose port holds channel `q`, and its slot. -/
def State.ownerOf (s : State) (q : Nat) : Option (Nat × Nat) :=
  ((List.range 16).flatMap fun st => (List.range 32).map fun k => (st, k)).find? fun x => s.slotChan x.1 x.2 == some q

/-- The groom position 8q + g that GI of a stall's port names. -/
def State.positionOf (s : State) (st gi : Nat) : Option Nat := (s.slotChan st (gi / 8)).map fun q => 8 * q + gi % 8

/-- GI of a groom position in its owner's port. -/
def State.giOf (s : State) (p : Nat) : Option (Nat × Nat) := (s.ownerOf (p / 8)).map fun x => (x.1, 8 * x.2 + p % 8)

/-- The groom that runs a position's context: itself, or where it is mapped out the next healthy groom of its ring. -/
def State.hostOf (s : State) (p : Nat) : Option Nat :=
  ((List.range 8).map fun i => p / 8 * 8 + (p % 8 + i) % 8).find? fun n => !s.groomOut n

/-- The other context of a host groom (R177): positions it runs. -/
def State.contextsOf (s : State) (n : Nat) : List Nat :=
  ((List.range 8).map fun i => n / 8 * 8 + i).filter fun p => s.hostOf p == some n

/-- The owning stall of a groom position; stall 0 where no stall owns the channel (only in start-up). -/
def State.stallOf (s : State) (p : Nat) : Nat := ((s.ownerOf (p / 8)).map (·.1)).getD 0

/-- The physical table slot that slot `t` of a context is, and the physical scale entry that entry `i` is (R177). -/
def State.physSlot (s : State) (p t : Nat) : Nat := bits (s.rd Reg.GRM_CTX_SLOT p) (3 * t + 2) (3 * t)
def State.physScale (s : State) (p i : Nat) : Nat := (i + s.fld Reg.GRM_CTX_SCALE_OFFSET p) % 512

/-- The flash starts no write (R469). -/
def State.sagNow (s : State) : Bool := s.flag Reg.SAG_STATUS_AUX_LOW || s.flag Reg.SAG_STATUS_BOD

/-! ### Events of the fault log (R452, R453) -/

/-- Raises an event; `State.events` puts the events of one command into the event queue. -/
def State.fault (s : State) (code kind index detail : Nat) (marked : Bool := false) : State :=
  { s with fltSerial := s.fltSerial + 1, fltQueue := s.fltQueue ++ [⟨s.tb, s.fltSerial, code, kind, index, BitVec.ofNat 64 detail, marked⟩] }

/-- The order of events of one moment: KIND, then INDEX, then CODE. -/
def FltEvent.key (e : FltEvent) : Nat := e.kind * 2 ^ 48 + e.index * 2 ^ 16 + e.code

def FltEvent.insert (e : FltEvent) : List FltEvent → List FltEvent
  | [] => [e]
  | x :: l => if x.key ≤ e.key then x :: FltEvent.insert e l else e :: x :: l

/-- The events raised between two states, in the order of R453 with their serial numbers, enter the event queue of 256; those that meet a
full queue are dropped and counted. -/
def State.events (s t : State) : State :=
  if t.fltSerial = s.fltSerial then t
  else
    let old := t.fltQueue.filter fun e => decide (e.serial < s.fltSerial)
    let new := (t.fltQueue.filter fun e => decide (s.fltSerial ≤ e.serial)).foldl (fun l e => e.insert l) []
    let new := new.mapIdx fun i e => { e with serial := s.fltSerial + i }
    let lost := old.length + new.length - 256
    let u := { t with fltQueue := old ++ new.take (256 - old.length) }
    if lost = 0 then u else (u.bump Reg.FLT_DROP_CNT_COUNT lost).setFlag Reg.FLT_STATUS_DROPPED

/-! ### The stall buffer (R18, R139) -/

def stbSize : Nat := 2 ^ 24

/-- The POISON bit of an STB line. -/
def State.linePoison (s : State) (st line : Nat) : Bool := bit (s.rd Reg.STB_POISON st (line / 32)) (line % 32)
def State.setLinePoison (s : State) (st line : Nat) (p : Bool) : State :=
  s.wr Reg.STB_POISON (putBits (s.rd Reg.STB_POISON st (line / 32)) (line % 32) (line % 32) (if p then 1 else 0)) st (line / 32)

/-- Whether any line of a span of the STB is poisoned. -/
def State.spanPoison (s : State) (st off len : Nat) : Bool :=
  if len = 0 then false
  else (List.range ((off + len - 1) / 64 - off / 64 + 1)).any fun i => s.linePoison st (off / 64 + i)

def State.stbRead (s : State) (st off n : Nat) : List Byte := s.bytes (stbKey st off) n
def State.stbWrite (s : State) (st off : Nat) (l : List Byte) : State := s.putBytes (stbKey st off) l

/-! ### Latches (R351) -/

def State.latch (s : State) (st l : Nat) : Bool := bit (s.rd Reg.LATCH_STATE st (l / 32)) (l % 32)
def State.setLatch (s : State) (st l : Nat) (v : Bool) : State :=
  s.wr Reg.LATCH_STATE (putBits (s.rd Reg.LATCH_STATE st (l / 32)) (l % 32) (l % 32) (if v then 1 else 0)) st (l / 32)

/-! ### Stream rings (R236 to R239) -/

def State.dmaOf (s : State) (st c : Nat) : DmaChan := SMap.get s.dma {} (8 * st + c)
def State.putDma (s : State) (st c : Nat) (d : DmaChan) : State := { s with dma := SMap.set s.dma {} (8 * st + c) d }

def Ring.started (r : Ring) : Nat := (r.issued + r.slotLines - 1) / r.slotLines
/-- Every line of slot `k` has been written, or the list ended partway through it and its issued lines are written (R236). -/
def Ring.complete (r : Ring) (k : Nat) : Bool :=
  let n := SMap.get r.lines 0 k
  decide (n ≥ r.slotLines) || (r.ended && decide (k + 1 = r.started) && decide (n + k * r.slotLines ≥ r.issued))
/-- Slots of a STREAM_OUT wholly carried out come back to FREE, in ring order. -/
def Ring.carried (r : Ring) : Ring :=
  if r.isOut then (List.range (r.made - r.head)).foldl (fun (x : Ring) _ => if x.complete x.head then { x with head := x.head + 1 } else x) r
  else r
/-- FREE, FILLING, FULL and TAKEN (R236, R237); their sum is NSLOT. -/
def Ring.counts (r : Ring) : Nat × Nat × Nat × Nat :=
  let one := if r.inUse then 1 else 0
  if r.isOut then
    let taken := r.started - r.head
    (r.nslot - (r.made - r.head) - one, one, (r.made - r.head) - taken, taken)
  else
    let used := r.started - r.head
    let full := ((List.range used).filter fun i => r.complete (r.head + i)).length
    (r.nslot - used, used - full, full - one, one)
/-- STB offset of slot `k`. -/
def Ring.slotOff (r : Ring) (k : Nat) : Nat := r.base + (k % r.nslot) * (64 * r.slotLines)
/-- Every slot of a ring is FREE. -/
def Ring.allFree (r : Ring) : Bool := r.counts.1 == r.nslot

/-- What DMA_CH_SLOTS shows of a ring: nothing once its stream has completed and every slot has come back (R237, R254). -/
def Ring.word (r : Ring) : Nat :=
  let k := r.counts
  if r.finished && r.allFree then 0 else k.1 + k.2.1 * 2 ^ 9 + k.2.2.1 * 2 ^ 18 + k.2.2.2 * 2 ^ 27 + r.nslot * 2 ^ 36

/-- The channel's ring put back, DMA_CH_SLOTS with it (R237). -/
def State.putRing (s : State) (st c : Nat) (r : Ring) : State :=
  (s.putDma st c { s.dmaOf st c with ring := some r }).wr Reg.DMA_CH_SLOTS r.word st c

/-- The consumer moves the oldest FULL slot to TAKEN (R238). -/
def State.ringTake (s : State) (st c : Nat) : Option State :=
  match (s.dmaOf st c).ring with
  | none => none
  | some r =>
    if !r.isOut && !r.inUse && decide (r.head < r.started) && r.complete r.head then some (s.putRing st c { r with inUse := true })
    else none

/-- The consumer reads the TAKEN slot to its last line and returns it to FREE (R238): its bytes and the POISON bits of its lines. -/
def State.ringRead (s : State) (st c : Nat) : List Byte × List Bool × State :=
  match (s.dmaOf st c).ring with
  | none => ([], [], s)
  | some r =>
    let off := r.slotOff r.head
    (s.stbRead st off (64 * r.slotLines), (List.range r.slotLines).map fun i => s.linePoison st (off / 64 + i),
      s.putRing st c { r with head := r.head + 1, inUse := false })

/-! ### Interrupt summaries and MSI-X messages (R385, R478) -/

/-- The DMA byte of STL_IRQ_SUM: bit c where DONE (of a descriptor whose IRQ is 1, R231), ERR or HALT of channel c stands with its
enable. -/
def State.irqDma (s : State) (st : Nat) : Nat :=
  ((List.range 8).map fun c =>
    let on := bits (s.rd Reg.DMA_CH_STATUS st c) 10 8 - (if (s.dmaOf st c).irqDone then 0 else s.fld Reg.DMA_CH_STATUS_DONE st c)
    if on &&& (s.rd Reg.DMA_CH_IRQ_EN st c) = 0 then 0 else 2 ^ c).sum

/-- STL_IRQ_SUM (R477), computed from its sources. -/
def State.irqSum (s : State) (st : Nat) : Nat :=
  let on (a b : Loc) (v : Nat) : Nat := if (s.rd a st) &&& (s.rd b st) = 0 then 0 else v
  on Reg.NUM_STATUS Reg.NUM_IRQ_EN 1 + on Reg.DEC_STATUS Reg.DEC_IRQ_EN 2 + on Reg.MXE_STATUS Reg.MXE_IRQ_EN 4
    + on Reg.VXE_STATUS Reg.VXE_IRQ_EN 8 + on Reg.ATS_STATUS Reg.ATS_IRQ_EN 16 + on Reg.TMB_STATUS Reg.TMB_IRQ_EN 32
    + 256 * s.irqDma st

/-- PDK_STATUS.WAIT_HOST: a record of the step is held, the paddock waits for SHRINK_DONE, or a channel of one of its stalls is in
WAIT_PAGE (R384). -/
def State.waitHost (s : State) (p : Nat) : Bool :=
  let k := SMap.get s.pdks {} p
  (k.running && k.step.any fun r => (SMap.get s.ledger {} r.ix).recs.any (·.held)) || s.flag Reg.PDK_TACK_WAIT_SHRINK 0 p
    || s.dma.any fun x => s.fld Reg.DMA_CH_STATUS_STATE (x.1 / 8) (x.1 % 8) == 4 && s.paddockOf (x.1 / 8) == some p

/-- The conditions behind PF source `src` of R385, one bit each; a message goes out when one of them rises. -/
def State.pfSource (s : State) (src : Nat) : Nat :=
  if src < 16 then (if s.irqSum src = 0 then 0 else 1)
  else if src < 32 then
    let p := src - 16
    s.fld Reg.PDK_STATUS_BOOK_ERR 0 p + (if s.waitHost p then 2 else 0)
      + (if s.fld Reg.PDK_STATUS_STATE 0 p = 4 then 4 else 0)
  else if src = 32 then s.rd Reg.LDG_STATUS &&& 3
  else if src = 33 then 0
  else if src = 34 then ((List.range 8).map fun k => bits (s.rd Reg.STK_TEMP 0 k) 9 8 * 4 ^ k).sum
  else s.fld Reg.HIF_STATUS_CPL_ERR

/-- Some bit of `b` is 1 where `a` has 0. -/
def rose (a b : Nat) : Bool := (a ||| b) != a

/-- One MSI-X message of a function: sent, or left pending where the vector or the function is masked. -/
def State.msix (s : State) (fn vec : Nat) : State :=
  if s.msixOn fn vec then s.emit (.msix fn vec) else { s with msixPend := SMap.set s.msixPend false (fn * 256 + vec) true }

/-- Sends the messages of the device-wide sources whose conditions rose between two states (R385, R478). -/
def settle (s t : State) : State :=
  (List.range 36).foldl (fun u src =>
    if rose (s.pfSource src) (t.pfSource src) || (src == 33 && s.rd Reg.FLT_HEAD != t.rd Reg.FLT_HEAD)
    then u.msix 0 (t.rd Reg.PF_IRQ_MAP 0 src) else u) t

/-! ### Errors of the host link (R368, R380) -/

/-- Bits of the AER uncorrectable error status, as PCIe numbers them (notes/assumptions/48.md, PRESUMED). -/
def aerPoisoned : Nat := 12
def aerTimeout : Nat := 14
def aerAborted : Nat := 15
def aerUnsupported : Nat := 20

def State.aerErr (s : State) (fn b : Nat) : State := { s with aer := SMap.set s.aer 0 fn (SMap.get s.aer 0 fn ||| 2 ^ b) }

/-- A read of host memory by a function that completed in error (R380). -/
def State.cplErr (s : State) (fn b : Nat) : State := (s.setFlag Reg.HIF_STATUS_CPL_ERR).aerErr fn b

/-! ### VERSION of a ledger entry (R283, R284) -/

def b2n (b : Bool) (i : Nat) : Nat := if b then 2 ^ i else 0

/-- The 128 bytes of an entry (R283). -/
def Entry.bytes (e : Entry) : List Byte :=
  leBytes (e.state + 16 * e.paddock) 1 ++ leBytes e.tenant 1 ++ leBytes (e.priority + 16 * e.kvLoc + b2n e.tbtLate 6) 1 ++
  leBytes (b2n e.cancelReq 0 + b2n e.pauseReq 1 + b2n e.resumeReq 2 + b2n e.replay 3 + b2n e.spec 4 + b2n e.imported 5
    + b2n e.importDone 6 + b2n e.ttftMiss 7) 1 ++
  leBytes (e.ttftTgt + 2 ^ 24 * e.home) 4 ++ leBytes (e.tbtTgt + 2 ^ 24 * e.kDraft) 4 ++ leBytes e.lCommit 4 ++ leBytes e.lSpec 4 ++
  leBytes e.lPrompt 4 ++ leBytes e.lMax 4 ++ leBytes e.ttl 4 ++ leBytes e.root 8 ++ leBytes e.promptPtr 8 ++ leBytes e.sampPtr 8 ++
  leBytes e.ringBase 8 ++ leBytes e.ringHead.toNat 4 ++ leBytes e.ringLog2 2 ++ leBytes e.tokOut 6 ++ leBytes e.tokIn 6 ++
  leBytes e.version.toNat 2 ++ leBytes e.tbtMiss 4 ++ leBytes e.tSubmit.toNat 8 ++ leBytes e.tLast.toNat 8 ++ leBytes e.tExpire.toNat 8 ++
  leBytes e.hostTag.toNat 8 ++ leBytes e.lastTok 4 ++ leBytes e.pgHeld 4

/-- The MCLK in which an entry that was `old` has changed: one for every record that was issued (R335), and one more where a field that no
record issue writes has changed (R283, R284). -/
def Entry.changes (old new : Entry) : Nat :=
  let n := (if old.state = 0 && new.state != 0 then new.ringHead else new.ringHead - old.ringHead).toNat
  let e := { new with version := old.version }
  let e := if n = 0 then e else
    { e with ringHead := old.ringHead, tLast := old.tLast, tbtLate := old.tbtLate, tbtMiss := old.tbtMiss, ttftMiss := old.ttftMiss }
  n + if e.bytes == old.bytes then 0 else 1

/-- An entry that was `old`, with its VERSION. -/
def Entry.versioned (old new : Entry) : Entry := { new with version := old.version + BitVec.ofNat 16 (old.changes new) }

/-- VERSION of every entry rises by one for each MCLK in which a command changed it. -/
def State.versions (s t : State) : State :=
  if t.ledger == s.ledger then t
  else { t with ledger := t.ledger.foldl (fun m (x : Nat × Entry) => SMap.set m {} x.1 (Entry.versioned (SMap.get s.ledger {} x.1) (SMap.get t.ledger {} x.1))) t.ledger }

/-- POWERDOWN_READY is set: only a cold reset changes the device (R446). -/
def State.shut (s : State) : Bool := s.flag Reg.BOOT_STATUS_POWERDOWN_READY

/-- What a command's effect `t` brings with it: the order of the events it raised, the VERSION of the ledger entries it changed, and the
messages of the sources that rose. -/
def conclude (s t : State) : State := settle s (s.versions (s.events t))

/-- Nothing changes the device: it is held in cold reset (R488), or POWERDOWN_READY is set (R446). -/
def State.stopped (s : State) : Bool := s.shut || s.board.cold

/-- The end of a command. -/
def done (s t : State) : Host.Outcome State Fault Refusal := .next (if s.stopped then s else conclude s t)

end Sys2Proof.Machine
end

