-- ==== Sys2Proof/Machine/Operands.lean ====
section
/-! DEFINITION. Operands of engine commands: record fields and descriptors (R348, R349), tensors in the stall buffer or a stream
ring, and stores with their POISON bits (R139). -/
namespace Sys2Proof.Machine

/-- Places of fields in a record under R348: a width in bits takes the fewest whole bytes, 0 stands for a descriptor of 32 bytes at
a 32-byte boundary. The last element is the end. -/
def fieldPlaces (pos : Nat) : List Nat → List Nat
  | [] => [pos]
  | w :: r =>
    if w = 0 then
      let p := (pos + 31) / 32 * 32
      p :: fieldPlaces (p + 32) r
    else pos :: fieldPlaces (pos + (w + 7) / 8) r

/-- Field `i` of a layout: its whole bytes as a number. -/
def recField (rec : List Byte) (layout : List Nat) (i : Nat) : Nat :=
  leAt rec ((fieldPlaces 16 layout).getD i 0) ((layout.getD i 0 + 7) / 8)

/-- Every scalar field holds no bit beyond its width. R348 has those bits zero and says nothing of a record that breaks it: the model
rejects it, as a field out of range; the bits of a descriptor that R349 shows as zero are not looked at (notes/assumptions/70.md, DESIGN
CHOICE). -/
def recOk (rec : List Byte) (layout : List Nat) : Bool :=
  (List.range layout.length).all fun i => layout.getD i 0 == 0 || decide (recField rec layout i < 2 ^ layout.getD i 0)

/-- A descriptor (R349), with its place in the record. -/
structure Desc where
  place : Nat
  loc : Nat
  kind : Nat
  zpEn : Bool
  comp : Bool
  scaleEn : Bool
  present : Bool
  fmt : Nat
  zp : Nat
  stride : Nat
  tableId : Nat
  scaleBase : Nat
  tag : Nat
deriving DecidableEq, Repr

def descAt (rec : List Byte) (p : Nat) : Desc :=
  let f := byteAt rec (p + 4)
  { place := p, loc := leAt rec p 3, kind := bits f 1 0, zpEn := bit f 2, comp := bit f 3, scaleEn := bit f 4,
    present := bit f 7, fmt := bits (byteAt rec (p + 5)) 3 0, zp := byteAt rec (p + 6), stride := leAt rec (p + 8) 3,
    tableId := bits (leAt rec (p + 12) 2) 9 0, scaleBase := bits (leAt rec (p + 14) 2) 12 0, tag := leAt rec (p + 16) 2 }

def recDesc (rec : List Byte) (layout : List Nat) (i : Nat) : Desc := descAt rec ((fieldPlaces 16 layout).getD i 0)

def Desc.zpOpt (d : Desc) : Option Nat := if d.zpEn then some d.zp else none

/-- R35 and R40: the format is listed; a zero point goes with INT4 or INT8 only and has its width. -/
def Desc.fmtGood (d : Desc) : Bool := fmtOk d.fmt && (!d.zpEn || (fmtIsInt d.fmt && decide (d.zp < 2 ^ fmtBits d.fmt)))

/-- Bytes of one row of `cols` codes (R36: 6-bit codes in whole 3-byte groups). -/
def rowBytes (fmt cols : Nat) : Nat := if fmtBits fmt = 6 then (cols + 3) / 4 * 3 else (fmtBits fmt * cols + 7) / 8

/-- Two spans share a byte. -/
def spansMeet (a n b m : Nat) : Bool := n != 0 && m != 0 && decide (a < b + m) && decide (b < a + n)

/-- Rows of `n` bytes from `a` on at stride `sa` share a byte with rows of `m` bytes from `b` on at stride `sb`. -/
def rowsMeet (a sa ra n b sb rb m : Nat) : Bool :=
  ra != 0 && rb != 0 && spansMeet a ((ra - 1) * sa + n) b ((rb - 1) * sb + m) &&
    (List.range ra).any fun i =>
      let x := a + i * sa
      -- the last row of the other tensor that begins before this row ends
      let j := if sb = 0 then 0 else min (rb - 1) ((x + n - 1 - b) / sb)
      spansMeet x n (b + j * sb) m

/-- Bytes from the start of a tensor to its end. -/
def spanBytes (fmt stride rows cols : Nat) : Nat :=
  if rows = 0 || cols = 0 then 0 else (rows - 1) * stride + rowBytes fmt cols

/-- The alignment of a tensor in the STB (R230): start and stride multiples of 64, the stride when there is a second row. A ring slot
starts on a line by R232. -/
def Desc.aligned (d : Desc) : Bool := (d.kind != 0 || d.loc % 64 == 0) && d.stride % 64 == 0

/-- A span lies in the STB, or comes from a ring. -/
def Desc.inStb (d : Desc) (len : Nat) : Bool := d.kind != 0 || decide (d.loc + len ≤ stbSize)

/-- Channel and slot count of a KIND 3 descriptor. -/
def Desc.chan (d : Desc) : Nat := bits d.loc 2 0
def Desc.slots (d : Desc) : Nat := bits d.loc 18 3

/-- The image of an operand: its bytes and the POISON bit of each of its 64-byte lines. -/
structure Img where
  data : List Byte
  poison : List Bool
deriving DecidableEq, Repr

/-- The operand's bytes, of the STB or of the ring slots read; bytes beyond what the `k` slots hold read as 0 (notes/assumptions/70.md,
DESIGN CHOICE). -/
def State.img (s : State) (st : Nat) (w : WinCmd) (d : Desc) (len : Nat) : Img :=
  if d.kind = 3 then ⟨SMap.get w.got [] d.place, SMap.get w.gotPoison [] d.place⟩
  else ⟨s.stbRead st d.loc len, (List.range ((d.loc + len + 63) / 64 - d.loc / 64)).map fun i => s.linePoison st (d.loc / 64 + i)⟩

/-- Any line of bytes `off` to `off + n − 1` of an image is poisoned. -/
def Img.bad (m : Img) (off n : Nat) : Bool :=
  if n = 0 then false else ((m.poison.drop (off / 64)).take ((off + n - 1) / 64 - off / 64 + 1)).any id

/-- The codes of row `r`. -/
def Img.row (m : Img) (fmt stride cols r : Nat) : List Nat :=
  let b := (m.data.drop (r * stride)).take (rowBytes fmt cols)
  (List.range cols).map fun c => packedCode b (fmtBits fmt) c

/-- One step of a source that comes from a ring: a slot the command has TAKEN is read and comes back to FREE, then the oldest FULL slot
is TAKEN where more are needed and it is the command's turn (R238). The third part tells whether all `k` slots have been read. -/
def State.ringFeed (s : State) (st : Nat) (w : WinCmd) (d : Desc) (turn : Bool) : State × WinCmd × Bool :=
  if d.kind ≠ 3 then (s, w, true)
  else
    let n := SMap.get w.reads 0 d.place
    let x : State × WinCmd :=
      if SMap.get w.holding false d.place then
        let y := s.ringRead st d.chan
        (y.2.2, { w with got := SMap.set w.got [] d.place (SMap.get w.got [] d.place ++ y.1),
                         gotPoison := SMap.set w.gotPoison [] d.place (SMap.get w.gotPoison [] d.place ++ y.2.1),
                         reads := SMap.set w.reads 0 d.place (n + 1), holding := SMap.set w.holding false d.place false })
      else (s, w)
    if SMap.get x.2.reads 0 d.place ≥ d.slots then (x.1, x.2, true)
    else if !turn then (x.1, x.2, false)
    else match x.1.ringTake st d.chan with
      | none => (x.1, x.2, false)
      | some t => (t, { x.2 with holding := SMap.set x.2.holding false d.place true }, false)

def State.ringFeedAll (s : State) (st : Nat) (w : WinCmd) (turn : Nat → Bool) : List Desc → State × WinCmd × Bool
  | [] => (s, w, true)
  | d :: r =>
    let x := s.ringFeed st w d (turn d.chan)
    let y := State.ringFeedAll x.1 st x.2.1 turn r
    (y.1, y.2.1, x.2.2 && y.2.2)

/-! ### Stores -/

/-- Bytes a store writes: none leaves the byte; else its new bits and which of its bits the store writes (R128). -/
abbrev Cells := List (Option (Byte × Byte))

def fullCells (l : List Byte) : Cells := l.map fun b => some (b, 0xFF#8)

/-- The cells of a row of `n` bytes of codes of width `w`, a missing code leaving its bits (R128). -/
def rowCells (n w : Nat) (codes : List (Option Nat)) : Cells :=
  let put (f : Nat → Nat) : List Byte := (List.range codes.length).foldl
    (fun l i => match codes.getD i none with | some c => putCode l w i (f c) | none => l) (List.replicate n 0)
  let new := put id
  let mask := put fun _ => 2 ^ w - 1
  (List.range n).map fun b => if mask.getD b 0 = 0 then none else some (new.getD b 0, mask.getD b 0)

/-- A byte after the bits of a mask are written. -/
def mergeByte (old new mask : Byte) : Byte := if mask = 0xFF#8 then new else (old &&& ~~~mask) ||| (new &&& mask)

/-- A store into the STB with R139: a line wholly covered by unpoisoned data loses its POISON bit, poisoned data sets it, any other
write leaves it. -/
def State.stbStore (s : State) (st off : Nat) (cells : Cells) (poison : Bool) : State :=
  let t := (List.range cells.length).foldl (fun u i =>
    match cells.getD i none with | some (b, m) => u.stbWrite st (off + i) [mergeByte (u.byte (stbKey st (off + i))) b m] | none => u) s
  if cells.length = 0 then t
  else (List.range ((off + cells.length - 1) / 64 - off / 64 + 1)).foldl (fun u i =>
    let line := off / 64 + i
    let mine := (List.range 64).map fun j => if line * 64 + j < off then none else cells.getD (line * 64 + j - off) none
    if mine.any Option.isSome then
      if poison then u.setLinePoison st line true
      else if mine.all (fun c => match c with | some (_, m) => m == 0xFF#8 | none => false) then u.setLinePoison st line false
      else u
    else u) t

/-- A list of stores, each at an offset from the start of the destination. -/
abbrev Outs := List (Nat × Cells × Bool)

/-- The part of a store that falls into bytes `lo` to `lo + n − 1`. -/
def outSlice (lo n : Nat) (o : Nat × Cells × Bool) : Nat × Cells × Bool :=
  if o.1 ≥ lo then (o.1 - lo, o.2.1.take (lo + n - o.1), o.2.2)
  else (0, (o.2.1.drop (lo - o.1)).take n, o.2.2)

/-- One step of a producer (R236, R239): the slot it is FILLING receives its lines and becomes FULL, then the next FREE slot is FILLING
where more are needed and it is the command's turn; answers what is left, none when every slot is FULL. -/
def State.ringPut (s : State) (st : Nat) (o : RingOut) (turn : Bool) : State × Option RingOut :=
  match (s.dmaOf st o.chan).ring with
  | none => (s, if o.next ≥ o.slots then none else some o)
  | some r =>
    let x : State × RingOut :=
      if o.filling then
        let size := 64 * r.slotLines
        let t := o.writes.foldl (fun u x =>
          let y := outSlice (o.next * size) size x
          u.stbStore st (r.slotOff r.made + y.1) y.2.1 y.2.2) s
        (t.putRing st o.chan { r with made := r.made + 1, inUse := false }, { o with next := o.next + 1, filling := false })
      else (s, o)
    if x.2.next ≥ x.2.slots then (x.1, none)
    else match (x.1.dmaOf st o.chan).ring with
      | none => (x.1, some x.2)
      | some r =>
        if turn && r.isOut && !r.inUse && decide (r.counts.1 > 0) then
          (x.1.putRing st o.chan { r with inUse := true }, some { x.2 with filling := true })
        else (x.1, some x.2)

end Sys2Proof.Machine
end

