-- ==== Sys2Proof/Machine/Dispatcher.lean ====
section
/-! DEFINITION. The dispatcher of a stall: its window, its latches, completion and rejection (13_control_core.md R347 to R354). -/
namespace Sys2Proof.Machine

/-! ### Command numbers (R347) -/

def opMmul : Nat := 0x01
def opAccZero : Nat := 0x02
def opAccStore : Nat := 0x03
def opVchain : Nat := 0x10
def opCombine : Nat := 0x11
def opAttn : Nat := 0x18
def opAttnMerge : Nat := 0x19
def opCvt : Nat := 0x20
def opHist : Nat := 0x21
def opSample : Nat := 0x28
def opTblLoad : Nat := 0x30
def opGpLoad : Nat := 0x31
def opLatchArm : Nat := 0x38
def opLatchRel : Nat := 0x39
def opStepEnd : Nat := 0x3F

def opListed (op : Nat) : Bool :=
  [0x01, 0x02, 0x03, 0x10, 0x11, 0x18, 0x19, 0x20, 0x21, 0x28, 0x30, 0x31, 0x38, 0x39, 0x3F].contains op

/-! ### Field layouts of the bodies (R348); 0 stands for a descriptor -/

/-- ACC, SHAPE, ROW0, M, COL0, N, K_TOTAL, PARTS, PART, A, W. -/
def mmulLayout : List Nat := [1, 2, 7, 9, 7, 9, 24, 2, 3, 0, 0]
/-- BANK, ROW0, M, COL0, N. -/
def accZeroLayout : List Nat := [1, 7, 9, 7, 9]
/-- BANK, ROW0, M, COL0, N, DST. -/
def accStoreLayout : List Nat := [1, 7, 9, 7, 9, 0]
/-- STAGE: OP, BSRC, its descriptor, CSRC, its descriptor, IMM_B, IMM_C. -/
def stageLayout : List Nat := [6, 3, 0, 3, 0, 32, 32]
def stagesLayout : Nat → List Nat
  | 0 => []
  | n + 1 => stageLayout ++ stagesLayout n
/-- AXIS, OP, SEG, PARTS, PART, K_TOTAL, IDX_BASE, RVAL, RIDX (R132). -/
def redLayout : List Nat := [1, 3, 2, 2, 3, 24, 32, 0, 0]
/-- SRC, ROWS, COLS, NSTAGE, the stages, STORE_AT, STORE, RED_AT, RED, MASK, MASK_MODE, SUMM. -/
def vchainLayout (n : Nat) : List Nat := [0, 16, 16, 4] ++ stagesLayout n ++ [4, 0, 4] ++ redLayout ++ [0, 1, 4]
/-- PARTS, OP, N, DST, DST_IDX and the sources. -/
def combineLayout (n : Nat) : List Nat := [8, 8, 17, 0, 0] ++ (List.replicate n [8, 0, 0]).flatten
/-- SRC_FMT, DST_FMT, ZP_EN, ZP, FACTOR_EN, FACTOR, ROWS, COLS, SRC, DST (02_numerics.md). -/
def cvtLayout : List Nat := [4, 4, 1, 8, 1, 32, 16, 16, 0, 0]
/-- ROWS, COLS, SRC. -/
def histLayout : List Nat := [16, 16, 0]
/-- Image offset, target, GI, slot. -/
def tblLoadLayout : List Nat := [24, 1, 8, 3]
def gpLoadLayout : List Nat := [24, 256]
def latchArmLayout : List Nat := [256]
/-- LT, NSEQ, LAYER, GROUP, D, HKV, QPK, KVFMT, SM_SCALE, CAUSAL, WINDOW, BM, BM_LEN, Q, NEWK, NEWV, KVS, PARTS, PART, OUTMODE, OUT, RSTAT,
STAGE, QLATCH. -/
def attnLayout : List Nat := [0, 14, 8, 8, 2, 8, 7, 1, 32, 1, 21, 0, 21, 0, 0, 0, 0, 3, 4, 1, 0, 0, 24, 8]
/-- PARTS, ROWS, D, OUTMODE, OUT, RSTAT, the sources. -/
def mergeLayout (n : Nat) : List Nat := [8, 24, 2, 1, 0, 0] ++ (List.replicate n [8, 0]).flatten
/-- LOGITS, V, ST, NENT. -/
def sampleLayout : List Nat := [0, 21, 24, 14]

/-- The number of stages a VCHAIN record names, at byte 68 of it: SRC takes bytes 32 to 63, ROWS and COLS bytes 64 to 67. -/
def vchainStages (rec : List Byte) : Nat := byteAt rec 68

/-- The layout of a record's body; a body of stages or sources is as long as its own count makes it (R348). -/
def layoutOf (op : Nat) (rec : List Byte) : List Nat :=
  if op = opMmul then mmulLayout
  else if op = opAccZero then accZeroLayout
  else if op = opAccStore then accStoreLayout
  else if op = opVchain then vchainLayout (vchainStages rec)
  else if op = opCombine then combineLayout (byteAt rec 16)
  else if op = opAttn then attnLayout
  else if op = opAttnMerge then mergeLayout (byteAt rec 16)
  else if op = opCvt then cvtLayout
  else if op = opHist then histLayout
  else if op = opSample then sampleLayout
  else if op = opTblLoad then tblLoadLayout
  else if op = opGpLoad then gpLoadLayout
  else if op = opLatchArm then latchArmLayout
  else []

/-- Bytes that the body of a record needs. -/
def bodyEnd (op : Nat) (rec : List Byte) : Nat :=
  let l := layoutOf op rec
  (fieldPlaces 16 l).getD l.length 0

/-- The descriptors that a command carries. -/
def WinCmd.descs (w : WinCmd) : List Desc :=
  let l := layoutOf w.op w.record
  ((List.range l.length).filter fun i => l.getD i 1 == 0).map fun i => recDesc w.record l i

/-- The latches a command waits on: WAIT, and QLATCH of an ATTN (R351). -/
def WinCmd.latches (w : WinCmd) : List Nat := w.waits ++ (if w.op = opAttn then [recField w.record attnLayout 23] else [])

/-- The latch of its own stall that a command releases. -/
def WinCmd.frees (w : WinCmd) (st : Nat) : Option Nat :=
  if (w.relEn || w.op == opLatchRel) && w.relStall == st then some w.rel else none

/-! ### Taking a record into the window -/

/-- LEN of a record header: its length in bytes (R347). -/
def recordBytes (hdr : List Byte) : Nat :=
  64 * (bits (byteAt hdr 1) 3 0 + 16 * bits (byteAt hdr 7) 7 4 + 1)

def parseRecord (seq : Word) (rec : List Byte) (viaDq : Bool) : WinCmd :=
  { seq := seq, op := byteAt rec 0,
    waits := (List.range (min 4 (bits (byteAt rec 1) 6 4))).map fun i => byteAt rec (2 + i),
    relEn := bit (byteAt rec 1) 7, rel := byteAt rec 6, relStall := bits (byteAt rec 7) 3 0,
    record := rec, viaDq := viaDq }

/-- SUMM of a VCHAIN, 0xF for none. -/
def vchainSumm (rec : List Byte) : Nat :=
  let l := vchainLayout (vchainStages rec)
  recField rec l (l.length - 1)

/-- The VALID bit of a summary slot. -/
def State.summValid (s : State) (st slot : Nat) : Bool := bit (s.rd Reg.SUMM_FLAGS st) (8 * slot)
def State.setSummFlags (s : State) (st slot f : Nat) : State :=
  s.wr Reg.SUMM_FLAGS (putBits (s.rd Reg.SUMM_FLAGS st) (8 * slot + 7) (8 * slot) f) st

/-- DSP_STATUS.DEPTH follows the window (R367). -/
def State.putWindow (s : State) (st : Nat) (d : Dsp) : State :=
  (s.putDsp st d).setFld Reg.DSP_STATUS_DEPTH d.window.length st

/-- A record enters the window: it takes the next value of DSP_SEQ (R350), and a VCHAIN that names a summary slot makes it invalid
(R143). -/
def State.accept (s : State) (st : Nat) (rec : List Byte) (viaDq : Bool) : State :=
  let d := s.dspOf st
  let w := parseRecord (BitVec.ofNat 32 (s.rd Reg.DSP_SEQ st)) rec viaDq
  let named := w.op = opVchain && decide (vchainSumm rec < 8)
  let t := (s.count Reg.DSP_SEQ_SEQ 1 st).putWindow st { d with
    window := d.window ++ [w],
    summLast := if named then SMap.set d.summLast 0 (vchainSumm rec) (w.seq.toNat + 1) else d.summLast }
  if named then
    t.setSummFlags st (vchainSumm rec) (putBits (bits (t.rd Reg.SUMM_FLAGS st) (8 * vchainSumm rec + 7) (8 * vchainSumm rec)) 0 0 0)
  else t

def windowCap : Nat := 16
def State.windowFull (s : State) (st : Nat) : Bool := decide ((s.dspOf st).window.length ≥ windowCap)

/-! ### Completion and rejection -/

/-- A running command not yet completed, by its number and kind. -/
def State.runningCmd (s : State) (st : Nat) (seq : Word) (op : Nat) : Option WinCmd :=
  (s.dspOf st).running.find? fun w => w.seq == seq && w.op == op && !w.ok

/-- Replaces the running command of the same number. -/
def State.putRunning (s : State) (st : Nat) (w : WinCmd) : State :=
  let d := s.dspOf st
  s.putDsp st { d with running := d.running.map fun x => if x.seq = w.seq then w else x }

def State.dropRunning (s : State) (st : Nat) (seq : Word) : State :=
  let d := s.dspOf st
  s.putDsp st { d with running := d.running.filter fun x => x.seq != seq }

/-- Marks a command complete with status OK; a VCHAIN writes its summary slot, which is valid only after the last VCHAIN accepted that
names it (R143, R144). -/
def State.finish (s : State) (st : Nat) (w : WinCmd) : State :=
  let t := s.putRunning st { w with ok := true, outs := none }
  match w.summ with
  | none => t
  | some (slot, value, flags) =>
    let valid := if SMap.get (s.dspOf st).summLast 0 slot = w.seq.toNat + 1 then 1 else 0
    (t.wr Reg.SUMM value st slot).setSummFlags st slot (flags + valid)

/-- A latch released in a stall, where the two stalls belong together (R351). -/
def State.release (s : State) (src dst l : Nat) : State :=
  if s.samePaddock src dst then s.setLatch dst l true else s

/-- STL_DQ_DONE counts a record of the direct queue that has completed (R378, R390). -/
def State.dqDone (s : State) (st : Nat) (w : WinCmd) : State :=
  if w.viaDq then s.count Reg.STL_DQ_DONE_COUNT 1 st else s

/-- Rejected matrix instructions and vector commands are counted (R115, R145). -/
def State.countReject (s : State) (st op : Nat) : State :=
  if [opMmul, opAccZero, opAccStore].contains op then s.bump Reg.MXE_REJ_CNT_COUNT 1 st
  else if [opVchain, opCombine].contains op then s.bump Reg.VXE_REJ_CNT_COUNT 1 st
  else s

/-- R353: the command leaves the engine with status REJECTED, releases nothing, and the dispatcher holds. A rejection while one is
held keeps the first record (notes/assumptions/17.md). -/
def State.reject (s : State) (st : Nat) (w : WinCmd) : State :=
  let t := ((s.dropRunning st w.seq).dqDone st w).countReject st w.op
  -- a tile preloaded for it is given up (R112)
  let d := { t.dspOf st with preload := if (t.dspOf st).preload = w.seq.toNat + 1 then 0 else (t.dspOf st).preload }
  let t := t.putDsp st d
  let t := t.fault 0x0D 1 st (w.seq.toNat + w.op * 2 ^ 32)
  match d.held with
  | some _ => t.setFlag Reg.DSP_STATUS_CMD_REJ st
  | none =>
    let t := (t.putDsp st { d with held := some w }).putScc st { t.sccOf st with rejPending := true }
    ((t.setFlag Reg.DSP_STATUS_CMD_REJ st).wr Reg.DSP_REJ_SEQ w.seq.toNat st).wr Reg.DSP_REJ_OP w.op st

/-- The stores of an executed command: into the STB at once, or kept for a stream ring, whose slots the command's next rows fill; complete
when all are written. -/
def State.deliver (s : State) (st : Nat) (w : WinCmd) (d : Desc) (outs : Outs) : State :=
  if d.kind = 3 then
    if d.slots = 0 then s.finish st w
    else s.putRunning st { w with outs := some { chan := d.chan, slots := d.slots, next := 0, writes := outs } }
  else
    (outs.foldl (fun u o => u.stbStore st (d.loc + o.1) o.2.1 o.2.2) s).finish st w

/-- Latches that lead on from latches: released by commands that wait on one of them. -/
def latchReach (st : Nat) (cmds : List WinCmd) : Nat → List Nat → List Nat
  | 0, l => l
  | n + 1, l => latchReach st cmds n
      (l ++ (cmds.filter fun x => x.waits.any l.contains).filterMap fun x => match x.frees st with
        | some k => if l.contains k then none else some k
        | none => none)

/-- Serial comparison of sequence numbers (R350). -/
def seqBefore (a b : Word) : Bool := (b - a).toNat != 0 && decide ((b - a).toNat < 2 ^ 31)

/-- A command's turn at the ring of channel `c`: every earlier command that names the ring has had its slots, unless latches order it
after this one (R238). -/
def State.ringTurn (s : State) (st : Nat) (w : WinCmd) (c : Nat) : Bool :=
  let d := s.dspOf st
  let cmds := d.running ++ d.window
  let after := match w.frees st with | some k => latchReach st cmds cmds.length [k] | none => []
  cmds.all fun x => !seqBefore x.seq w.seq || x.ok || x.waits.any after.contains ||
    x.descs.all fun y => !(y.present && y.kind == 3 && y.chan == c) || decide (SMap.get x.reads 0 y.place ≥ y.slots)

/-- A command met again while its ring still takes its rows. -/
def State.deliverMore (s : State) (st : Nat) (w : WinCmd) (o : RingOut) : State :=
  let x := s.ringPut st o (s.ringTurn st w o.chan)
  match x.2 with
  | none => x.1.finish st w
  | some o' => x.1.putRunning st { w with outs := some o' }

/-- What an engine's checks answer: the state with the error bits of the first failing check, or none. A zero count is an OK
that touches nothing (R6). -/
inductive Verdict
  | rejected (s : State)
  | zero
  | run

/-- An issued command: a KIND 3 source of no slots makes it a zero count (R238); else it takes and reads its ring slots, one row of the
table for each step, and runs once it has them all. -/
def State.engineGo (s : State) (st : Nat) (w : WinCmd) (srcs : WinCmd → List Desc) (zero body : State → WinCmd → State) : State :=
  if (srcs w).any (fun d => d.kind == 3 && d.slots == 0) then zero s w
  else
    let x := s.ringFeedAll st w (s.ringTurn st w) (srcs w)
    if x.2.2 then body x.1 x.2.1 else x.1.putRunning st x.2.1

/-- The common course of an engine command: nothing where no such command runs; a command still putting rows into a ring goes on; else it
issues: its checks are made, and it captures (`snap`) what it uses from issue on; then its ring slots, then its body. `zero`: its effect
where a count is zero. -/
def State.engine (s : State) (st : Nat) (seq : Word) (op : Nat) (check : State → WinCmd → Verdict) (srcs : WinCmd → List Desc)
    (body : State → WinCmd → State) (snap : State → WinCmd → List Nat := fun _ _ => [])
    (zero : State → WinCmd → State := fun s w => s.finish st w) : State :=
  match s.runningCmd st seq op with
  | none => s
  | some w =>
    match w.outs with
    | some o => s.deliverMore st w o
    | none =>
      if w.issued then s.engineGo st w srcs zero body
      else match check s w with
        | .rejected t => t.reject st w
        | .zero => zero s w
        | .run => s.engineGo st { w with issued := true, snap := snap s w } srcs zero body

/-- ALIGN_FAULT with the unit that met it; the first unit stays recorded (R230). -/
def State.alignFault (s : State) (st src : Nat) : State :=
  if s.flag Reg.DMA_STATUS_ALIGN_FAULT st then s
  else (s.setFlag Reg.DMA_STATUS_ALIGN_FAULT st).setFld Reg.DMA_STATUS_ALIGN_SRC src st

/-! ### Which command is dispatched -/

/-- Accumulator banks a matrix command holds (R100, R105). -/
def banksOf (w : WinCmd) : List Nat :=
  if w.op = opMmul then
    let sh := recField w.record mmulLayout 1
    if sh = 0 then [0] else if sh = 1 then [1] else [0, 1]
  else if w.op = opAccZero || w.op = opAccStore then [bits (recField w.record accZeroLayout 0) 0 0]
  else if w.op = opAttn then [0, 1]
  else []

/-- The slot of the stall's table store that an MMUL decodes with (R79). -/
def tableUse (w : WinCmd) : Option Nat :=
  if w.op = opMmul then
    let d := recDesc w.record mmulLayout 10
    if d.comp then some d.tableId else none
  else none

/-- Commands dispatched before a running one and not yet complete. -/
def Dsp.ahead (d : Dsp) (seq : Word) : List WinCmd := (d.running.takeWhile fun x => x.seq != seq).filter fun x => !x.ok

/-- Two commands that need one engine (R14, R100, R138): the arrays of a bank; the VXE and the RDU, both of which an ATTN or ATTN_MERGE
holds from issue to completion; any other engine. -/
def sameEngine (a b : WinCmd) : Bool :=
  (banksOf a).any (fun k => (banksOf b).contains k) ||
  ((a.op == b.op) && [opVchain, opCombine, opCvt, opHist, opSample, opTblLoad, opGpLoad].contains a.op) ||
  ([opAttn, opAttnMerge].contains a.op && [opVchain, opCombine, opAttn, opAttnMerge].contains b.op) ||
  ([opAttn, opAttnMerge].contains b.op && [opVchain, opCombine].contains a.op)

/-- Every latch it names is released (R351). -/
def State.waitsMet (s : State) (st : Nat) (w : WinCmd) : Bool := w.waits.all fun l => s.latch st l

/-- The table slot that a TBL_LOAD writes (R78): 0 and the TABLE_ID of the image that lies in the STB, for the stall's store, or one more
than the host groom and its physical slot (R177). -/
def State.tblSlot (s : State) (st : Nat) (w : WinCmd) : Option (Nat × Nat) :=
  if w.op = opTblLoad then
    let f := recField w.record tblLoadLayout
    if f 1 = 1 then (s.positionOf st (f 2)).bind fun p => (s.hostOf p).map fun n => (n + 1, s.physSlot p (f 3))
    else some (0, tableImageId (s.stbRead st (f 0) 64))
  else none

/-- A LATCH_ARM clears a latch that the command waits on (R352). -/
def armHolds (x w : WinCmd) : Bool := x.op == opLatchArm && w.latches.any fun l => bit (recField x.record latchArmLayout 0) l

/-- A command keeps its place in the stream behind an earlier one `x`: an MMUL or ACC_ZERO behind one that writes its bank (R101), a VCHAIN
behind a VCHAIN (R130, R144), a COMBINE behind a COMBINE (R138), a TBL_LOAD behind one to its slot (R79), any command behind a LATCH_ARM
of a latch it waits on (R352). Nothing else holds it (R15). -/
def State.keepsBehind (s : State) (st : Nat) (w x : WinCmd) : Bool :=
  ([opMmul, opAccZero].contains w.op && [opMmul, opAccZero].contains x.op && (banksOf w).any fun k => (banksOf x).contains k)
    || (w.op == x.op && [opVchain, opCombine].contains w.op)
    || ((s.tblSlot st w).isSome && s.tblSlot st w == s.tblSlot st x)
    || armHolds x w

def State.behindEarlier (s : State) (st : Nat) (w : WinCmd) (before : List WinCmd) : Bool := before.any (s.keepsBehind st w)

/-- A LATCH_ARM that runs still holds a command accepted after it (R352). -/
def State.armRuns (s : State) (st : Nat) (w : WinCmd) : Bool :=
  (s.dspOf st).running.any fun x => armHolds x w && !x.ok && seqBefore x.seq w.seq

/-- The first command of the window that may go, with those before and after it (R350): a record that the dispatcher itself rejects waits for
its latches as any other. -/
def State.pick (s : State) (st : Nat) : List WinCmd → List WinCmd → Option (WinCmd × List WinCmd)
  | _, [] => none
  | before, w :: r =>
    if s.waitsMet st w && !(s.dspOf st).running.any (sameEngine w) && !s.armRuns st w && !s.behindEarlier st w before then some (w, before ++ r)
    else State.pick s st (before ++ [w]) r

/-! ### LATCH_ARM, LATCH_REL, STEP_END, SKIP and FLUSH -/

/-- Every command accepted before `seq` that has not completed, the rejected one that is held among them (R352 to R354). -/
def Dsp.earlier (d : Dsp) (seq : Word) : List WinCmd := (d.held.toList ++ d.running ++ d.window).filter fun x => seqBefore x.seq seq

/-- The effect of SKIP: the rejected command's latch is released and dispatch resumes (R353). -/
def State.skip (s : State) (st : Nat) : State :=
  let d := s.dspOf st
  match d.held with
  | none => s
  | some w =>
    let t := s.putDsp st { d with held := none }
    if w.relEn then t.release st w.relStall w.rel else t

/-- The effect of FLUSH: the window is emptied, no latch released, and dispatch resumes. -/
def State.flush (s : State) (st : Nat) : State :=
  let d := s.dspOf st
  s.putWindow st { d with
    window := [], held := none,
    preload := if d.window.any (fun w => d.preload == w.seq.toNat + 1) then 0 else d.preload }

end Sys2Proof.Machine
end

