-- ==== Sys2Proof/Machine/Flags.lean ====
section
/-! DEFINITION. The status bits and counters that several engines set: saturation and NaN counts (R47 to R51), accumulation conditions
(R54), block damage (R92, R506) and the error thresholds (R457, R458). -/
namespace Sys2Proof.Machine

/-- Saturated elements of a stall (R49). -/
def State.countSat (s : State) (st n : Nat) : State :=
  if n = 0 then s else (s.bump Reg.NUM_SAT_CNT_COUNT n st).setFlag Reg.NUM_STATUS_SAT_SEEN st

/-- NaNs narrowed to a format without one (R50). -/
def State.countNan (s : State) (st n : Nat) : State :=
  if n = 0 then s else (s.bump Reg.NUM_NAN_CNT_COUNT n st).setFlag Reg.NUM_STATUS_NAN_NARROW st

/-- The counts of a list of narrowed elements. -/
def State.countNarrow (s : State) (st : Nat) (l : List Narrowed) : State :=
  (s.countSat st (l.filter (·.sat)).length).countNan st (l.filter (·.nanLost)).length

/-- ACC_INF and ACC_NAN of R54. -/
def State.accFlags (s : State) (st : Nat) (l : List FAcc) : State :=
  (s.setIf (l.any (·.inf)) Reg.NUM_STATUS_ACC_INF st).setIf (l.any (·.nan)) Reg.NUM_STATUS_ACC_NAN st

/-! ### Thresholds and map-out requests -/

/-- The map-out request bit of a resource (R458). -/
def State.marked (s : State) (kind index : Nat) : Bool :=
  if kind = 1 then bit (s.fld Reg.MAPREQ_STALL_REQ) index
  else if kind = 2 then s.flag Reg.CH_STATUS_MAPOUT_REQ 0 index
  else if kind = 3 then bit (s.rd Reg.MAPREQ_GROOM 0 (index / 32)) (index % 32)
  else bit (s.fld Reg.MAPREQ_LP_REQ) (index / 32)

/-- A resource is marked (R458): its request bit, the flash list and event 0x15. `kind` as in R451; a tier channel marks its half
(R223). -/
def State.markOut (s : State) (kind index n : Nat) : State :=
  let t :=
    if kind = 1 then s.setFld Reg.MAPREQ_STALL_REQ (s.fld Reg.MAPREQ_STALL_REQ ||| 2 ^ index)
    else if kind = 2 then s.setFlag Reg.CH_STATUS_MAPOUT_REQ 0 index
    else if kind = 3 then
      s.wr Reg.MAPREQ_GROOM (s.rd Reg.MAPREQ_GROOM 0 (index / 32) ||| 2 ^ (index % 32)) 0 (index / 32)
    else s.setFld Reg.MAPREQ_LP_REQ (s.fld Reg.MAPREQ_LP_REQ ||| 2 ^ (index / 32))
  let t :=
    if t.sagNow then { t with mapRetry := t.mapRetry ++ [(kind, index)] }
    else { t with mapList := if t.mapList.contains (kind, index) then t.mapList else t.mapList ++ [(kind, index)] }
  t.fault 0x15 kind index n true

/-- Adds one to an error counter and marks the resource when the count reaches its threshold, zero marking nothing and a resource only once
(R457; notes/assumptions/59.md). -/
def State.countErr (s : State) (f thr : Fld) (kind index u i : Nat) : State :=
  let n := s.fld f u i
  let t := s.bump f 1 u i
  if t.fld f u i ≠ n && t.fld f u i = t.fld thr && t.fld thr ≠ 0 && !t.marked kind index then t.markOut kind index (t.fld f u i) else t

/-! ### Block damage (R92, R506) -/

/-- The damage record of a stall: the first since DAMAGE was cleared fills it, later ones set DMG_OVF; every one is counted. -/
def State.damageRecord (s : State) (st tag tid block : Nat) (v : BlockVerdict) (wher : Nat) : State :=
  let t := s.bump Reg.DEC_DMG_CNT_COUNT 1 st
  if t.flag Reg.DEC_STATUS_DAMAGE st then t.setFlag Reg.DEC_STATUS_DMG_OVF st
  else
    ((((t.wr Reg.DMG_TENSOR (tag + tid * 2 ^ 16 + v.sub * 2 ^ 26) st).wr Reg.DMG_BLOCK block st).wr Reg.DMG_WHERE
      (v.cause + wher) st).setFlag Reg.DEC_STATUS_DAMAGE st)

/-- DETAIL of event 0x05 (R452). -/
def damageDetail (tag block cause : Nat) (port : Bool) : Nat :=
  tag + block % 2 ^ 32 * 2 ^ 16 + cause * 2 ^ 48 + (if port then 2 ^ 52 else 0)

/-- A damaged block decoded at a stall's MXE port: counted against the stall. -/
def State.damageAtPort (s : State) (st tag tid block : Nat) (v : BlockVerdict) : State :=
  ((s.damageRecord st tag tid block v 0).fault 0x05 1 st (damageDetail tag block v.cause true)).countErr
    Reg.MON_STALL_DMG_COUNT Reg.FLT_THR_GRM_STALL_DMG 1 st 0 st

/-- A damaged block decoded by groom `g` of channel `q`: counted against the channel it was read from; the record goes to the stall
that owns the channel. -/
def State.damageAtGroom (s : State) (st q g tag tid block : Nat) (v : BlockVerdict) : State :=
  ((s.damageRecord st tag tid block v (16 + g * 2 ^ 5 + q % 32 * 2 ^ 8 + q / 32 * 2 ^ 13)).fault 0x05 2 q
    (damageDetail tag block v.cause false)).countErr Reg.MON_CH_DMG_COUNT Reg.FLT_THR_CH_DMG 2 q 0 q

end Sys2Proof.Machine
end

