-- ==== Sys2Proof/Machine/Mxe.lean ====
section
/-! DEFINITION. The matrix engine: MMUL, WEIGHT_PRELOAD, ACC_ZERO and ACC_STORE (04_matrix_engine.md R97 to R115), and TBL_LOAD into a
stall's table store (03_weight_compression.md R77 to R80). -/
namespace Sys2Proof.Machine

/-! ### Accumulator banks (R100, R103) -/

def accKey (st bank row col : Nat) : Nat := ((st * 2 + bank) * 128 + row) * 128 + col
def State.accAt (s : State) (st bank row col : Nat) : Word := SMap.get s.acc 0 (accKey st bank row col)
def State.putAcc (s : State) (st bank row col : Nat) (v : Word) : State :=
  { s with acc := SMap.set s.acc 0 (accKey st bank row col) v }

def accPoisonReg (bank : Nat) : Loc := if bank = 0 then Reg.ACC_POISON0 else Reg.ACC_POISON1
def State.accPoison (s : State) (st bank row : Nat) : Bool := bit (s.rd (accPoisonReg bank) st (row / 32)) (row % 32)
def State.setAccPoison (s : State) (st bank row : Nat) (p : Bool) : State :=
  s.wr (accPoisonReg bank) (putBits (s.rd (accPoisonReg bank) st (row / 32)) (row % 32) (row % 32) (if p then 1 else 0)) st (row / 32)

/-! ### MMUL -/

/-- The fields of an MMUL (04_matrix_engine.md, "Matrix instructions"). -/
structure Mmul where
  add : Bool
  shape : Nat
  row0 : Nat
  m : Nat
  col0 : Nat
  n : Nat
  kTotal : Nat
  parts : Nat
  part : Nat
  a : Desc
  w : Desc

def parseMmul (rec : List Byte) : Mmul :=
  let f := recField rec mmulLayout
  { add := f 0 == 1, shape := f 1, row0 := f 2, m := f 3, col0 := f 4, n := f 5, kTotal := f 6, parts := 2 ^ f 7, part := f 8,
    a := recDesc rec mmulLayout 9, w := recDesc rec mmulLayout 10 }

/-- S and V of R106: the first reduction position of a part and how many it holds. -/
def partStart (kTotal parts part : Nat) : Nat := part * (8 * eighth kTotal) / parts
def partLen (kTotal parts part : Nat) : Nat :=
  min kTotal (partStart kTotal parts part + 8 * eighth kTotal / parts) - partStart kTotal parts part

def Mmul.v (c : Mmul) : Nat := partLen c.kTotal c.parts c.part
/-- K-tiles and column groups (R98). -/
def Mmul.tiles (c : Mmul) : Nat := (c.v + 127) / 128
def Mmul.groups (c : Mmul) : Nat := (c.n + 127) / 128
def Mmul.codes (c : Mmul) : Nat := c.tiles * c.groups * 16384

/-- The shape rule of R105. -/
def shapeOk (shape row0 m col0 n : Nat) : Bool :=
  if shape ≤ 1 then decide (row0 + m ≤ 128) && decide (col0 + n ≤ 128)
  else if shape = 2 then decide (row0 + m ≤ 128) && col0 == 0 && decide (129 ≤ n) && decide (n ≤ 256)
  else row0 == 0 && decide (129 ≤ m) && decide (m ≤ 256) && decide (col0 + n ≤ 128)

/-- Bank, row and column of result (r, n) (R105). -/
def Mmul.place (c : Mmul) (r n : Nat) : Nat × Nat × Nat :=
  if c.shape ≤ 1 then (c.shape, c.row0 + r, c.col0 + n)
  else if c.shape = 2 then (n / 128, c.row0 + r, n % 128)
  else (r / 128, r % 128, c.col0 + n)

/-- Blocks of a compressed weight operand: their sizes from the list that STRIDE names (R349). -/
def Mmul.blockCount (c : Mmul) : Nat := (c.codes + codesPerBlock c.w.fmt - 1) / codesPerBlock c.w.fmt
def State.blockSizes (s : State) (st : Nat) (d : Desc) (n : Nat) : List Nat :=
  (s.stbRead st d.stride n).map fun b => 64 * b.toNat

/-- Bytes the weight operand takes from its LOC. -/
def State.weightSpan (s : State) (st : Nat) (c : Mmul) : Nat :=
  if c.w.comp then (s.blockSizes st c.w c.blockCount).sum else (c.codes * fmtBits c.w.fmt + 7) / 8

/-- A ring operand whose `k` slots, of the ring that its channel holds, have fewer bytes than the operand (R106, R107). `k` = 0 takes
nothing under R238. -/
def State.ringShort (s : State) (st : Nat) (d : Desc) (len : Nat) : Bool :=
  d.kind == 3 && d.slots != 0 && (match (s.dmaOf st d.chan).ring with
    | some r => decide (64 * r.slotLines * d.slots < len)
    | none => false)

/-- The checks of R107 in their order; each failure sets its own bit only. -/
def checkMmul (st : Nat) (s : State) (w : WinCmd) : Verdict :=
  let c := parseMmul w.record
  let aSpan := spanBytes c.a.fmt c.a.stride c.m c.v
  if !recOk w.record mmulLayout || !shapeOk c.shape c.row0 c.m c.col0 c.n || decide (c.part ≥ c.parts)
      || !c.a.present || !c.w.present || (c.a.kind != 0 && c.a.kind != 3) || (c.w.kind != 0 && c.w.kind != 3)
      || c.a.comp || c.a.scaleEn || s.ringShort st c.a aSpan || s.ringShort st c.w (s.weightSpan st c) then
    .rejected (s.setFlag Reg.MXE_STATUS_SHAPE_BAD st)
  else if !c.a.fmtGood || !c.w.fmtGood || !fmtMatrixOk c.a.fmt || !fmtMatrixOk c.w.fmt || (c.w.comp && !fmtCodable c.w.fmt) then
    .rejected (s.setFlag Reg.NUM_STATUS_FMT_BAD st)
  else if !c.a.aligned || (c.w.kind == 0 && c.w.loc % 64 != 0) || (!c.w.comp && c.w.stride % 64 != 0) then .rejected (s.alignFault st 2)
  else if !c.a.inStb aSpan || (c.w.comp && decide (c.w.stride + c.blockCount > stbSize)) || !c.w.inStb (s.weightSpan st c) then
    .rejected (s.setFlag Reg.MXE_STATUS_OPND_RANGE st)
  else if c.w.scaleEn && decide (c.n > 0) && decide (c.w.scaleBase + (c.n - 1) > 8191) then
    .rejected (s.setFlag Reg.NUM_STATUS_SCALE_RANGE st)
  else if c.w.comp && !(match SMap.get s.tables none (1024 * st + c.w.tableId) with | some t => t.fmt == c.w.fmt | none => false) then
    .rejected (s.setFlag Reg.DEC_STATUS_TBL_MISS st)
  else if c.kTotal = 0 || c.m = 0 || c.n = 0 then .zero
  else .run

/-- The blocks of a compressed operand: verdict and whether a line it has bytes in is poisoned. A size byte of 0 gives a block of no bytes, whose
header reads as zeros (notes/assumptions/70.md). -/
def decodeBlocks (crc : Bool) (d : Desc) (t : CodeTable) (m : Img) : List Nat → Nat → List (BlockVerdict × Bool)
  | [], _ => []
  | z :: r, off =>
    (decodeBlock crc d.fmt d.tableId t ((m.data.drop off).take z), m.bad off z) :: decodeBlocks crc d t m r (off + z)

/-- The verdicts on the blocks of an MMUL's weight operand; none for a plain one. -/
def State.weightBlocks (s : State) (st : Nat) (w : WinCmd) (c : Mmul) : List (BlockVerdict × Bool) :=
  if c.w.comp then
    match SMap.get s.tables none (1024 * st + c.w.tableId) with
    | some t => decodeBlocks s.crc c.w t (s.img st w c.w (s.weightSpan st c)) (s.blockSizes st c.w c.blockCount) 0
    | none => []
  else []

/-- Weight code number `i` (R98): of the decoded blocks, or of the plain image `wm`. -/
def Mmul.weightCode (c : Mmul) (blocks : List (BlockVerdict × Bool)) (wm : Img) (i : Nat) : Nat :=
  if c.w.comp then
    match blocks[i / codesPerBlock c.w.fmt]? with
    | some b => b.1.codes.getD (i % codesPerBlock c.w.fmt) 0
    | none => 0
  else packedCode wm.data (fmtBits c.w.fmt) i

/-- Weight code number `i` is poisoned: its block failed a check or has bytes in a poisoned line; a plain code lies in one (R89,
R142). -/
def Mmul.weightBad (c : Mmul) (blocks : List (BlockVerdict × Bool)) (wm : Img) (i : Nat) : Bool :=
  if c.w.comp then
    match blocks[i / codesPerBlock c.w.fmt]? with
    | some b => b.1.cause != 0 || b.2
    | none => false
  else wm.bad (fmtBits c.w.fmt * i / 8) 1

/-- The BF16 scale of scale file entry `e` (R42). -/
def State.scaleAt (s : State) (st e : Nat) : Nat := bits (s.rd Reg.SCL_FILE st (e / 2)) (16 * (e % 2) + 15) (16 * (e % 2))

/-- The scale entries that an MMUL captures when it issues (R44). -/
def mmulScales (st : Nat) (s : State) (w : WinCmd) : List Nat :=
  let c := parseMmul w.record
  if c.w.scaleEn then (List.range c.n).map fun n => s.scaleAt st (c.w.scaleBase + n) else []

/-! ### Tile registers (R97, R112) -/

/-- The arrays that an MMUL uses, each with its column group (R105). -/
def Mmul.arrays (c : Mmul) : List (Nat × Nat) :=
  if c.shape ≤ 1 then [(c.shape, 0)] else if c.shape = 2 then [(0, 0), (1, 1)] else [(0, 0), (1, 0)]

def State.wregsOf (s : State) (st k : Nat) : TileRegs := SMap.get s.wregs {} (2 * st + k)
def State.putWregs (s : State) (st k : Nat) (r : TileRegs) : State := { s with wregs := SMap.set s.wregs {} (2 * st + k) r }
/-- The tile in the register that the array does not multiply with. -/
def TileRegs.free (r : TileRegs) : List Nat × Bool := SMap.get r.tiles ([], false) (1 - r.sel)
def TileRegs.fill (r : TileRegs) (t : List Nat × Bool) : TileRegs := { r with tiles := SMap.set r.tiles ([], false) (1 - r.sel) t }

/-- Tile `k` of column group `g` of a weight operand: its codes, and whether it holds a poisoned one (R89, R98). -/
def Mmul.tile (c : Mmul) (blocks : List (BlockVerdict × Bool)) (wm : Img) (k g : Nat) : List Nat × Bool :=
  let base := (k * c.groups + g) * 16384
  ((List.range 16384).map fun i => c.weightCode blocks wm (base + i), (List.range 16384).any fun i => c.weightBad blocks wm (base + i))

/-- The tiles of an instruction pass through the registers of its arrays: each is filled into the free register, which the array then
multiplies with. -/
def State.loadTiles (s : State) (st : Nat) (c : Mmul) (tile : Nat → Nat → List Nat × Bool) : State :=
  c.arrays.foldl (fun u x => (List.range c.tiles).foldl (fun u k =>
    let r := (u.wregsOf st x.1).fill (tile k x.2)
    u.putWregs st x.1 { r with sel := 1 - r.sel }) u) s

/-- One result element of an MMUL before it meets its accumulator: the canonical part sum (R57, R58, R106). -/
def Mmul.element (c : Mmul) (arow : List FAcc) (wcol : List FAcc) : FAcc :=
  let start := partStart c.kTotal c.parts c.part
  partDot (fun k => accMul ((wcol.getD (k - start) ⟨0, false, false⟩).v) ((arow.getD (k - start) ⟨0, false, false⟩).v)) c.kTotal c.parts c.part

/-- Writes one result: overwrite or one FP32 addition (R55); a poisoned one is the canonical NaN (R89, R142). -/
def State.mmulWrite (s : State) (st : Nat) (c : Mmul) (r n : Nat) (sum : FAcc) (poisoned : Bool) : State :=
  let p := c.place r n
  if poisoned then s.putAcc st p.1 p.2.1 p.2.2 f32NaN
  else
    let v := if c.add then accAdd ⟨s.accAt st p.1 p.2.1 p.2.2, false, false⟩ sum else sum
    (s.putAcc st p.1 p.2.1 p.2.2 v.v).accFlags st [v]

/-- The POISON tag of the accumulator row that activation row `r` enters, in one bank (R103). `whole`: the instruction writes all
128 columns and consumes no poisoned weight tile, of either bank's columns. -/
def State.mmulTag (s : State) (st : Nat) (c : Mmul) (bank row : Nat) (whole poisoned : Bool) : State :=
  if poisoned then s.setAccPoison st bank row true
  else if whole && !c.add then s.setAccPoison st bank row false
  else s

/-- The first tile of column group `g` that was preloaded for the MMUL: it stands in the free register of its array (R112). -/
def State.preloaded (s : State) (st : Nat) (c : Mmul) (seq : Word) (g : Nat) : Option (List Nat × Bool) :=
  if (s.dspOf st).preload = seq.toNat + 1 then (c.arrays.find? fun x => x.2 == g).map fun x => (s.wregsOf st x.1).free else none

/-- The body of an MMUL that passed its checks. A poisoned activation row sets POISON_SEEN as a poisoned tile does (DESIGN CHOICE,
notes/assumptions/75.md). -/
def mmulBody (st : Nat) (s : State) (w : WinCmd) : State :=
  let c := parseMmul w.record
  let blocks := s.weightBlocks st w c
  let wm := s.img st w c.w (s.weightSpan st c)
  let am := s.img st w c.a (spanBytes c.a.fmt c.a.stride c.m c.v)
  -- the damage of every block, in order (R91: all verdicts are in before completion)
  let t := (List.range blocks.length).foldl (fun u i =>
    match blocks[i]? with
    | some b => if b.1.cause ≠ 0 then u.damageAtPort st c.w.tag c.w.tableId i b.1 else u
    | none => u) s
  let first := (List.range c.groups).map fun g => s.preloaded st c w.seq g
  let tile (k g : Nat) : List Nat × Bool := match k, first.getD g none with
    | 0, some t => t
    | _, _ => c.tile blocks wm k g
  let code (k g i : Nat) : Nat := match k, first.getD g none with
    | 0, some t => t.1.getD i 0
    | _, _ => c.weightCode blocks wm ((k * c.groups + g) * 16384 + i)
  let groupBad := (List.range c.groups).map fun g => (List.range c.tiles).any fun k => (tile k g).2
  let rowBad := (List.range c.m).map fun r => am.bad (r * c.a.stride) (rowBytes c.a.fmt c.v)
  let rows := (List.range c.m).map fun r => (am.row c.a.fmt c.a.stride c.v r).map fun x => expandEX16 c.a.fmt c.a.zpOpt none x
  let cols := (List.range c.n).map fun n =>
    let scale := if c.w.scaleEn then some (w.snap.getD n 0) else none
    (List.range c.v).map fun k =>
      expandEX16 c.w.fmt c.w.zpOpt scale (code (k / 128) (n / 128) (k % 128 * 128 + n % 128))
  let t := t.setIf (cols.any fun l => l.any (·.inf)) Reg.NUM_STATUS_ACC_INF st
  let t := t.setIf (groupBad.any id || rowBad.any id) Reg.MXE_STATUS_POISON_SEEN st
  let t := (List.range c.m).foldl (fun u r =>
    let u := (List.range c.n).foldl (fun u n =>
      let bad := groupBad.getD (n / 128) false || rowBad.getD r false
      u.mmulWrite st c r n (c.element (rows.getD r []) (cols.getD n [])) bad) u
    if c.shape = 2 then
      let u := u.mmulTag st c 0 (c.row0 + r) (!groupBad.any id) (groupBad.getD 0 false || rowBad.getD r false)
      u.mmulTag st c 1 (c.row0 + r) (c.n == 256 && !groupBad.any id) (groupBad.getD 1 false || rowBad.getD r false)
    else
      let p := c.place r 0
      u.mmulTag st c p.1 p.2.1 (c.n == 128) (groupBad.getD 0 false || rowBad.getD r false)) t
  let t := t.loadTiles st c tile
  let t := (t.count Reg.MXE_ISSUE_CNT_COUNT 1 st).count Reg.MXE_ROW_CNT_COUNT (c.m * c.tiles * (if c.shape = 2 then 2 else 1)) st
  let d := t.dspOf st
  (t.putDsp st { d with preload := if d.preload = w.seq.toNat + 1 then 0 else d.preload }).finish st w

/-- Sources of an MMUL: a part with no position reads no operand (R106). -/
def mmulSrcs (w : WinCmd) : List Desc := let c := parseMmul w.record; if c.v = 0 then [] else [c.a, c.w]

/-- An MMUL that has not issued waits for a TBL_LOAD to its table slot that was dispatched before it (R79). -/
def State.mmulWaits (s : State) (st : Nat) (seq : Word) : Bool :=
  (s.dspOf st).running.any fun w => w.seq == seq && !w.issued && (match tableUse w with
    | none => false
    | some t => ((s.dspOf st).ahead seq).any fun x => s.tblSlot st x == some (0, t))

/-- MMUL (R105 to R107). -/
def execMmul (st : Stall) (seq : Word) (s : State) : Host.Outcome State Fault Refusal :=
  if s.mmulWaits st seq then .next s
  else done s (s.engine st seq opMmul (checkMmul st) mmulSrcs (mmulBody st) (mmulScales st))

/-! ### WEIGHT_PRELOAD (R112) -/

/-- A matrix instruction that has not yet loaded its tiles, or an attention command, stands in the way of a preload: the first still uses
the weight path, the second holds both arrays and is not of the instructions ahead. -/
def preloadBlocked (x : WinCmd) : Bool := !x.ok && (x.op == opMmul || x.op == opAttn)

/-- Nothing but the weight path holds an MMUL of the window back: every latch it names is released, no LATCH_ARM before it is to clear one
(R352), and no TBL_LOAD to its table slot is unfinished (R79). -/
def State.preloadFree (s : State) (st : Nat) (w : WinCmd) : Bool :=
  let d := s.dspOf st
  s.waitsMet st w && !s.armRuns st w && !(d.window.takeWhile fun x => x.seq != w.seq).any (fun x => armHolds x w)
    && (match tableUse w with | none => true | some t => !d.running.any fun x => !x.ok && s.tblSlot st x == some (0, t))

/-- An operand of no ring slots: its instruction is a zero count and loads no tile (R238). -/
def Desc.noSlots (d : Desc) : Bool := d.kind == 3 && d.slots == 0

/-- The weight path takes the first tile of the next matrix instruction in stream order into the free tile register of each array it
names, once its latches are released, its banks will be free and the weight path has loaded every tile of the current instruction. A
weight operand that comes from a ring takes and reads its slots for it, in its turn. While the next instruction is one that its checks
would reject, or that loads no tile, nothing is taken (notes/assumptions/72.md, DEDUCED). -/
def execWeightPreload (st : Stall) (s : State) : Host.Outcome State Fault Refusal :=
  let d := s.dspOf st
  match d.window.find? (fun w => w.op == opMmul) with
  | none => .next s
  | some w =>
    let c := parseMmul w.record
    let fits := match checkMmul st s w with | .run => true | _ => false
    if s.preloadFree st w && d.preload == 0 && !d.running.any preloadBlocked && fits && c.v != 0 && !c.a.noSlots && !c.w.noSlots then
      let x := s.ringFeed st w c.w (s.ringTurn st w c.w.chan)
      let e := x.1.dspOf st
      let t := x.1.putDsp st { e with window := e.window.map fun y => if y.seq = w.seq then x.2.1 else y }
      if !x.2.2 then done s t
      else
        let blocks := t.weightBlocks st x.2.1 c
        let wm := t.img st x.2.1 c.w (t.weightSpan st c)
        let t := c.arrays.foldl (fun u y => u.putWregs st y.1 ((u.wregsOf st y.1).fill (c.tile blocks wm 0 y.2))) t
        done s (t.putDsp st { t.dspOf st with preload := w.seq.toNat + 1 })
    else .next s

/-! ### ACC_ZERO (R108) -/

structure AccRect where
  bank : Nat
  row0 : Nat
  m : Nat
  col0 : Nat
  n : Nat

def parseRect (rec : List Byte) : AccRect :=
  let f := recField rec accZeroLayout
  ⟨f 0, f 1, f 2, f 3, f 4⟩

def AccRect.ok (c : AccRect) : Bool := shapeOk 0 c.row0 c.m c.col0 c.n && decide (c.bank ≤ 1)

def checkAccZero (st : Nat) (s : State) (w : WinCmd) : Verdict :=
  let c := parseRect w.record
  if !recOk w.record accZeroLayout || !c.ok then .rejected (s.setFlag Reg.MXE_STATUS_SHAPE_BAD st)
  else if c.m = 0 || c.n = 0 then .zero
  else .run

def accZeroBody (st : Nat) (s : State) (w : WinCmd) : State :=
  let c := parseRect w.record
  let t := (List.range c.m).foldl (fun u r =>
    let u := (List.range c.n).foldl (fun u n => u.putAcc st c.bank (c.row0 + r) (c.col0 + n) 0) u
    if c.n = 128 then u.setAccPoison st c.bank (c.row0 + r) false else u) s
  (t.count Reg.MXE_ISSUE_CNT_COUNT 1 st).finish st w

def execAccZero (st : Stall) (seq : Word) (s : State) : Host.Outcome State Fault Refusal :=
  done s (s.engine st seq opAccZero (checkAccZero st) (fun _ => []) (accZeroBody st))

/-! ### ACC_STORE (R109) -/

def checkAccStore (st : Nat) (s : State) (w : WinCmd) : Verdict :=
  let c := parseRect w.record
  let d := recDesc w.record accStoreLayout 5
  if !recOk w.record accStoreLayout || !c.ok || !d.present || (d.kind != 0 && d.kind != 3) || d.comp || d.scaleEn then
    .rejected (s.setFlag Reg.MXE_STATUS_SHAPE_BAD st)
  else if !d.fmtGood then .rejected (s.setFlag Reg.NUM_STATUS_FMT_BAD st)
  else if !d.aligned then .rejected (s.alignFault st 2)
  else if !d.inStb (spanBytes d.fmt d.stride c.m c.n) then .rejected (s.setFlag Reg.MXE_STATUS_OPND_RANGE st)
  else if c.m = 0 || c.n = 0 then .zero
  else .run

/-- Six-bit rows are stored in whole groups, the unused codes of the last one zero (R36). -/
def padCodes (fmt : Nat) (l : List (Option Nat)) : List (Option Nat) :=
  if fmtBits fmt = 6 then l ++ List.replicate ((4 - l.length % 4) % 4) (some 0) else l

def accStoreBody (st : Nat) (s : State) (w : WinCmd) : State :=
  let c := parseRect w.record
  let d := recDesc w.record accStoreLayout 5
  let rows := (List.range c.m).map fun r =>
    (List.range c.n).map fun n => narrow false d.fmt d.zpOpt (f32Dec (s.accAt st c.bank (c.row0 + r) (c.col0 + n)))
  let outs : Outs := (List.range c.m).map fun r =>
    (r * d.stride, rowCells (rowBytes d.fmt c.n) (fmtBits d.fmt) (padCodes d.fmt ((rows.getD r []).map fun x => some x.code)),
      s.accPoison st c.bank (c.row0 + r))
  ((s.countNarrow st rows.flatten).count Reg.MXE_ISSUE_CNT_COUNT 1 st).deliver st w d outs

def execAccStore (st : Stall) (seq : Word) (s : State) : Host.Outcome State Fault Refusal :=
  done s (s.engine st seq opAccStore (checkAccStore st) (fun _ => []) (accStoreBody st))

end Sys2Proof.Machine
end

