-- ==== Sys2Proof/Machine/Vxe.lean ====
section
/-! DEFINITION. The vector engine and the reduction unit: VCHAIN and COMBINE (05_vector_and_reduction.md R116 to R145). -/
namespace Sys2Proof.Machine

/-! ### Tile registers (R116) -/

def tregKey (st v row lane : Nat) : Nat := ((st * 32 + v) * 8 + row) * 64 + lane
def State.tregAt (s : State) (st v row lane : Nat) : Word := SMap.get s.treg 0 (tregKey st v row lane)
def State.putTreg (s : State) (st v row lane : Nat) (x : Word) : State :=
  { s with treg := SMap.set s.treg 0 (tregKey st v row lane) x }
def tregTagKey (st v row : Nat) : Nat := (st * 32 + v) * 8 + row
def State.tregTag (s : State) (st v row : Nat) : Bool := SMap.get s.tregPoison false (tregTagKey st v row)
def State.putTregTag (s : State) (st v row : Nat) (p : Bool) : State :=
  { s with tregPoison := SMap.set s.tregPoison false (tregTagKey st v row) p }

/-! ### Fields -/

structure Stage where
  op : Nat
  bsrc : Nat
  b : Desc
  csrc : Nat
  c : Desc
  immB : Word
  immC : Word

structure Reduction where
  axis : Nat
  op : Nat
  seg : Nat
  partsCode : Nat
  part : Nat
  kTotal : Nat
  idxBase : Nat
  rval : Desc
  ridx : Desc

structure Vchain where
  src : Desc
  rows : Nat
  cols : Nat
  stages : List Stage
  storeAt : Nat
  store : Desc
  redAt : Nat
  red : Reduction
  mask : Desc
  maskMode : Nat
  summ : Nat

def parseVchain (rec : List Byte) : Vchain :=
  let n := vchainStages rec
  let l := vchainLayout n
  let f := recField rec l
  let d := recDesc rec l
  let t := 4 + 7 * n
  { src := d 0, rows := f 1, cols := f 2,
    stages := (List.range n).map fun i =>
      let k := 4 + 7 * i
      ⟨f k, f (k + 1), d (k + 2), f (k + 3), d (k + 4), BitVec.ofNat 32 (f (k + 5)), BitVec.ofNat 32 (f (k + 6))⟩,
    storeAt := f t, store := d (t + 1), redAt := f (t + 2),
    red := ⟨f (t + 3), f (t + 4), f (t + 5), f (t + 6), f (t + 7), f (t + 8), f (t + 9), d (t + 10), d (t + 11)⟩,
    mask := d (t + 12), maskMode := f (t + 13), summ := f (t + 14) }

/-! ### Stage operations (R122 to R125) -/

def opNeedsB (op : Nat) : Bool := [0x01, 0x02, 0x03, 0x04, 0x06, 0x07, 0x08, 0x0B, 0x0C, 0x0D, 0x0E].contains op
def opNeedsC (op : Nat) : Bool := [0x06, 0x0D, 0x0E].contains op
def opStageOk (op : Nat) : Bool := decide (op ≤ 0x19)

/-- The OP table of R122; the mark tells an RNDX saturation. -/
def stageValue (op : Nat) (a b c : Word) : Word × Bool :=
  match op with
  | 0x01 => (f32Add a b, false)
  | 0x02 => (f32Sub a b, false)
  | 0x03 => (f32Sub b a, false)
  | 0x04 => (f32Mul a b, false)
  | 0x05 => (f32Mul a a, false)
  | 0x06 => (f32Fma a b c, false)
  | 0x07 => (f32Max a b, false)
  | 0x08 => (f32Min a b, false)
  | 0x09 => (f32AbsW a, false)
  | 0x0A => (f32NegW a, false)
  | 0x0B => (if f32Lt b a then f32One else f32Zero, false)
  | 0x0C => (if f32Eq a b then f32One else f32Zero, false)
  | 0x0D => (f32Canon (if !f32IsNan a && !f32Eq a f32Zero then b else c), false)
  | 0x0E => (f32Min (f32Max a b) c, false)
  | 0x0F => f32Rndx a
  | 0x10 => (f32Rcp a, false)
  | 0x11 => (f32Rsqrt a, false)
  | 0x12 => (f32Sqrt a, false)
  | 0x13 => (f32Exp2 a, false)
  | 0x14 => (f32Log2 a, false)
  | 0x15 => (f32Exp a, false)
  | 0x16 => (f32Sigmoid a, false)
  | 0x17 => (f32Silu a, false)
  | 0x18 => (f32Tanh a, false)
  | 0x19 => (f32GeluT a, false)
  | _ => (f32Canon a, false)

/-- The value after a stage with the conditions of R117: an infinity from finite operands, a NaN from operands that hold none. -/
structure StageOut where
  v : Word
  inf : Bool
  nan : Bool
  sat : Bool
deriving DecidableEq, Repr

def stageRun (op : Nat) (a b c : Word) : StageOut :=
  let r := stageValue op a b c
  let ops := [a] ++ (if opNeedsB op then [b] else []) ++ (if opNeedsC op then [c] else [])
  ⟨r.1, f32IsInf r.1 && ops.all f32IsFin, f32IsNan r.1 && !(ops.any f32IsNan), r.2⟩

/-- The values at taps 0 to NSTAGE of one element, oldest first; `opnds` gives B and C of each stage. -/
def chainRun : List (Nat × Word × Word) → Word → List StageOut
  | [], a => [⟨a, false, false, false⟩]
  | (op, b, c) :: r, a =>
    let x := stageRun op a b c
    ⟨a, false, false, false⟩ ::
      (match chainRun r x.v with
       | [] => []
       | y :: ys => { y with inf := y.inf || x.inf, nan := y.nan || x.nan, sat := y.sat || x.sat } :: ys)

/-! ### Sources and operands (R118, R119) -/

/-- Accumulator rectangle of a KIND 1 descriptor. -/
def Desc.accBank (d : Desc) : Nat := bits d.loc 0 0
def Desc.accRow (d : Desc) : Nat := bits d.loc 7 1
def Desc.accCol (d : Desc) : Nat := bits d.loc 14 8
/-- First register and count of a KIND 2 descriptor. -/
def Desc.tregFirst (d : Desc) : Nat := bits d.loc 4 0
def Desc.tregCount (d : Desc) : Nat := bits d.loc 10 5

def tileCount (rows cols : Nat) : Nat := ((rows + 7) / 8) * ((cols + 63) / 64)
/-- The tile of element (r, c), tiles in row-major order (R126). -/
def tileOf (cols r c : Nat) : Nat := r / 8 * ((cols + 63) / 64) + c / 64

/-- A matrix-shaped operand is in its register file or the STB (R118, R120). -/
def Desc.shapeFits (d : Desc) (rows cols : Nat) : Bool :=
  if d.kind = 1 then decide (d.accRow + rows ≤ 128) && decide (d.accCol + cols ≤ 128)
  else if d.kind = 2 then decide (d.tregFirst + d.tregCount ≤ 32) && decide (tileCount rows cols ≤ d.tregCount)
  else d.inStb (spanBytes d.fmt d.stride rows cols)

/-- The element of a matrix-shaped operand, widened (R118); `img` is its image where it lies in the STB. -/
def State.elem (s : State) (st : Nat) (d : Desc) (img : Img) (cols r c : Nat) : Word :=
  if d.kind = 1 then s.accAt st d.accBank (d.accRow + r) (d.accCol + c)
  else if d.kind = 2 then s.tregAt st (d.tregFirst + tileOf cols r c) (r % 8) (c % 64)
  else widen32 d.fmt d.zpOpt (packedCode ((img.data.drop (r * d.stride)).take (rowBytes d.fmt cols)) (fmtBits d.fmt) c)

/-- Whether tile row (r, tile column t) of an operand is poisoned (R140). -/
def State.elemPoison (s : State) (st : Nat) (d : Desc) (img : Img) (cols r t : Nat) : Bool :=
  if d.kind = 1 then s.accPoison st d.accBank (d.accRow + r)
  else if d.kind = 2 then s.tregTag st (d.tregFirst + tileOf cols r (64 * t)) (r % 8)
  else
    let w := fmtBits d.fmt
    img.bad (r * d.stride + 64 * t * w / 8) ((w * min 64 (cols - 64 * t) + 7) / 8)

/-- Element `i` of a vector operand. -/
def vecElem (d : Desc) (img : Img) (i : Nat) : Word := widen32 d.fmt d.zpOpt (packedCode img.data (fmtBits d.fmt) i)

/-! ### Checks (R119, R120, R132, R134) -/

/-- The operand code and its descriptor agree (R119). -/
def kindAgrees (code : Nat) (d : Desc) : Bool :=
  match code with
  | 0 => !d.present
  | 1 => !d.present
  | 2 => d.present && d.kind == 0
  | 3 => d.present && d.kind == 0
  | 4 => d.present && (d.kind == 0 || d.kind == 3)
  | 5 => d.present && d.kind == 1
  | _ => d.present && d.kind == 2

def Stage.operands (g : Stage) : List (Nat × Desc) := [(g.bsrc, g.b), (g.csrc, g.c)]

/-- Rows of the tensor or vector that an operand names, and the bytes of one (R119). -/
def operandRows (rows cols code : Nat) (d : Desc) : Nat × Nat :=
  match code with
  | 2 => (1, rowBytes d.fmt cols)
  | 3 => (1, rowBytes d.fmt rows)
  | _ => (rows, rowBytes d.fmt cols)

/-- The store of an STB tensor shares a byte with an operand in the STB (R120). -/
def storeMeets (rows cols : Nat) (store : Desc) (code : Nat) (d : Desc) : Bool :=
  let x := operandRows rows cols code d
  store.kind == 0 && d.kind == 0 && cols != 0 &&
    rowsMeet store.loc store.stride rows (rowBytes store.fmt cols) d.loc d.stride x.1 x.2

/-- The length a vector or matrix operand spans in the STB. -/
def operandSpan (rows cols code : Nat) (d : Desc) : Nat :=
  match code with
  | 2 => rowBytes d.fmt cols
  | 3 => rowBytes d.fmt rows
  | _ => spanBytes d.fmt d.stride rows cols

def sameDesc (a b : Desc) : Bool :=
  decide ({ a with place := 0 } = { b with place := 0 })

def Vchain.hasRed (c : Vchain) : Bool := c.red.rval.present
def Reduction.parts (r : Reduction) : Nat := 2 ^ r.partsCode
/-- The reduced length and the number of results (R132). -/
def Vchain.redLen (c : Vchain) : Nat := if c.red.axis = 0 then c.cols else c.rows
def Vchain.redCount (c : Vchain) : Nat := if c.red.axis = 0 then c.rows else c.cols
def Vchain.redWrites (c : Vchain) : Bool := c.hasRed && (c.red.op != 0 || c.red.seg == 0 || c.red.seg == 3)

/-- The sub-fields of RED that R132 demands. -/
def Vchain.redFieldsOk (c : Vchain) : Bool :=
  let r := c.red
  if !r.rval.present then
    c.redAt == 0 && r.axis == 0 && r.op == 0 && r.seg == 0 && r.partsCode == 0 && r.part == 0 && r.kTotal == 0 && r.idxBase == 0
      && !r.ridx.present
  else if r.op = 0 then
    r.rval.kind == 0 && r.idxBase == 0 && !r.ridx.present && decide (r.part < r.parts)
  else
    r.rval.kind == 0 && r.seg == 0 && r.partsCode == 0 && r.part == 0 && r.kTotal == 0
      && (if r.op ≥ 3 then r.ridx.present && r.ridx.kind == 0 else r.idxBase == 0 && !r.ridx.present)

/-- The segment rules of R134 against the stall's segment file. -/
def Vchain.segOk (c : Vchain) (f : Option SegState) : Bool :=
  if !c.hasRed || c.red.op != 0 then true
  else
    let v := partLen c.red.kTotal c.red.parts c.red.part
    match f with
    | none =>
      if c.red.seg = 0 then true
      else c.red.seg == 1 && c.redLen % 32 == 0 && decide (c.redLen ≤ v) && decide (c.redCount ≤ 256)
    | some g =>
      (c.red.seg == 2 || c.red.seg == 3) && g.axis == c.red.axis && g.kTotal == c.red.kTotal && g.parts == c.red.parts
        && g.part == c.red.part && g.elems.length == c.redCount
        && (if c.red.seg = 2 then c.redLen % 32 == 0 && decide (g.pos + c.redLen ≤ v) else g.pos + c.redLen == v)

/-- The descriptors of operands that are present. -/
def Vchain.allOperands (c : Vchain) : List (Nat × Desc) := (c.stages.flatMap Stage.operands).filter fun x => decide (x.1 ≥ 2)

/-- The checks of R120, in its order; then R35; then R230. The model's choices (notes/assumptions/75.md): an NSTAGE above 8 sets OP_BAD; COMP is
rejected in the source, an operand and the store, SCALE_EN in the source, and neither is looked at elsewhere; a SUMM of 8 to 14 sets DESC_BAD; RVAL may name any listed FMT, and its results are
FP32 all the same. -/
def checkVchain (st : Nat) (s : State) (w : WinCmd) : Verdict :=
  let c := parseVchain w.record
  let n := c.stages.length
  let opnds := c.allOperands
  let seg := SMap.get s.seg none st
  if n > 8 || c.stages.any (fun g => !opStageOk g.op) || (c.hasRed && decide (c.red.op > 4)) then
    .rejected (s.setFlag Reg.VXE_STATUS_OP_BAD st)
  else if c.stages.any (fun g => decide (g.bsrc > 6) || decide (g.csrc > 3) || (g.bsrc != 0) != opNeedsB g.op || (g.csrc != 0) != opNeedsC g.op)
      || decide ((opnds.filter fun x => decide (x.1 ≥ 4)).length > 2) || decide ((opnds.filter fun x => decide (x.1 ≤ 3)).length > 2) then
    .rejected (s.setFlag Reg.VXE_STATUS_OP_BAD st)
  else if !recOk w.record (vchainLayout n) || decide (c.storeAt > n) || decide (c.redAt > n)
      || !c.src.present || c.src.comp || c.src.scaleEn || !c.src.shapeFits c.rows c.cols
      || c.stages.any (fun g => g.operands.any fun x => !kindAgrees x.1 x.2 || x.2.comp && decide (x.1 ≥ 2))
      || opnds.any (fun x => if x.1 ≥ 4 then !x.2.shapeFits c.rows c.cols else !x.2.inStb (operandSpan c.rows c.cols x.1 x.2))
      || (c.store.present && (c.store.kind == 1 || c.store.comp || !c.store.shapeFits c.rows c.cols
            || (c.store.fmt == 1 && c.store.kind != 2 && c.cols % 4 != 0)))
      || (c.mask.present && (c.mask.kind != 0 || !c.mask.inStb (if c.rows = 0 then 0 else (c.rows - 1) * c.mask.stride + (c.cols + 7) / 8)
            || decide (c.mask.stride < (c.cols + 7) / 8)))
      || !c.redFieldsOk || (c.summ != 15 && decide (c.summ ≥ 8))
      || (c.hasRed && (!c.red.rval.inStb (4 * c.redCount) || (c.red.ridx.present && !c.red.ridx.inStb (4 * c.redCount))))
      || (c.hasRed && c.red.op == 0 && c.red.seg == 0 && c.redLen != partLen c.red.kTotal c.red.parts c.red.part)
      || (c.store.present && !sameDesc c.store c.src &&
            (storeMeets c.rows c.cols c.store 4 c.src || opnds.any fun x => storeMeets c.rows c.cols c.store x.1 x.2)) then
    .rejected (s.setFlag Reg.VXE_STATUS_DESC_BAD st)
  else if !c.segOk seg then .rejected (s.setFlag Reg.VXE_STATUS_SEG_BAD st)
  else if w.descs.any (fun d => d.present && !d.fmtGood) then .rejected (s.setFlag Reg.NUM_STATUS_FMT_BAD st)
  else if (c.src.kind % 3 == 0 && !c.src.aligned) || opnds.any (fun x => if x.1 ≥ 4 then x.2.kind % 3 == 0 && !x.2.aligned else x.2.loc % 64 != 0)
      || (c.store.present && c.store.kind % 3 == 0 && !c.store.aligned) || (c.mask.present && !c.mask.aligned)
      || (c.hasRed && c.red.rval.loc % 64 != 0) || (c.red.ridx.present && c.red.ridx.loc % 64 != 0) then
    .rejected (s.alignFault st 3)
  else .run

/-! ### The run -/

/-- What one element carries through the chain. -/
structure Elem where
  taps : List StageOut
  active : Bool
deriving DecidableEq, Repr

def Elem.at (e : Elem) (t : Nat) : Word := (e.taps.getD t ⟨0, false, false, false⟩).v
/-- The conditions of all stages up to the last. -/
def Elem.flags (e : Elem) : Bool × Bool := (e.taps.any (·.inf), e.taps.any (·.nan))
/-- The RNDX stages that saturate the element, each of which counts (R122). -/
def Elem.rndSats (e : Elem) : Nat := (e.taps.filter (·.sat)).length

/-- The mask bit of element (r, c); 1 where there is no mask (R127). -/
def maskBit (present : Bool) (stride : Nat) (img : Img) (r c : Nat) : Bool :=
  !present || bit (byteAt img.data (r * stride + c / 8)) (c % 8)

/-- Operand value of a stage at (r, c). -/
def State.opndValue (s : State) (st : Nat) (w : WinCmd) (v : Vchain) (code : Nat) (d : Desc) (imm : Word) (r c : Nat) : Word :=
  match code with
  | 0 => 0
  | 1 => imm
  | 2 => vecElem d (s.img st w d (operandSpan v.rows v.cols code d)) c
  | 3 => vecElem d (s.img st w d (operandSpan v.rows v.cols code d)) r
  | _ => s.elem st d (s.img st w d (operandSpan v.rows v.cols code d)) v.cols r c

def State.chainElem (s : State) (st : Nat) (w : WinCmd) (v : Vchain) (r c : Nat) : Elem :=
  let a := s.elem st v.src (s.img st w v.src (spanBytes v.src.fmt v.src.stride v.rows v.cols)) v.cols r c
  let ops := v.stages.map fun g => (g.op, s.opndValue st w v g.bsrc g.b g.immB r c, s.opndValue st w v g.csrc g.c g.immC r c)
  ⟨chainRun ops a, maskBit v.mask.present v.mask.stride (s.img st w v.mask ((v.rows - 1) * v.mask.stride + (v.cols + 7) / 8)) r c⟩

/-- Tile row (r, t) is poisoned: its source, an operand row, or any line of a vector operand (R140). A poisoned line of the mask poisons no row
and sets no POISON_SEEN (DESIGN CHOICE, notes/assumptions/75.md). -/
def State.tileRowPoison (s : State) (st : Nat) (w : WinCmd) (v : Vchain) (r t : Nat) : Bool :=
  s.elemPoison st v.src (s.img st w v.src (spanBytes v.src.fmt v.src.stride v.rows v.cols)) v.cols r t ||
  v.allOperands.any fun x =>
    let n := operandSpan v.rows v.cols x.1 x.2
    if x.1 ≥ 4 then s.elemPoison st x.2 (s.img st w x.2 n) v.cols r t else (s.img st w x.2 n).bad 0 n

/-- The row of a destination in the STB: all of it unpoisoned, then the parts of poisoned tile rows once more (R139, R140). The
whole tensor row is one write to the POISON bits of its lines (DESIGN CHOICE, notes/assumptions/75.md). -/
def poisonedOuts (base w : Nat) (cells : Cells) (bad : List Bool) : Outs :=
  (base, cells, false) ::
    ((List.range bad.length).filter fun t => bad.getD t false).map fun t => (base + 8 * w * t, (cells.drop (8 * w * t)).take (8 * w), true)

/-- A tile register row stored (R116): lanes left unwritten keep their contents and the tag clears only when all 64 are written. -/
def State.storeTregRow (s : State) (st v row : Nat) (lanes : List (Option Word)) (poison : Bool) : State :=
  let t := (List.range lanes.length).foldl (fun u i =>
    match lanes.getD i none with | some x => u.putTreg st v row i x | none => u) s
  if !(lanes.any Option.isSome) then t
  else if poison then t.putTregTag st v row true
  else if lanes.length == 64 && lanes.all Option.isSome then t.putTregTag st v row false
  else t

/-- One result of a reduction. -/
structure RedOut where
  value : Word
  index : Nat
  empty : Bool
  poison : Bool
  inf : Bool := false
  nan : Bool := false
deriving DecidableEq, Repr

/-- MAX, MIN, MAXI and MINI over (value, active) elements (R135, R136). -/
def reduceMax (op base : Nat) (l : List (Word × Bool)) (poison : Bool) : RedOut :=
  let isMin := op == 2 || op == 4
  let best := (List.range l.length).foldl (fun b i =>
    let e := l.getD i (0, false)
    if e.2 then maxStep isMin b e.1 i else b) none
  match best with
  | some (v, i) => ⟨v, (i + base) % 2 ^ 32, false, poison, false, false⟩
  | none => ⟨if isMin then 0x7F800000#32 else 0xFF800000#32, 0xFFFFFFFF, true, poison, false, false⟩

/-- A canonical sum of the elements of a part (R133); a masked element is +0. -/
def reduceSum (kTotal parts part : Nat) (l : List Word) (active poison : Bool) : RedOut :=
  let start := partStart kTotal parts part
  let r := partDot (fun k => ⟨l.getD (k - start) 0, false, false⟩) kTotal parts part
  ⟨if active then r.v else 0, 0, !active, poison, r.inf, r.nan⟩

/-- Elements and poison of reduction result `i`. -/
def redElems (v : Vchain) (es : List (List Elem)) (i : Nat) : List (Word × Bool) :=
  if v.red.axis = 0 then (es.getD i []).map fun e => (e.at v.redAt, e.active)
  else es.map fun row => let e := row.getD i ⟨[], false⟩; (e.at v.redAt, e.active)
def redPoison (v : Vchain) (bad : List (List Bool)) (i : Nat) : Bool :=
  if v.red.axis = 0 then (bad.getD i []).any id else bad.any fun row => row.getD (i / 64) false

/-- A VCHAIN with what it writes into its summary slot at completion (R143); nothing where it names none. -/
def WinCmd.withSumm (w : WinCmd) (slot : Nat) (value : Word) (index : Nat) (nan inf poison empty sat : Bool) : WinCmd :=
  let b (x : Bool) (k : Nat) : Nat := if x then 2 ^ k else 0
  if slot < 8 then { w with summ := some (slot, value.toNat + index * 2 ^ 32, b nan 1 + b inf 2 + b poison 3 + b empty 4 + b sat 5) } else w

/-- The results and the next contents of the segment file (R134). The infinities and NaNs of the additions of a FIRST or MID segment are
judged when the LAST forms the sum: V_INF and V_NAN are set then (notes/assumptions/70.md, DESIGN CHOICE). -/
def Vchain.reduce (v : Vchain) (f : Option SegState) (es : List (List Elem)) (bad : List (List Bool)) : List RedOut × Option SegState :=
  if !v.hasRed then ([], f)
  else if v.red.op ≠ 0 then
    ((List.range v.redCount).map fun i => reduceMax v.red.op v.red.idxBase (redElems v es i) (redPoison v bad i), f)
  else
    let now := (List.range v.redCount).map fun i => (redElems v es i).map fun e => if e.2 then e.1 else 0
    let act := (List.range v.redCount).map fun i => (redElems v es i).any (·.2)
    let poi := (List.range v.redCount).map fun i => redPoison v bad i
    let g : SegState := match f with
      | some g => { g with pos := g.pos + v.redLen, elems := g.elems.zipWith (· ++ ·) now, active := g.active.zipWith (· || ·) act, poison := g.poison.zipWith (· || ·) poi }
      | none => ⟨v.red.axis, v.red.kTotal, v.red.parts, v.red.part, v.redLen, now, act, poi⟩
    if v.red.seg = 1 || v.red.seg = 2 then ([], some g)
    else
      ((List.range v.redCount).map fun i =>
        reduceSum v.red.kTotal v.red.parts v.red.part (g.elems.getD i []) (g.active.getD i false) (g.poison.getD i false), none)

/-- A vector of 32-bit words into the STB with the POISON marks of its elements. -/
def wordOuts (l : List (Word × Bool)) : Outs :=
  (0, fullCells (l.flatMap fun x => leBytes x.1.toNat 4), false) ::
    ((List.range l.length).filter fun i => (l.getD i (0, false)).2).map fun i =>
      (4 * i, fullCells (leBytes (l.getD i (0, false)).1.toNat 4), true)

def State.storeOuts (s : State) (st loc : Nat) (outs : Outs) : State :=
  outs.foldl (fun u o => u.stbStore st (loc + o.1) o.2.1 o.2.2) s

/-- The code a masked element is written with under ZERO (R127). -/
def zeroCode (d : Desc) : Nat := if fmtIsInt d.fmt then d.zpOpt.getD 0 else 0

/-- A VCHAIN whose ROWS, COLS or slot count is zero: it completes and writes its summary slot (R6, R121, R143). The slot of one whose slot count
is zero is written as for zero ROWS or COLS (DESIGN CHOICE, notes/assumptions/75.md). -/
def vchainZero (st : Nat) (s : State) (w : WinCmd) : State :=
  s.finish st (w.withSumm (parseVchain w.record).summ 0 0xFFFFFFFF false false false true false)

/-- The body of a VCHAIN that passed its checks. The results of its reduction are written before its store (DESIGN CHOICE,
notes/assumptions/75.md). -/
def vchainBody (st : Nat) (s : State) (w : WinCmd) : State :=
  let v := parseVchain w.record
  if v.rows = 0 || v.cols = 0 then
    vchainZero st s w
  else
    let tcols := (v.cols + 63) / 64
    let es := (List.range v.rows).map fun r => (List.range v.cols).map fun c => s.chainElem st w v r c
    let bad := (List.range v.rows).map fun r => (List.range tcols).map fun t => s.tileRowPoison st w v r t
    let live := es.flatten.filter (·.active)
    let t := s.setIf (live.any fun e => e.flags.1) Reg.VXE_STATUS_V_INF st
    let t := t.setIf (live.any fun e => e.flags.2) Reg.VXE_STATUS_V_NAN st
    let anyBad := bad.any fun l => l.any id
    let t := t.setIf anyBad Reg.VXE_STATUS_POISON_SEEN st
    let rndSat := (live.map Elem.rndSats).sum
    let narrowed := if v.store.present && v.store.kind != 2 then
      live.map fun e => narrow false v.store.fmt v.store.zpOpt (f32Dec (e.at v.storeAt)) else []
    let t := (t.countSat st rndSat).countNarrow st narrowed
    -- the reduction
    let red := v.reduce (SMap.get s.seg none st) es bad
    let t := { t with seg := SMap.set t.seg none st red.2 }
    let t := t.setIf (red.1.any (·.empty)) Reg.VXE_STATUS_RED_EMPTY st
    let t := (t.setIf (red.1.any (·.inf)) Reg.VXE_STATUS_V_INF st).setIf (red.1.any (·.nan)) Reg.VXE_STATUS_V_NAN st
    let t := if v.redWrites then t.storeOuts st v.red.rval.loc (wordOuts (red.1.map fun x => (x.value, x.poison))) else t
    let t := if v.redWrites && v.red.ridx.present then
      t.storeOuts st v.red.ridx.loc (wordOuts (red.1.map fun x => (BitVec.ofNat 32 x.index, x.poison))) else t
    let t := t.count Reg.VXE_ROW_CNT_COUNT (8 * tileCount v.rows v.cols) st
    -- the summary slot
    let seen := live.flatMap fun e => (if v.store.present then [e.at v.storeAt] else []) ++ (if v.hasRed then [e.at v.redAt] else [])
    let first := red.1.head?
    let w := w.withSumm v.summ ((first.map (·.value)).getD 0) (if v.red.op ≥ 3 then (first.map (·.index)).getD 0 else 0)
      (seen.any f32IsNan) (seen.any f32IsInf) anyBad ((first.map (·.empty)).getD false) (decide (rndSat > 0) || narrowed.any (·.sat))
    -- the store
    if !v.store.present then t.finish st w
    else if v.store.kind = 2 then
      ((List.range v.rows).foldl (fun u r => (List.range tcols).foldl (fun u k =>
        let lanes := ((es.getD r []).drop (64 * k)).take 64 |>.map fun e =>
          if e.active then some (e.at v.storeAt) else if v.maskMode = 1 then some 0 else none
        u.storeTregRow st (v.store.tregFirst + tileOf v.cols r (64 * k)) (r % 8) lanes ((bad.getD r []).getD k false)) u) t).finish st w
    else
      let outs : Outs := (List.range v.rows).flatMap fun r =>
        let codes := (es.getD r []).map fun e =>
          if e.active then some (narrow false v.store.fmt v.store.zpOpt (f32Dec (e.at v.storeAt))).code
          else if v.maskMode = 1 then some (zeroCode v.store) else none
        poisonedOuts (r * v.store.stride) (fmtBits v.store.fmt)
          (rowCells (rowBytes v.store.fmt v.cols) (fmtBits v.store.fmt) codes) (bad.getD r [])
      t.deliver st w v.store outs

/-- VCHAIN (R117 to R136, R139 to R144). -/
def execVchain (st : Stall) (seq : Word) (s : State) : Host.Outcome State Fault Refusal :=
  done s (s.engine st seq opVchain (checkVchain st)
    (fun w => let v := parseVchain w.record
      if v.rows = 0 || v.cols = 0 then [] else v.src :: (v.allOperands.map (·.2)))
    (vchainBody st) (zero := vchainZero st))

/-! ### COMBINE (R59, R137, R138) -/

structure CombineSrc where
  part : Nat
  val : Desc
  idx : Desc

structure Combine where
  parts : Nat
  op : Nat
  n : Nat
  dst : Desc
  dstIdx : Desc
  srcs : List CombineSrc

def parseCombine (rec : List Byte) : Combine :=
  let k := byteAt rec 16
  let l := combineLayout k
  let f := recField rec l
  let d := recDesc rec l
  ⟨f 0, f 1, f 2, d 3, d 4, (List.range k).map fun i => ⟨f (5 + 3 * i), d (6 + 3 * i), d (7 + 3 * i)⟩⟩

def checkCombine (st : Nat) (s : State) (w : WinCmd) : Verdict :=
  let c := parseCombine w.record
  let useIdx := c.op != 0
  let vals := c.dst :: c.srcs.map (·.val)
  let idxs := c.dstIdx :: c.srcs.map (·.idx)
  let len := 4 * c.n
  let ins := (c.srcs.map (·.val)) ++ (if useIdx then c.srcs.map (·.idx) else [])
  let outs := c.dst :: (if useIdx then [c.dstIdx] else [])
  if c.op ≠ 0 && c.op ≠ 3 && c.op ≠ 4 then .rejected (s.setFlag Reg.VXE_STATUS_OP_BAD st)
  else if !recOk w.record (combineLayout c.parts) || !([2, 4, 8].contains c.parts) || decide (c.n > 65536)
      || vals.any (fun d => !d.present || d.kind != 0 || d.fmt != 8 || d.comp || d.scaleEn || !d.inStb len)
      || !(List.range c.parts).all (fun p => (c.srcs.filter fun x => x.part == p).length == 1)
      || idxs.any (fun d => d.present != useIdx || (useIdx && (d.kind != 0 || !d.inStb len)))
      || outs.any (fun o => ins.any fun i => spansMeet o.loc len i.loc len) then
    .rejected (s.setFlag Reg.VXE_STATUS_DESC_BAD st)
  else if vals.any (·.zpEn) then .rejected (s.setFlag Reg.NUM_STATUS_FMT_BAD st)
  else if vals.any (fun d => d.loc % 64 != 0) || (useIdx && idxs.any fun d => d.loc % 64 != 0) then .rejected (s.alignFault st 3)
  else if c.n = 0 then .zero
  else .run

/-- The source tagged with part `p`. -/
def Combine.srcOf (c : Combine) (p : Nat) : Option CombineSrc := c.srcs.find? fun x => x.part == p

/-- Result element `i` of a COMBINE: a tree over the parts in order (R59), or the winner with its index (R63). -/
def State.combineAt (s : State) (st : Nat) (c : Combine) (i : Nat) : RedOut :=
  let vals := (List.range c.parts).map fun p => match c.srcOf p with | some x => BitVec.ofNat 32 (leAt (s.stbRead st (x.val.loc + 4 * i) 4) 0 4) | none => 0
  let idxs := (List.range c.parts).map fun p => match c.srcOf p with | some x => leAt (s.stbRead st (x.idx.loc + 4 * i) 4) 0 4 | none => 0
  let bad := c.srcs.any fun x => s.linePoison st ((x.val.loc + 4 * i) / 64) || (c.op != 0 && s.linePoison st ((x.idx.loc + 4 * i) / 64))
  if c.op = 0 then
    let r := treeAdd (Nat.log2 c.parts) (vals.map fun v => ⟨v, false, false⟩)
    ⟨r.v, 0, false, bad, r.inf, r.nan⟩
  else
    match (List.range c.parts).foldl (fun b p => maxStep (c.op == 4) b (vals.getD p 0) (idxs.getD p 0)) none with
    | some (v, k) => ⟨v, k, false, bad, false, false⟩
    | none => ⟨0, 0, true, bad, false, false⟩

def combineBody (st : Nat) (s : State) (w : WinCmd) : State :=
  let c := parseCombine w.record
  let l := (List.range c.n).map fun i => s.combineAt st c i
  let lineBad (i : Nat) : Bool := (l.getD i ⟨0, 0, false, false, false, false⟩).poison
  let t := (s.setIf (l.any (·.inf)) Reg.VXE_STATUS_V_INF st).setIf (l.any (·.nan)) Reg.VXE_STATUS_V_NAN st
  let t := t.setIf (l.any (·.poison)) Reg.VXE_STATUS_POISON_SEEN st
  let t := t.storeOuts st c.dst.loc (wordOuts ((List.range c.n).map fun i => ((l.getD i ⟨0, 0, false, false, false, false⟩).value, lineBad i)))
  let t := if c.op ≠ 0 then
    t.storeOuts st c.dstIdx.loc (wordOuts ((List.range c.n).map fun i => (BitVec.ofNat 32 (l.getD i ⟨0, 0, false, false, false, false⟩).index, lineBad i)))
    else t
  t.finish st w

def execCombine (st : Stall) (seq : Word) (s : State) : Host.Outcome State Fault Refusal :=
  done s (s.engine st seq opCombine (checkCombine st) (fun _ => []) (combineBody st))

end Sys2Proof.Machine
end

