-- ==== Sys2Proof/Machine/Cvu.lean ====
section
/-! DEFINITION. The conversion unit and the histogram unit: CVT, HIST and HGU_CLEAR (02_numerics.md R64 to R69). -/
namespace Sys2Proof.Machine

/-! ### CVT (R64, R65) -/

structure Cvt where
  srcFmt : Nat
  dstFmt : Nat
  zpEn : Bool
  zp : Nat
  factorEn : Bool
  factor : Word
  rows : Nat
  cols : Nat
  src : Desc
  dst : Desc

/-- The command's own formats and zero point stand in its descriptors' places. -/
def parseCvt (rec : List Byte) : Cvt :=
  let f := recField rec cvtLayout
  let zpEn := f 2 == 1
  let use (d : Desc) (fmt : Nat) : Desc := { d with fmt := fmt, zpEn := zpEn && fmtIsInt fmt, zp := f 3 }
  ⟨f 0, f 1, zpEn, f 3, f 4 == 1, BitVec.ofNat 32 (f 5), f 6, f 7,
    use (recDesc rec cvtLayout 8) (f 0), use (recDesc rec cvtLayout 9) (f 1)⟩

/-- The raw descriptors of the record are the same (R65). -/
def cvtInPlace (rec : List Byte) : Bool := sameDesc (recDesc rec cvtLayout 8) (recDesc rec cvtLayout 9)

def checkCvt (st : Nat) (s : State) (w : WinCmd) : Verdict :=
  let c := parseCvt w.record
  let sSpan := spanBytes c.srcFmt c.src.stride c.rows c.cols
  let dSpan := spanBytes c.dstFmt c.dst.stride c.rows c.cols
  if !fmtOk c.srcFmt || !fmtOk c.dstFmt || (c.zpEn && !fmtIsInt c.srcFmt && !fmtIsInt c.dstFmt) || !c.src.fmtGood || !c.dst.fmtGood
      || w.descs.any (fun d => d.present && !d.fmtGood) then
    .rejected (s.setFlag Reg.NUM_STATUS_FMT_BAD st)
  else if !recOk w.record cvtLayout || !c.src.present || !c.dst.present || (c.src.kind != 0 && c.src.kind != 3)
      || (c.dst.kind != 0 && c.dst.kind != 3) || c.src.comp || c.dst.comp || c.src.scaleEn || c.dst.scaleEn then .rejected s
  else if !c.src.aligned || !c.dst.aligned then .rejected (s.alignFault st 4)
  else if !c.src.inStb sSpan || !c.dst.inStb dSpan then .rejected s
  else if c.src.kind == 0 && c.dst.kind == 0 && !cvtInPlace w.record && c.cols != 0 && rowsMeet c.src.loc c.src.stride c.rows
      (rowBytes c.srcFmt c.cols) c.dst.loc c.dst.stride c.rows (rowBytes c.dstFmt c.cols) then .rejected s
  else if c.rows = 0 || c.cols = 0 then .zero
  else .run

/-- One element: widened exactly, times FACTOR in FP32 where enabled, narrowed (R64). -/
def cvtElem (c : Cvt) (code : Nat) : Narrowed :=
  let x := widen c.srcFmt c.src.zpOpt code
  narrow false c.dstFmt c.dst.zpOpt (if c.factorEn then f32Dec (f32Mul (f32Enc x) c.factor) else x)

/-- An identical in-place conversion between formats of one width: row after row, each element read where it is then written, so that a
row sees what the rows before it have written (R65). -/
def cvtInOrder (st : Nat) (s : State) (w : WinCmd) (c : Cvt) : State :=
  let n := rowBytes c.srcFmt c.cols
  ((List.range c.rows).foldl (fun u r =>
    let off := c.src.loc + r * c.src.stride
    let row := (List.range c.cols).map fun k => cvtElem c (packedCode (u.stbRead st off n) (fmtBits c.srcFmt) k)
    (u.stbStore st off (rowCells n (fmtBits c.dstFmt) (padCodes c.dstFmt (row.map fun x => some x.code))) (u.spanPoison st off n)).countNarrow
      st row) s).finish st w

/-- The body of a CVT. An identical in-place conversion between formats of different widths has no stated result: its destination
bytes are free values (notes/assumptions/19.md). -/
def cvtBody (st : Nat) (s : State) (w : WinCmd) : State :=
  let c := parseCvt w.record
  let m := s.img st w c.src (spanBytes c.srcFmt c.src.stride c.rows c.cols)
  let rows := (List.range c.rows).map fun r => (m.row c.srcFmt c.src.stride c.cols r).map (cvtElem c)
  let bad (r : Nat) : Bool := m.bad (r * c.src.stride) (rowBytes c.srcFmt c.cols)
  let n := rowBytes c.dstFmt c.cols
  if cvtInPlace w.record && c.src.kind == 0 && fmtBits c.srcFmt == fmtBits c.dstFmt then cvtInOrder st s w c
  else if cvtInPlace w.record && c.src.kind == 0 then
    let outs : Outs := (List.range c.rows).map fun r =>
      (r * c.dst.stride, fullCells ((s.tick (n * r)).freeBytes n), bad r)
    ((s.tick (n * c.rows)).countNarrow st rows.flatten).deliver st w c.dst outs
  else
    let outs : Outs := (List.range c.rows).map fun r =>
      (r * c.dst.stride, rowCells n (fmtBits c.dstFmt)
        (padCodes c.dstFmt ((rows.getD r []).map fun x => some x.code)), bad r)
    (s.countNarrow st rows.flatten).deliver st w c.dst outs

def execCvt (st : Stall) (seq : Word) (s : State) : Host.Outcome State Fault Refusal :=
  done s (s.engine st seq opCvt (checkCvt st) (fun w => let c := parseCvt w.record; if c.rows = 0 || c.cols = 0 then [] else [c.src]) (cvtBody st))

/-! ### HIST (R66, R67) -/

structure Hist where
  rows : Nat
  cols : Nat
  src : Desc

def parseHist (rec : List Byte) : Hist :=
  ⟨recField rec histLayout 0, recField rec histLayout 1, recDesc rec histLayout 2⟩

def checkHist (st : Nat) (s : State) (w : WinCmd) : Verdict :=
  let c := parseHist w.record
  let mode := s.fld Reg.HGU_CTRL_MODE st
  if !c.src.fmtGood || mode == 3 || (mode == 0 && decide (fmtBits c.src.fmt > 8)) then .rejected (s.setFlag Reg.NUM_STATUS_FMT_BAD st)
  else if !recOk w.record histLayout || !c.src.present || (c.src.kind != 0 && c.src.kind != 3) || c.src.comp || c.src.scaleEn then .rejected s
  else if !c.src.aligned then .rejected (s.alignFault st 5)
  else if !c.src.inStb (spanBytes c.src.fmt c.src.stride c.rows c.cols) then .rejected s
  else if c.rows = 0 || c.cols = 0 then .zero
  else .run

/-- floor of an FP32 value, cut to 0 to 255 (R66 LINEAR); none for a NaN. -/
def floorBin (x : Word) : Option Nat :=
  match f32Dec x with
  | .nan => none
  | .inf n => some (if n then 0 else 255)
  | .fin n m e => if n then some 0 else if e ≥ 8 && m != 0 then some 255 else some (min 255 (if e ≥ 0 then m <<< e.toNat else m >>> (-e).toNat))

/-- What a HIST takes when it issues: MODE, HGU_LO and HGU_INVW. The spec gives no time for it; a HIST that waits for ring slots bins with
the settings it was checked with (notes/assumptions/70.md, DESIGN CHOICE). -/
def histSnap (st : Nat) (s : State) (_w : WinCmd) : List Nat :=
  [s.fld Reg.HGU_CTRL_MODE st, s.rd Reg.HGU_LO st, s.rd Reg.HGU_INVW st]

/-- The bin of an element (R66) in the mode and range of `snap`: none where a NaN goes to no bin. On A0 a NaN of LINEAR goes to bin 0. -/
def State.histBin (s : State) (snap : List Nat) (d : Desc) (code : Nat) : Option Nat :=
  let mode := snap.getD 0 0
  let x := widen32 d.fmt d.zpOpt code
  if mode = 0 then some code
  else if mode = 1 then some (bits x.toNat 30 23)
  else
    match floorBin (f32Mul (f32Sub x (BitVec.ofNat 32 (snap.getD 1 0))) (BitVec.ofNat 32 (snap.getD 2 0))) with
    | some b => some b
    | none => if s.part.b0 then none else some 0

/-- One element into its bin (R67); a NaN without a bin counts in HGU_NAN_CNT. -/
def State.histAdd (s : State) (st : Nat) (b : Option Nat) : State :=
  match b with
  | none => s.bump Reg.HGU_NAN_CNT_COUNT 1 st
  | some b =>
    let t := s.bump Reg.HGU_BIN_COUNT 1 st b
    t.setIf (t.rd Reg.HGU_BIN st b == 0xFFFFFFFF) Reg.HGU_STATUS_BIN_SAT st

def histBody (st : Nat) (s : State) (w : WinCmd) : State :=
  let c := parseHist w.record
  let m := s.img st w c.src (spanBytes c.src.fmt c.src.stride c.rows c.cols)
  ((List.range c.rows).foldl (fun u r =>
    (m.row c.src.fmt c.src.stride c.cols r).foldl (fun u x => u.histAdd st (s.histBin w.snap c.src x)) u) s).finish st w

def execHist (st : Stall) (seq : Word) (s : State) : Host.Outcome State Fault Refusal :=
  done s (s.engine st seq opHist (checkHist st) (fun w => let c := parseHist w.record; if c.rows = 0 || c.cols = 0 then [] else [c.src]) (histBody st) (histSnap st))

/-- All 256 bins and HGU_NAN_CNT to zero (R68). -/
def State.hguClear (s : State) (st : Nat) : State :=
  ((List.range 256).foldl (fun u b => u.wr Reg.HGU_BIN 0 st b) s).wr Reg.HGU_NAN_CNT 0 st

/-- HGU_CLEAR (R68). -/
def execHguClear (st : Stall) (s : State) : Host.Outcome State Fault Refusal :=
  if s.stallUp st then done s (s.hguClear st) else .next s

end Sys2Proof.Machine
end

