-- ==== Sys2Proof/Machine/Grooms.lean ====
section
/-! DEFINITION. The grooms: starting and stopping sequences, the groom port, the hitch chain, TBL_LOAD and GP_LOAD (06_grooms.md R146 to
R181; 03_weight_compression.md R77 to R79). -/
namespace Sys2Proof.Machine

def State.groom (s : State) (n : Nat) : Groom := SMap.get s.grooms {} n
def State.putGroom (s : State) (n : Nat) (g : Groom) : State := { s with grooms := SMap.set s.grooms {} n g }
def State.ctxOf (s : State) (p : Nat) : GCtx := SMap.get s.gctx {} p
def State.putCtx (s : State) (p : Nat) (c : GCtx) : State := { s with gctx := SMap.set s.gctx {} p c }

/-! ### Ready lines and status (R155) -/

def State.running (s : State) (p : Nat) : Bool :=
  match s.hostOf p with
  | some n => (match (s.groom n).run with | some r => r.ctx == p | none => false)
  | none => false

/-- READY, BUSY and PENDING follow the groom's state. -/
def State.syncReady (s : State) (p : Nat) : State :=
  let c := s.ctxOf p
  let busy := s.running p
  let pend := c.pend.isSome || c.held.isSome
  let ready := !busy && !pend && !c.draining
  ((s.setFld Reg.GRM_STATUS_READY (if ready then 1 else 0) p).setFld Reg.GRM_STATUS_BUSY (if busy then 1 else 0) p).setFld
    Reg.GRM_STATUS_PENDING (if pend then 1 else 0) p

def State.ready (s : State) (p : Nat) : Bool := s.flag Reg.GRM_STATUS_READY p

/-! ### GO, ABORT, completion (R152 to R156) -/

/-- A sequence starts on its host groom at its entry point. Counts that an aborted sequence left are dropped: it reports no completion, and
the spec says of no other time when they would be added (R49; notes/assumptions/70.md). -/
def State.startSeq (s : State) (p n : Nat) (go : GoSnap) : State :=
  let g := s.groom n
  let g := { g with run := some { ctx := p, go := go }, pc := g.entries.getD go.entry 0, recvDone := 0, gmul := none, sat := 0, nan := 0 }
  (s.putGroom n g).syncReady p

def parseGpLoad (rec : List Byte) : Nat × Nat := (recField rec gpLoadLayout 0, recField rec gpLoadLayout 1)

/-- Positions that a GP_LOAD names. -/
def State.gpTargets (s : State) (st mask : Nat) : List Nat :=
  ((List.range 256).filter fun gi => bit mask gi).filterMap fun gi => s.positionOf st gi

/-- An accepted GP_LOAD still waits to write the store of groom `n`: the port holds every GO to it (R151). -/
def State.loadHolds (s : State) (n : Nat) : Bool :=
  let st := s.stallOf n
  (s.dspOf st).running.any fun w => w.op == opGpLoad && w.issued && !w.ok &&
    (s.gpTargets st (parseGpLoad w.record).2).any fun p => s.hostOf p == some n

/-- A context of groom `n` drains. -/
def State.drains (s : State) (n : Nat) : Bool := (s.contextsOf n).any fun k => (s.ctxOf k).draining

/-- A GO reaches a position: it starts, becomes pending, is held as PENDING_ENABLE behind a drain of its groom, or stays in the port (none):
behind a full slot or a GP_LOAD. -/
def State.takeGo (s : State) (p : Nat) (go : GoSnap) : Option State :=
  match s.hostOf p with
  | none => none
  | some n =>
    let c := s.ctxOf p
    if s.loadHolds n || c.pend.isSome || c.held.isSome then none
    else if s.drains n then some ((s.putCtx p { c with held := some go }).syncReady p)
    else if (s.groom n).run.isNone then some (s.startSeq p n go)
    else some ((s.putCtx p { c with pend := some go }).syncReady p)

def State.argsOf (s : State) (p : Nat) : List Word := (List.range 32).map fun a => BitVec.ofNat 32 (s.rd Reg.GRM_ARG p a)

/-- After a sequence leaves a groom: the pending GO of another context of the groom, or of this one, starts; a GO held behind a drain
becomes pending when the drain ends (R153, R154, R176). -/
def State.nextSeq (s : State) (n p : Nat) : State :=
  if (s.groom n).run.isSome || s.drains n then s
  else
    let order := ((s.contextsOf n).filter (· != p)) ++ [p]
    let t := order.foldl (fun u k =>
      let c := u.ctxOf k
      if c.held.isSome then u.putCtx k { c with pend := c.held, held := none } else u) s
    match order.find? (fun k => (t.ctxOf k).pend.isSome) with
    | none => t
    | some k =>
      match (t.ctxOf k).pend with
      | none => t
      | some go => (t.putCtx k { t.ctxOf k with pend := none }).startSeq k n go

/-- A groom failure: a sequence ended with WDOG, CHAIN_STUCK or CORE_FAULT counts against the groom (R452, R457). -/
def State.groomFailure (s : State) (p : Nat) : State :=
  let d := s.fld Reg.GRM_FAULT_FAULT_CAUSE p + 16 * s.fld Reg.GRM_STATUS_WDOG p + 32 * s.fld Reg.GRM_FAULT_CHAIN_STUCK p
    + 2 ^ 16 * s.fld Reg.GRM_FAULT_FAULT_PC p
  (s.fault 0x06 3 p d).countErr Reg.MON_GRM_FAIL_COUNT Reg.FLT_THR_GRM_FAIL 3 p 0 p

/-- ABORT (R153): the sequence stops, the pending GO is discarded, ABORTED is set and the groom drains; during a drain it cancels a
held GO; an idle groom needs no drain. -/
def State.abortGroom (s : State) (p : Nat) : State :=
  let c := s.ctxOf p
  if c.draining then (s.putCtx p { c with held := none }).syncReady p
  else if s.running p then
    match s.hostOf p with
    | some n =>
      (((s.putGroom n { s.groom n with run := none, gmul := none }).putCtx p { c with pend := none, draining := true }).setFlag
        Reg.GRM_STATUS_ABORTED p).syncReady p
    | none => s
  else ((s.putCtx p { c with pend := none, held := none }).setFlag Reg.GRM_STATUS_ABORTED p).syncReady p

/-- Service has begun and the stall is fitted and not mapped out: its groom port answers (R16, R25, R179). -/
def State.portOpen (s : State) (st : Nat) : Bool := s.stallUp st && !s.flag Reg.GPORT_STATUS_STARTUP st

/-- GROOM_GO (R152): the write of GRM_CTRL with GO; a GO that is not accepted is held in the port. -/
def State.groomGo (s : State) (st gi entry seq : Nat) : Option State :=
  if !s.portOpen st then some s
  else match s.positionOf st gi with
    | none => some s
    | some p =>
      match s.takeGo p ⟨entry, seq, s.argsOf p⟩ with
      | none => if (s.hostOf p).isNone then some s else none
      | some t => some ((t.setFld Reg.GRM_CTRL_ENTRY entry p).setFld Reg.GRM_CTRL_SEQ seq p)

def execGroomGo (st : Stall) (gi : Fin 256) (entry : BitVec 4) (seq : BitVec 16) (s : State) : Host.Outcome State Fault Refusal :=
  done s ((s.groomGo st gi entry.toNat seq.toNat).getD s)

/-- GROOM_ABORT (R153). -/
def State.groomAbort (s : State) (st gi : Nat) : State :=
  if !s.portOpen st then s
  else match s.positionOf st gi with
    | none => s
    | some p => s.abortGroom p

def execGroomAbort (st : Stall) (gi : Fin 256) (s : State) : Host.Outcome State Fault Refusal := done s (s.groomAbort st gi)

/-- Flits waiting at the exit node of channel `q`. -/
def State.xqueue (s : State) (q : Nat) : List ChainFlit := SMap.get s.xnode [] q

/-- Flits of a context that are still on their way. -/
def State.flitsOf (s : State) (p : Nat) : List ChainFlit := (s.chain ++ s.xnode.flatMap (·.2)).filter fun f => f.ctx == p

/-- GROOM_DRAIN_END (R153): every flit delivered; a held GO starts. -/
def execGroomDrainEnd (p : GroomIx) (s : State) : Host.Outcome State Fault Refusal :=
  let c := s.ctxOf p
  if c.draining && (s.flitsOf p).isEmpty then
    let t := s.putCtx p { c with draining := false }
    let t := match t.hostOf p with | some n => t.nextSeq n p | none => t
    done s (t.syncReady p)
  else .next s

/-- GROOM_SEQUENCE_COMPLETE (R154): GEND or a fault has ended it and every flit it sent is acknowledged; its counts join the
stall's, SEQ goes to SEQ_DONE, and the pending GO starts. -/
def execGroomSequenceComplete (p : GroomIx) (cycles : Word) (s : State) : Host.Outcome State Fault Refusal :=
  match s.hostOf p with
  | none => .next s
  | some n =>
    let g := s.groom n
    match g.run with
    | none => .next s
    | some r =>
      if r.ctx == p.val && r.ended && (s.flitsOf p).isEmpty then
        let st := s.stallOf p
        let t := (s.countSat st g.sat).countNan st g.nan
        let t := t.putGroom n { g with run := none, sat := 0, nan := 0 }
        let t := (t.setFld Reg.GRM_STATUS_SEQ_DONE r.go.seq p).setFlag Reg.GRM_STATUS_DONE p
        let t := (t.setIf r.err Reg.GRM_STATUS_ERR p).wr Reg.GRM_CYCLES cycles.toNat p
        done s ((t.nextSeq n p).syncReady p)
      else .next s

/-- GROOM_WATCHDOG (R156): a sequence longer than GPORT_WDOG BCLK is aborted. -/
def execGroomWatchdog (p : GroomIx) (cycles : Word) (s : State) : Host.Outcome State Fault Refusal :=
  let lim := s.rd Reg.GPORT_WDOG (s.stallOf p)
  if s.running p && lim != 0 && decide (cycles.toNat > lim) then
    done s (((s.abortGroom p).setFlag Reg.GRM_STATUS_WDOG p).groomFailure p)
  else .next s

/-! ### Scratch and its POISON bits -/

def scratchSize : Nat := 0x2000
/-- Offset in scratch of a core address, where it lies there with `n` bytes. -/
def scratchOff (a n : Nat) : Option Nat := if 0x4000 ≤ a ∧ a + n ≤ 0x6000 then some (a - 0x4000) else none

def State.scratchRead (s : State) (n off len : Nat) : List Byte := s.bytes (grmScratchKey n off) len
/-- Bytes of a store into scratch that began at offset `start`, those before `off` stored already, each byte from `start` on poisoned or not;
POISON bits on the pattern of R139 by 32-byte word, over what the whole instruction stores (R163). -/
def State.scratchGroup (s : State) (n start off : Nat) (l : List Byte) (bad : Nat → Bool) : State :=
  let t := s.putBytes (grmScratchKey n off) l
  if l.length = 0 then t
  else (List.range ((off + l.length - 1) / 32 - off / 32 + 1)).foldl (fun u i =>
    let w := off / 32 + i
    let g := u.groom n
    let here := (List.range 32).filter fun k => decide (start ≤ 32 * w + k) && decide (32 * w + k < off + l.length)
    if here.any fun k => bad (32 * w + k - start) then u.putGroom n { g with poison := SMap.set g.poison false w true }
    else if here.length = 32 then u.putGroom n { g with poison := SMap.set g.poison false w false }
    else u) t
/-- A store into scratch of bytes, each poisoned or not (R163). -/
def State.scratchStore (s : State) (n off : Nat) (l : List Byte) (bad : Nat → Bool) : State := s.scratchGroup n off off l bad
/-- A store whose bytes are all poisoned, or none. -/
def State.scratchWrite (s : State) (n off : Nat) (l : List Byte) (poison : Bool) : State := s.scratchStore n off l fun _ => poison
def State.scratchBad (s : State) (n off len : Nat) : Bool :=
  if len = 0 then false
  else (List.range ((off + len - 1) / 32 - off / 32 + 1)).any fun i => SMap.get (s.groom n).poison false (off / 32 + i)

/-! ### The hitch chain (R164 to R167) -/

def rxCap : Nat := 16

/-- Flits that an exit node holds (R166). -/
def xCap : Nat := 64

/-- A hop of a hitch chain, named by where it leads: nodes 0 to 7 are the grooms of the channel, 8 its exit node X from groom 7, 9 and 10 the
exit node from the channel below and above (R164). -/
def chainHop (q node : Nat) : Nat := 16 * q + node
def chainHops (q a b : Nat) : List Nat := (List.range (b - a)).map fun i => chainHop q (a + i)

/-- The hops that a flit takes, in order. -/
def ChainFlit.path (f : ChainFlit) : List Nat :=
  let q := f.src / 8
  let g := f.src % 8
  match f.dst with
  | .stb _ _ => chainHops q (g + 1) 9
  | .groom n =>
    let r := n / 8
    if r = q ∧ n % 8 > g then chainHops q (g + 1) (n % 8 + 1)
    else chainHops q (g + 1) 9
      ++ (if q < r then (List.range (r - q)).map fun i => chainHop (q + 1 + i) 9 else (List.range (q - r)).map fun i => chainHop (q - 1 - i) 10)
      ++ chainHops r 0 (n % 8 + 1)

/-- Room in the queue that a flit is bound for. -/
def State.flitRoom (s : State) (f : ChainFlit) : Bool :=
  match f.dst with
  | .groom n => decide ((s.groom n).rx.length < rxCap)
  | .stb _ _ => decide ((s.xqueue (f.src / 8)).length < xCap)

def State.takeFlit (s : State) (f : ChainFlit) : State :=
  match f.dst with
  | .groom n => let g := s.groom n; s.putGroom n { g with rx := g.rx ++ [(f.data, f.poison)] }
  | .stb _ _ => { s with xnode := SMap.set s.xnode [] (f.src / 8) (s.xqueue (f.src / 8) ++ [f]) }

/-- Each flit goes as far along its hops as no flit before it stands in the way, and enters its queue where there is room; one that meets a
full queue stays in the hop before it, and none is dropped (R166). `held`: the hops taken. -/
def chainAdvance (s : State) : List ChainFlit → List Nat → List ChainFlit → State
  | keep, _, [] => { s with chain := keep.reverse }
  | keep, held, f :: r =>
    let way := f.path.takeWhile fun h => !held.contains h
    if way.length == f.path.length && s.flitRoom f then chainAdvance (s.takeFlit f) keep held r
    else chainAdvance s (f :: keep) (way.getLast?.toList ++ held) r

def State.advance (s : State) : State := chainAdvance s [] [] s.chain

/-- The other flit of a line bound for the STB: the two go as one (R165). -/
def ChainFlit.lineMate (f g : ChainFlit) : Bool :=
  f.src == g.src && f.ctx == g.ctx && match f.dst, g.dst with
    | .stb a x, .stb b y => a == b && x / 64 == y / 64 && x != y
    | _, _ => false

/-- The place among `l` of the other half of flit `f` of a line: the next one behind place `k` for a first half, the last one before it for a
second half. -/
def mateAt (l : List ChainFlit) (f : ChainFlit) (k : Nat) : Option Nat :=
  let first := match f.dst with | .stb _ o => o / 32 % 2 == 0 | .groom _ => true
  if first then (List.range l.length).find? fun i => decide (k < i) && (l[i]?).any f.lineMate
  else (List.range l.length).reverse.find? fun i => decide (i < k) && (l[i]?).any f.lineMate

/-- Flit `k` of those in flight leaves the chain, and with it the other half of its line, from the chain or the exit node, since the STB takes
whole lines (notes/assumptions/70.md); what stood behind it goes on. -/
def State.discardFlit (s : State) (k : Nat) (f : ChainFlit) : State :=
  let q := f.src / 8
  let xq := s.xqueue q
  match mateAt s.chain f k, mateAt xq f xq.length with
  | some i, _ => State.advance { s with chain := (s.chain.eraseIdx (max i k)).eraseIdx (min i k) }
  | none, some i => State.advance { s with chain := s.chain.eraseIdx k, xnode := SMap.set s.xnode [] q (xq.eraseIdx i) }
  | none, none => State.advance { s with chain := s.chain.eraseIdx k }

/-- CHAIN_STUCK (R166): flit `k` of those in flight has stood in one hop for 65,536 BCLK; the port aborts its source's sequence, and the
drain that begins discards the flit. -/
def execChainStuck (k : Nat) (s : State) : Host.Outcome State Fault Refusal :=
  match s.chain[k]? with
  | none => .next s
  | some f =>
    let t := s.setFlag Reg.GRM_FAULT_CHAIN_STUCK f.ctx
    let t := if t.running f.ctx then (t.abortGroom f.ctx).groomFailure f.ctx else t
    done s (t.discardFlit k f)

/-- X_NODE_LINE_WRITE (R167): the exit node of channel `q` writes its oldest line into the STB as a stream fill and acknowledges both
flits; the room lets others in. -/
def execXNodeLineWrite (q : Chan) (s : State) : Host.Outcome State Fault Refusal :=
  match (s.xqueue q).head? with
  | none => .next s
  | some a =>
    match a.dst, (s.xqueue q).find? a.lineMate with
    | .stb st off, some b =>
      let t := s.stbStore st off (fullCells (a.data ++ b.data)) (a.poison || b.poison)
      done s (State.advance { t with xnode := SMap.set t.xnode [] q (((s.xqueue q).erase a).erase b) })
    | _, _ => .next s

/-! ### Windows of the groom port (R181) -/

/-- The host groom that GPORT_SEL shows, with its position. -/
def State.selGroom (s : State) (st : Nat) : Option (Nat × Nat) :=
  (s.positionOf st (s.fld Reg.GPORT_SEL_GI st)).bind fun p => (s.hostOf p).map fun n => (p, n)

def State.scaleEntry (s : State) (n i : Nat) : Nat := (SMap.get (s.groom n).scale 0x3F80 i).toNat
def State.putScale (s : State) (n i v : Nat) : State :=
  let g := s.groom n
  s.putGroom n { g with scale := SMap.set g.scale 0x3F80 i (BitVec.ofNat 16 v) }

/-- GRM_TBL[t] of a context (R177, R180). -/
def State.grmTbl (s : State) (p t : Nat) : Nat :=
  match s.hostOf p with
  | none => 0
  | some n => match SMap.get (s.groom n).tables none (s.physSlot p t) with | some x => x.1 + 2 ^ 31 | none => 0

/-- A write of `size` bytes at offset `off` of a stall block inside GPORT_MPROG, GPORT_SCRATCH or GPORT_SCALE: it reaches the selected
groom, or is discarded with DESC_BAD where its ready line is low (R181); scratch of an adopting groom needs both lines high (R177). -/
def State.windowWrite (s : State) (st off size v : Nat) : State :=
  if !s.portOpen st then s
  else match s.selGroom st with
    | none => s
    | some (p, n) =>
      let both := (s.contextsOf n).all fun k => s.ready k
      let scratch := decide (0xA4000 ≤ off) && decide (off < 0xA6000)
      if !s.ready p || (scratch && !both) then s.setFlag Reg.GRM_STATUS_DESC_BAD p
      else if 0xA0000 ≤ off ∧ off + size ≤ 0xA4000 then s.putBytes (grmProgKey n (off - 0xA0000)) (leBytes v size)
      else if scratch then s.scratchWrite n (off - 0xA4000) (leBytes v size) false
      else if 0xA6000 ≤ off ∧ off + size ≤ 0xA6400 then
        (List.range (size / 2)).foldl (fun u i => u.putScale n (u.physScale p ((off - 0xA6000) / 2 + i)) (v / 65536 ^ i % 65536)) s
      else s

/-- GPORT_WINDOW_WRITE (R181); `off` counts from 0xA_0000 of the stall block. -/
def execGportWindowWrite (st : Stall) (off : BitVec 16) (size : Nat) (v : Dword) (s : State) : Host.Outcome State Fault Refusal :=
  done s (s.windowWrite st (0xA0000 + off.toNat) size v.toNat)

/-- A read of `size` bytes of a window. -/
def State.windowRead (s : State) (st off size : Nat) : Nat :=
  if !s.portOpen st then 0
  else match s.selGroom st with
    | none => 0
    | some (p, n) =>
      if 0xA0000 ≤ off ∧ off + size ≤ 0xA4000 then leAt (s.bytes (grmProgKey n (off - 0xA0000)) size) 0 size
      else if 0xA4000 ≤ off ∧ off + size ≤ 0xA6000 then leAt (s.scratchRead n (off - 0xA4000) size) 0 size
      else if 0xA6000 ≤ off ∧ off + size ≤ 0xA6400 then
        ((List.range (size / 2)).map fun i => s.scaleEntry n (s.physScale p ((off - 0xA6000) / 2 + i)) * 65536 ^ i).sum
      else 0

/-! ### TBL_LOAD (R77 to R79) -/

structure TblLoad where
  image : Nat
  groom : Bool
  gi : Nat
  slot : Nat

def parseTblLoad (rec : List Byte) : TblLoad :=
  let f := recField rec tblLoadLayout
  ⟨f 0, f 1 == 1, f 2, f 3⟩

/-- A tile decoded with the table of a slot is given up when the slot is written: its MMUL decodes with one whole table (R79). -/
def State.voidPreload (s : State) (st id : Nat) : State :=
  let d := s.dspOf st
  if (d.running ++ d.window).any fun w => d.preload == w.seq.toNat + 1 && tableUse w == some id then s.putDsp st { d with preload := 0 } else s

/-- TBL_VALID follows the table store of the stall (R96). -/
def State.putTable (s : State) (st id : Nat) (t : Option CodeTable) : State :=
  (({ s with tables := SMap.set s.tables none (1024 * st + id) t }).wr Reg.TBL_VALID
    (putBits (s.rd Reg.TBL_VALID st (id / 32)) (id % 32) (id % 32) (if t.isSome then 1 else 0)) st (id / 32)).voidPreload st id

def State.putGroomTable (s : State) (p n t : Nat) (x : Option (Nat × CodeTable)) : State :=
  let g := s.groom n
  s.putGroom n { g with tables := SMap.set g.tables none (s.physSlot p t) x }

/-- The image at an STB offset passes R77: the table, or none. -/
def State.tableImage (s : State) (st off : Nat) : Option CodeTable :=
  let size := tableImageSize (tableImageFmt (s.stbRead st off 64))
  if off + size ≤ stbSize then parseTable (s.stbRead st off size) else none

def checkTblLoad (st : Nat) (s : State) (w : WinCmd) : Verdict :=
  let c := parseTblLoad w.record
  if c.image % 64 ≠ 0 then .rejected (s.alignFault st 8)
  -- a target or slot beyond its field, or a groom port that refuses every access, sets no status bit (notes/assumptions/70.md)
  else if !recOk w.record tblLoadLayout || (c.groom && !s.portOpen st) then .rejected s
  else .run

/-- The body of a TBL_LOAD: the checked table into its slot; a bad image empties the slot and rejects the command. A load into a
slot that a matrix instruction issued before it or a groom sequence still uses waits (R79); every sequence that the host groom runs counts as
one that uses it, whatever slots it names (DESIGN CHOICE, notes/assumptions/75.md). A GI that names no groom in use rejects the command with no
status bit (notes/assumptions/70.md). -/
def tblLoadBody (st : Nat) (s : State) (w : WinCmd) : State :=
  let c := parseTblLoad w.record
  let id := tableImageId (s.stbRead st c.image 64)
  let t := s.tableImage st c.image
  if !c.groom then
    if ((s.dspOf st).ahead w.seq).any (fun x => tableUse x == some id) then s
    else match t with
      | some x => (s.putTable st id (some x)).finish st w
      | none =>
        (((s.putTable st id none).setFlag Reg.DEC_STATUS_TBL_BAD st).wr Reg.TBL_BAD_ID id st).reject st w
  else match (s.positionOf st c.gi).bind fun p => (s.hostOf p).map fun n => (p, n) with
    | none => s.reject st w
    | some (p, n) =>
      if (s.groom n).run.isSome then s
      else match t with
        | some x => (s.putGroomTable p n c.slot (some (id, x))).finish st w
        | none =>
          (((s.putGroomTable p n c.slot none).setFlag Reg.GRM_STATUS_TBL_BAD p).wr Reg.TBL_BAD_ID id st).reject st w

/-- TBL_LOAD. -/
def execTblLoad (st : Stall) (seq : Word) (s : State) : Host.Outcome State Fault Refusal :=
  done s (s.engine st seq opTblLoad (checkTblLoad st) (fun _ => []) (tblLoadBody st))

/-! ### GP_LOAD (R150, R151) -/

/-- The range of ABI versions that applies to a stall (R151): its paddock's, or the firmware row's cut by the COMPAT section. -/
def State.abiRange (s : State) (st : Nat) : Option (Nat × Nat) :=
  match s.paddockOf st with
  | some p => let b := SMap.get s.tackPdk [] p; some (leAt b 40 2, leAt b 42 2)
  | none =>
    match s.fwTable.find? fun r => r.1 == s.fld Reg.TACK_COMPAT_FW && r.2.1 == s.fld Reg.TACK_COMPAT_UC with
    | none => none
    | some r =>
      if s.tackCompat = [] then some (r.2.2.1, r.2.2.2)
      else some (max r.2.2.1 (leAt s.tackCompat 16 2), min r.2.2.2 (leAt s.tackCompat 18 2))

/-- GP_CAUSE of an image that is refused; 0: accepted (R151). The image is judged to lie in the STB before its code is read. -/
def State.gpCause (s : State) (st off : Nat) (targets : List Nat) : Nat :=
  let h := s.stbRead st off 64
  let len := bits (leAt h 2 2) 8 0
  let entries := (List.range 16).map fun i => leAt h (8 + 2 * i) 2
  let abi := byteAt h 0 * 256 + byteAt h 1
  let code := s.stbRead st (off + 64) (64 * len)
  let hosts := targets.filterMap fun p => s.hostOf p
  if bits (leAt h 2 2) 15 9 != 0 || !allZero (h.drop 40) then 1
  else if len = 0 || len > 256 then 2
  else if entries.any (fun e => e % 4 != 0 || decide (e ≥ 64 * len)) then 3
  else if off + 64 + 64 * len > stbSize then 7
  else if crc32c code ≠ leAt h 4 4 then 4
  else if (match s.abiRange st with | none => true | some (lo, hi) => decide (abi < lo) || decide (abi > hi)) then 5
  else if hosts.any (fun n =>
      (s.contextsOf n).any (fun p => !targets.contains p) &&
      (decide ((s.groom n).codeLen ≠ 64 * len) || (s.groom n).entries != entries || s.bytes (grmProgKey n 0) (64 * len) != code)) then 6
  else 0

def checkGpLoad (st : Nat) (s : State) (w : WinCmd) : Verdict :=
  let c := parseGpLoad w.record
  let targets := s.gpTargets st c.2
  if c.1 % 64 ≠ 0 then .rejected (s.alignFault st 9)
  else if c.2 = 0 then .zero
  -- no groom takes a command before service; the port refuses with no status bit (R25, R179; notes/assumptions/70.md)
  else if !s.portOpen st then .rejected s
  else
    let k := s.gpCause st c.1 targets
    if k ≠ 0 then .rejected ((s.setFlag Reg.GPORT_STATUS_GP_BAD st).setFld Reg.GPORT_STATUS_GP_CAUSE k st)
    else .run

/-- The body of a GP_LOAD: accepted, it waits for every target's ready line, then every target's store holds the image. -/
def gpLoadBody (st : Nat) (s : State) (w : WinCmd) : State :=
  let c := parseGpLoad w.record
  let targets := s.gpTargets st c.2
  let h := s.stbRead st c.1 64
  let len := 64 * bits (leAt h 2 2) 8 0
  let code := s.stbRead st (c.1 + 64) len
  if !targets.all (fun p => s.ready p) then s.putRunning st w
  else
    ((targets.filterMap fun p => s.hostOf p).foldl (fun u n =>
      (u.putBytes (grmProgKey n 0) code).putGroom n
        { u.groom n with codeLen := len, entries := (List.range 16).map fun i => leAt h (8 + 2 * i) 2 }) s).finish st w

/-- GP_LOAD. -/
def execGpLoad (st : Stall) (seq : Word) (s : State) : Host.Outcome State Fault Refusal :=
  done s (s.engine st seq opGpLoad (checkGpLoad st) (fun _ => []) (gpLoadBody st))

end Sys2Proof.Machine
end

