-- ==== Sys2Proof/Machine/GroomCore.lean ====
section
/-! DEFINITION. The groom core and its engines (06_grooms.md R146 to R149, R157 to R166). The encoding of core instructions is not
given, so each command carries the instruction that the core meets at its program counter (notes/assumptions/20.md). -/
namespace Sys2Proof.Machine

/-! ### Running an instruction -/

def State.greg (s : State) (n : Nat) (r : GReg) : Word := if r = 0 then 0 else SMap.get (s.groom n).gr 0 r
/-- g0 reads as zero; a write to it is lost. -/
def State.putGreg (s : State) (n : Nat) (r : GReg) (v : Word) : State :=
  if r = 0 then s else let g := s.groom n; s.putGroom n { g with gr := SMap.set g.gr 0 r v }

def State.gpc (s : State) (n pc : Nat) : State := s.putGroom n { s.groom n with pc := pc }
def State.gnext (s : State) (n : Nat) : State := s.gpc n ((s.groom n).pc + 4)

/-- FAULT_CAUSE of R149. -/
def causeUnlisted : Nat := 1
def causeMisaligned : Nat := 2
def causeRange : Nat := 3
def causeFetch : Nat := 4
def causeRejected : Nat := 5

/-- A core fault ends the sequence, which then completes with ERR (R149, R154). -/
def State.coreFault (s : State) (n : Nat) (r : GSeq) (cause : Nat) : State :=
  let g := s.groom n
  let t := s.putGroom n { g with run := some { r with ended := true, err := true } }
  (((t.setFlag Reg.GRM_STATUS_CORE_FAULT r.ctx).setFld Reg.GRM_FAULT_FAULT_PC g.pc r.ctx).setFld Reg.GRM_FAULT_FAULT_CAUSE cause
    r.ctx).groomFailure r.ctx

/-- A rejection sets its bit of GRM_STATUS and faults the sequence. -/
def State.coreReject (s : State) (n : Nat) (r : GSeq) (f : Fld) : State := (s.setFlag f r.ctx).coreFault n r causeRejected

/-- A rejection for a format code that R35 does not list, or a zero point that R40 refuses, also sets the owning stall's FMT_BAD. -/
def State.fmtReject (s : State) (n : Nat) (r : GSeq) : State :=
  (s.setFlag Reg.NUM_STATUS_FMT_BAD (s.stallOf r.ctx)).coreReject n r Reg.GRM_STATUS_DESC_BAD

/-- The core of groom `n` meets an instruction: nothing where it runs no sequence, has ended it or its array is at a GMUL; a fault where its
program counter is misaligned or beyond CODE_LEN. -/
def State.core (s : State) (n : Nat) (body : State → GSeq → State) : State :=
  match (s.groom n).run with
  | none => s
  | some r =>
    if r.ended || (s.groom n).gmul.isSome then s
    else if (s.groom n).pc % 4 ≠ 0 then s.coreFault n r causeMisaligned
    else if (s.groom n).pc ≥ (s.groom n).codeLen then s.coreFault n r causeFetch
    else body s r

/-! ### Integer and branch instructions -/

def State.gsrc (s : State) (n : Nat) (b : GSrc) : Word :=
  match b with
  | .reg r => s.greg n r
  | .imm i => i.signExtend 32

def b2w (b : Bool) : Word := if b then 1 else 0

/-- The integer operations; a shift by 32 or more has no stated result: a free value. -/
def State.gint (s : State) (op : GIntOp) (a b d : Word) : Word × State :=
  let sh (v : Word) : Word × State := if b.toNat ≥ 32 then (s.freeVal.setWidth 32, s.tick) else (v, s)
  match op with
  | .add => (a + b, s)
  | .sub => (a - b, s)
  | .and => (a &&& b, s)
  | .or => (a ||| b, s)
  | .xor => (a ^^^ b, s)
  | .shl => sh (a <<< b.toNat)
  | .shr => sh (a >>> b.toNat)
  | .shra => sh (a.sshiftRight b.toNat)
  | .cmpEq => (b2w (a == b), s)
  | .cmpLt => (b2w (a.slt b), s)
  | .cmpLtu => (b2w (a.ult b), s)
  | .setIf => (if a ≠ 0 then b else d, s)

/-- GROOM_INTEGER_OP. -/
def execGroomIntegerOp (n : GroomIx) (op : GIntOp) (rd a : GReg) (b : GSrc) (s : State) : Host.Outcome State Fault Refusal :=
  done s (s.core n fun t _ =>
    let x := t.gint op (t.greg n a) (t.gsrc n b) (t.greg n rd)
    (x.2.putGreg n rd x.1).gnext n)

def gcond (c : GCond) (a b : Word) : Bool :=
  match c with
  | .eq => a == b
  | .ne => a != b
  | .lt => a.slt b
  | .ge => !a.slt b
  | .ltu => a.ult b
  | .geu => !a.ult b

/-- GROOM_BRANCH_OP: no delay slot. -/
def execGroomBranchOp (n : GroomIx) (op : GBranchOp) (s : State) : Host.Outcome State Fault Refusal :=
  done s (s.core n fun t _ =>
    match op with
    | .cond c a b target => if gcond c (t.greg n a) (t.greg n b) then t.gpc n target.toNat else t.gnext n
    | .jump target => t.gpc n target.toNat
    | .call link target => (t.putGreg n link (BitVec.ofNat 32 ((t.groom n).pc + 4))).gpc n target.toNat
    | .ret link => t.gpc n (t.greg n link).toNat)

/-! ### The core's address space -/

/-- The 32-bit word of a command register area as the core reads it: the arguments are the snapshot its GO took (R152). -/
def State.areaWord (s : State) (r : GSeq) (off : Nat) : Nat :=
  if 0x40 ≤ off ∧ off < 0xC0 then (r.go.args.getD ((off - 0x40) / 4) 0).toNat
  else if 0x20 ≤ off ∧ off < 0x40 then s.grmTbl r.ctx ((off - 0x20) / 4)
  else
    match Reg.groomRegs.find? fun x => decide (x.1.base % 0x100 ≤ off) && decide (off < x.1.base % 0x100 + 4 * max 1 x.1.count) with
    | some x => s.rd x.1 r.ctx ((off - x.1.base % 0x100) / 4)
    | none => 0

def gwidthBytes (w : GWidth) : Nat := match w with | .b8 => 1 | .b16 => 2 | .b32 => 4

/-- A load: its value, or the cause of its fault. -/
def State.gload (s : State) (n : Nat) (r : GSeq) (a k : Nat) : Except Nat Nat :=
  if a % k ≠ 0 then .error causeMisaligned
  else if 0x4000 ≤ a ∧ a < 0x6000 then .ok (leAt (s.scratchRead n (a - 0x4000) k) 0 k)
  else if 0x6000 ≤ a ∧ a < 0x6100 then
    let off := a - 0x6000
    .ok (bits (s.areaWord r (off / 4 * 4)) (8 * (off % 4) + 8 * k - 1) (8 * (off % 4)))
  else if 0x6400 ≤ a ∧ a < 0x6800 then
    let off := a - 0x6400
    let e (i : Nat) : Nat := s.scaleEntry n (s.physScale r.ctx i)
    .ok (if k = 4 then e (off / 2) + 65536 * e (off / 2 + 1) else bits (e (off / 2)) (8 * (off % 2) + 8 * k - 1) (8 * (off % 2)))
  else .error causeRange

/-- A store: the new state, or the cause of its fault. Of the command register area only the return words are written. -/
def State.gstore (s : State) (n : Nat) (r : GSeq) (a k v : Nat) : Except Nat State :=
  if a % k ≠ 0 then .error causeMisaligned
  else if 0x4000 ≤ a ∧ a < 0x6000 then .ok (s.scratchWrite n (a - 0x4000) (leBytes v k) false)
  else if 0x60C0 ≤ a ∧ a < 0x6100 then
    let off := a - 0x60C0
    let old := s.rd Reg.GRM_RET r.ctx (off / 4)
    .ok (s.wr Reg.GRM_RET (putBits old (8 * (off % 4) + 8 * k - 1) (8 * (off % 4)) v) r.ctx (off / 4))
  else if 0x6400 ≤ a ∧ a < 0x6800 then
    let off := a - 0x6400
    let i := off / 2
    if k = 4 then .ok ((s.putScale n (s.physScale r.ctx i) (v % 65536)).putScale n (s.physScale r.ctx (i + 1)) (v / 65536 % 65536))
    else
      let old := s.scaleEntry n (s.physScale r.ctx i)
      .ok (s.putScale n (s.physScale r.ctx i) (putBits old (8 * (off % 2) + 8 * k - 1) (8 * (off % 2)) v))
  else .error causeRange

/-- GROOM_SCRATCH_OP: naturally aligned loads and stores at base + offset. -/
def execGroomScratchOp (n : GroomIx) (store signed : Bool) (w : GWidth) (r base : GReg) (off : BitVec 16) (s : State) :
    Host.Outcome State Fault Refusal :=
  done s (s.core n fun t q =>
    let a := (t.greg n base + off.signExtend 32).toNat
    let k := gwidthBytes w
    if store then
      match t.gstore n q a k (t.greg n r).toNat with
      | .ok u => u.gnext n
      | .error c => t.coreFault n q c
    else
      match t.gload n q a k with
      | .ok v =>
        let x : Word := if signed && v ≥ 2 ^ (8 * k - 1) then BitVec.ofNat 32 (v + 2 ^ 32 - 2 ^ (8 * k)) else BitVec.ofNat 32 v
        (t.putGreg n r x).gnext n
      | .error c => t.coreFault n q c)

/-! ### Banks (R148, R172) -/

/-- An open granule of channel `q` (R191, R432: codes 1 and 3). -/
def State.granuleOpen (s : State) (q g : Nat) : Bool := let c := SMap.get s.granules 0 (768 * q + g); c == 1 || c == 3

/-- Every byte of a span lies in an open granule of the four banks that the context reaches, and so does the address it names where the
span is empty (R6, R148). -/
def State.bankOk (s : State) (p c len : Nat) : Bool :=
  decide (c < 0x60000000) && decide (c + len ≤ 0x60000000) &&
    (List.range ((c + max 1 len - 1) / 2 ^ 21 - c / 2 ^ 21 + 1)).all fun i =>
      let g := c / 2 ^ 21 + i
      g % 8 == p % 8 && s.granuleOpen (p / 8) g

/-- The refresh request stands: bank accesses of the channel's grooms wait for the release (R172, R173). -/
def State.paused (s : State) (q : Nat) : Bool := s.fld Reg.CH_STATUS_OWED 0 q == 8

/-- GLD and GST: a whole 64-byte line, both addresses 64-byte aligned. -/
def State.lineMove (s : State) (n : Nat) (q : GSeq) (store : Bool) (bank sc : Nat) : State :=
  if bank % 64 ≠ 0 || sc % 64 ≠ 0 then s.coreFault n q causeMisaligned
  else match scratchOff sc 64 with
    | none => s.coreFault n q causeRange
    | some off =>
      if !s.bankOk q.ctx bank 64 then s.coreReject n q Reg.GRM_STATUS_ADDR_BAD
      else if s.paused (n / 8) then s
      else if store then (s.putBytes (dramKey (n / 8) bank) (s.scratchRead n off 64)).gnext n
      else (s.scratchWrite n off (s.bytes (dramKey (n / 8) bank) 64) false).gnext n

def execGld (n : GroomIx) (bank sc : GReg) (s : State) : Host.Outcome State Fault Refusal :=
  done s (s.core n fun t q => t.lineMove n q false (t.greg n bank).toNat (t.greg n sc).toNat)

def execGst (n : GroomIx) (bank sc : GReg) (s : State) : Host.Outcome State Fault Refusal :=
  done s (s.core n fun t q => t.lineMove n q true (t.greg n bank).toNat (t.greg n sc).toNat)

/-! ### GMUL (R157 to R160) -/

/-- What GMUL derives from its fields: V, V32, codes in all, blocks of a compressed stream. -/
def gmParts (f : GMulArgs) : Nat := 2 ^ f.partsCode.toNat
def gmV (f : GMulArgs) : Nat := partLen f.kTotal.toNat (gmParts f) f.part.toNat
def gmV32 (f : GMulArgs) : Nat := ((gmV f) + 31) / 32 * 32
def gmCodes (f : GMulArgs) : Nat := f.nc.toNat * (gmV32 f)
def gmBlocks (f : GMulArgs) : Nat := if f.comp then ((gmCodes f) + codesPerBlock f.fmt.toNat - 1) / codesPerBlock f.fmt.toNat else 0
/-- Bytes of A: rows at A_STRIDE, each of V32 elements of two bytes. -/
def gmASpan (f : GMulArgs) : Nat := if (gmV32 f) = 0 then 0 else (f.b.toNat - 1) * f.aStride.toNat + 2 * (gmV32 f)
def gmOutSpan (f : GMulArgs) : Nat := 4 * f.nc.toNat * f.b.toNat

/-- Stored sizes of the blocks, from BLIST. -/
def State.blistSizes (s : State) (n : Nat) (f : GMulArgs) : List Nat :=
  (s.scratchRead n (f.blist.toNat - 0x4000) (gmBlocks f)).map fun b => 64 * b.toNat

def State.gmulBytes (s : State) (n : Nat) (f : GMulArgs) : Nat :=
  if f.comp then (s.blistSizes n f).sum else ((gmCodes f) * fmtBits f.fmt.toNat + 7) / 8

/-- The table that a context's slot names (R177). -/
def State.ctxTable (s : State) (n p t : Nat) : Option (Nat × CodeTable) := SMap.get (s.groom n).tables none (s.physSlot p t)

/-- Format, COMP and zero point as R35, R40 and R71 have them. -/
def gmFmtOk (f : GMulArgs) : Bool :=
  let fmt := f.fmt.toNat
  fmtMatrixOk fmt && !(f.comp && !fmtCodable fmt) && !(f.zpEn && (!fmtIsInt fmt || decide (f.zp.toNat ≥ 2 ^ fmtBits fmt)))

/-- The first check of R160 that fails, as what its rejection does. -/
def State.gmulCheck (s : State) (n : Nat) (q : GSeq) (f : GMulArgs) : Option State :=
  let fmt := f.fmt.toNat
  let rng (a : BitVec 16) (len : Nat) : Bool := (scratchOff a.toNat len).isSome
  if !gmFmtOk f then some (s.fmtReject n q)
  else if decide (f.part.toNat ≥ (gmParts f)) || f.b.toNat == 0 || decide (f.b.toNat > 8) || f.wAddr.toNat % 64 != 0
      || !rng f.a (gmASpan f) || !rng f.out (gmOutSpan f) || (f.comp && !rng f.blist (gmBlocks f))
      || f.a.toNat % 2 != 0 || f.aStride.toNat % 2 != 0 || f.out.toNat % 4 != 0
      || spansMeet f.out.toNat (gmOutSpan f) f.a.toNat (gmASpan f) || (f.comp && spansMeet f.out.toNat (gmOutSpan f) f.blist.toNat (gmBlocks f)) then
    some (s.coreReject n q Reg.GRM_STATUS_DESC_BAD)
  else if !s.bankOk q.ctx f.wAddr.toNat (s.gmulBytes n f) then some (s.coreReject n q Reg.GRM_STATUS_ADDR_BAD)
  else if f.scaleEn && decide (f.nc.toNat > 0) && decide (f.scaleBase.toNat + f.nc.toNat - 1 > 511) then
    some (s.coreReject n q Reg.GRM_STATUS_SCALE_RANGE)
  else if f.comp && !(match s.ctxTable n q.ctx f.slot with | some x => x.2.fmt == fmt | none => false) then
    some (s.coreReject n q Reg.GRM_STATUS_TBL_MISS)
  else none

/-- The verdicts on the blocks of stored sizes `l` that lie whole in the bytes read. -/
def gmulBlocks (crc : Bool) (fmt : Nat) (t : Nat × CodeTable) : List Nat → List Byte → List BlockVerdict
  | [], _ => []
  | z :: r, data => if data.length < z then [] else decodeBlock crc fmt t.1 t.2 (data.take z) :: gmulBlocks crc fmt t r (data.drop z)

/-- How many of the stored blocks lie within the first `len` bytes of the stream. -/
def blocksWithin : List Nat → Nat → Nat
  | [], _ => 0
  | z :: r, len => if z ≤ len then blocksWithin r (len - z) + 1 else 0

/-- Where a GMUL that has read `read` bytes of its weight stream of `total` next stops: at the row boundary of its bank, or at the end (R153,
R172). -/
def gmNext (f : GMulArgs) (total read : Nat) : Nat :=
  min total (((f.wAddr.toNat + read) / 2048 + 1) * 2048 - f.wAddr.toNat)

/-- Bytes of the weight stream in all. -/
def GmulAt.total (g : GmulAt) : Nat := if g.args.comp then g.sizes.sum else ((gmCodes g.args) * fmtBits g.args.fmt.toNat + 7) / 8

/-- Codes that the first `len` bytes of the stream give. -/
def GmulAt.codesIn (g : GmulAt) (len : Nat) : Nat :=
  if g.args.comp then blocksWithin g.sizes len * codesPerBlock g.args.fmt.toNat else len * 8 / fmtBits g.args.fmt.toNat

/-- The verdicts on the blocks read whole; none of a plain stream. -/
def State.gmVerdicts (s : State) (g : GmulAt) : List BlockVerdict :=
  match g.table with
  | some t => if g.args.comp then gmulBlocks s.crc g.args.fmt.toNat t g.sizes g.data else []
  | none => []

/-- Output columns written. -/
def GmulAt.cols (g : GmulAt) : Nat := g.marks.length / g.args.b.toNat

/-- The results of columns `lo` to `hi` − 1, as (value, poisoned), column by column, with what their sums set. A value added to and its
POISON bit are those that scratch held before this group of columns was written (notes/assumptions/70.md). -/
def State.gmColumns (s : State) (n : Nat) (g : GmulAt) (blocks : List BlockVerdict) (lo hi : Nat) : List (FAcc × Bool) × Bool :=
  let f := g.args
  let fmt := f.fmt.toNat
  let kTotal := f.kTotal.toNat
  let cpb := codesPerBlock fmt
  let code (i : Nat) : Nat := if f.comp then (match blocks[i / cpb]? with | some b => b.codes.getD (i % cpb) 0 | none => 0)
    else packedCode g.data (fmtBits fmt) i
  let colBad (c : Nat) : Bool := f.comp && (List.range (gmV32 f)).any fun k =>
    match blocks[(c * (gmV32 f) + k) / cpb]? with | some b => b.cause != 0 | none => false
  let blistBad := f.comp && s.scratchBad n (f.blist.toNat - 0x4000) (gmBlocks f)
  let arow (b : Nat) : List FAcc :=
    let bytes := s.scratchRead n (f.a.toNat - 0x4000 + b * f.aStride.toNat) (2 * (gmV f))
    (List.range (gmV f)).map fun k => ⟨BitVec.ofNat 32 (leAt bytes (2 * k) 2 * 65536), false, false⟩
  let aBad (b : Nat) : Bool := s.scratchBad n (f.a.toNat - 0x4000 + b * f.aStride.toNat) (2 * (gmV32 f))
  let zp := if f.zpEn then some f.zp.toNat else none
  let start := partStart kTotal (gmParts f) f.part.toNat
  let cols := (List.range (hi - lo)).map fun i =>
    let c := lo + i
    let scale := if f.scaleEn then g.scales[c]? else none
    let col := (List.range (gmV f)).map fun k => expandEX16 fmt zp scale (code (c * (gmV32 f) + k))
    ((List.range f.b.toNat).map fun b =>
      let off := f.out.toNat - 0x4000 + 4 * (c * f.b.toNat + b)
      let row := arow b
      let sum := partDot (fun k => accMul (col.getD (k - start) ⟨0, false, false⟩).v (row.getD (k - start) ⟨0, false, false⟩).v)
        kTotal (gmParts f) f.part.toNat
      let old : Word := BitVec.ofNat 32 (leAt (s.scratchRead n off 4) 0 4)
      if colBad c || aBad b || blistBad || (f.add && s.scratchBad n off 4) then ((⟨f32NaN, false, false⟩ : FAcc), true)
      else (if f.add then accAdd ⟨old, false, false⟩ sum else sum, false), col.any (·.inf))
  (cols.flatMap (·.1), cols.any (·.2))

/-- A GMUL that passed its checks reads its weight stream on to its next row boundary, each byte once: blocks whose last byte it has read are
judged, and the columns whose codes it has are written; at the end of the stream the instruction is done. -/
def State.gmulRun (s : State) (n : Nat) (q : GSeq) (g : GmulAt) : State :=
  let f := g.args
  let was := g.data.length
  let next := gmNext f g.total was
  let h := { g with data := g.data ++ s.bytes (dramKey (n / 8) (f.wAddr.toNat + was)) (next - was) }
  let blocks := s.gmVerdicts h
  let tid := match g.table with | some x => x.1 | none => 0
  let first := if was = 0 then 0 else blocksWithin g.sizes was
  let t := (List.range (blocks.length - first)).foldl (fun u i =>
    match blocks[first + i]? with
    | some b =>
      if b.cause ≠ 0 then
        ((u.damageAtGroom (u.stallOf q.ctx) (n / 8) (n % 8) f.tag.toNat tid (first + i) b).setFlag Reg.GRM_STATUS_DAMAGE q.ctx).bump
          Reg.GRM_DMG_CNT_COUNT 1 q.ctx
      else u
    | none => u) s
  let cols := if gmV32 f = 0 || next = g.total then f.nc.toNat else min f.nc.toNat (h.codesIn next / gmV32 f)
  let x := s.gmColumns n h blocks g.cols cols
  let t := t.setIf x.2 Reg.GRM_STATUS_ACC_INF q.ctx
  let t := (t.setIf (x.1.any (·.1.inf)) Reg.GRM_STATUS_ACC_INF q.ctx).setIf (x.1.any (·.1.nan)) Reg.GRM_STATUS_ACC_NAN q.ctx
  let out := f.out.toNat - 0x4000
  let h := { h with marks := g.marks ++ x.1.map (·.2) }
  let t := t.scratchGroup n out (out + 4 * g.marks.length) (x.1.flatMap fun r => leBytes r.1.v.toNat 4) fun i => h.marks.getD (i / 4) false
  if next = g.total then (t.putGroom n { t.groom n with gmul := none }).gnext n
  else t.putGroom n { t.groom n with gmul := some h }

/-- GMUL: its checks and what it captures at issue, then its weight stream, one row of a bank for each step. The bank access waits while the
channel's refreshes run (R172, R173). -/
def execGmul (n : GroomIx) (f : GMulArgs) (s : State) : Host.Outcome State Fault Refusal :=
  match (s.groom n).run, (s.groom n).gmul with
  | some q, some g => done s (if s.paused (n.val / 8) then s else s.gmulRun n q g)
  | _, _ =>
    done s (s.core n fun t q =>
      match t.gmulCheck n q f with
      | some u => u
      | none =>
        if f.nc = 0 || f.kTotal = 0 then t.gnext n
        else
          let g : GmulAt := {
            args := f, sizes := if f.comp then t.blistSizes n f else [], table := if f.comp then t.ctxTable n q.ctx f.slot else none,
            scales := if f.scaleEn then (List.range f.nc.toNat).map fun c => t.scaleEntry n (t.physScale q.ctx (f.scaleBase.toNat + c)) else [] }
          if (gmCodes f) ≠ 0 && t.paused (n.val / 8) then t.putGroom n { t.groom n with gmul := some g }
          else t.gmulRun n q g)

/-! ### GVEC, GRED, GNAR (R161 to R163) -/

/-- Where a scratch operand of `len` bytes lies: its offset, or the cause of the fault. -/
def scratchAt (a align len : Nat) : Except Nat Nat :=
  if a % align ≠ 0 then .error causeMisaligned
  else match scratchOff a len with | some o => .ok o | none => .error causeRange

/-- The offset of a B or C operand where it lies in scratch. -/
def gopndAt (o : GOperand) (count : Nat) : Except Nat Nat :=
  match o with
  | .none => .ok 0
  | .imm _ => .ok 0
  | .vec a => scratchAt a.toNat 4 (4 * count)
  | .scalar a => scratchAt a.toNat 4 4

def State.sword (s : State) (n off : Nat) : Word := BitVec.ofNat 32 (leAt (s.scratchRead n off 4) 0 4)

def State.gopndVal (s : State) (n : Nat) (o : GOperand) (off i : Nat) : Word × Bool :=
  match o with
  | .none => (0, false)
  | .imm w => (w, false)
  | .vec _ => (s.sword n (off + 4 * i), s.scratchBad n (off + 4 * i) 4)
  | .scalar _ => (s.sword n off, s.scratchBad n off 4)

def gopndGiven (o : GOperand) : Bool := match o with | .none => false | _ => true

/-- GVEC: one operation of R122 on each element, over the operands as they stood at the start. -/
def execGvec (n : GroomIx) (op : Fin 26) (a : BitVec 16) (b c : GOperand) (dst : BitVec 16) (count : BitVec 12) (s : State) :
    Host.Outcome State Fault Refusal :=
  done s (s.core n fun t q =>
    let k := count.toNat
    if gopndGiven b != opNeedsB op || gopndGiven c != opNeedsC op then t.coreReject n q Reg.GRM_STATUS_DESC_BAD
    else match scratchAt a.toNat 4 (4 * k), gopndAt b k, gopndAt c k, scratchAt dst.toNat 4 (4 * k) with
      | .ok ao, .ok bo, .ok co, .ok d =>
        let rs := (List.range k).map fun i =>
          let x := t.gopndVal n b bo i
          let y := t.gopndVal n c co i
          (stageRun op (t.sword n (ao + 4 * i)) x.1 y.1, t.scratchBad n (ao + 4 * i) 4 || x.2 || y.2)
        let u := t.scratchStore n d (rs.flatMap fun r => leBytes r.1.v.toNat 4)
          fun i => match rs[i / 4]? with | some r => r.2 | none => false
        (u.putGroom n { u.groom n with sat := (u.groom n).sat + (rs.filter (·.1.sat)).length }).gnext n
      | .error e, _, _, _ => t.coreFault n q e
      | _, .error e, _, _ => t.coreFault n q e
      | _, _, .error e, _ => t.coreFault n q e
      | _, _, _, .error e => t.coreFault n q e)

def gredOp (op : GRedOp) : Nat := match op with | .sum => 0 | .max => 1 | .min => 2 | .maxi => 3 | .mini => 4

/-- GRED: a SUM with K_TOTAL = 0 carries no part fields and follows R57 over COUNT elements. -/
def execGred (n : GroomIx) (op : GRedOp) (src : BitVec 16) (count : BitVec 12) (idxBase : Word) (kTotal : BitVec 24)
    (partsCode : BitVec 2) (part : BitVec 3) (dst idxDst : BitVec 16) (s : State) : Host.Outcome State Fault Refusal :=
  done s (s.core n fun t q =>
    let k := count.toNat
    let whole := kTotal = 0
    let parts := if whole then 1 else 2 ^ partsCode.toNat
    let total := if whole then k else kTotal.toNat
    let p := if whole then 0 else part.toNat
    let useIdx := gredOp op ≥ 3
    if gredOp op = 0 && !whole && (decide (p ≥ parts) || partLen total parts p != k) then t.coreReject n q Reg.GRM_STATUS_DESC_BAD
    else match scratchAt src.toNat 4 (4 * k), scratchAt dst.toNat 4 4, (if useIdx then scratchAt idxDst.toNat 4 4 else .ok 0) with
      | .ok so, .ok d, .ok x =>
        let l := (List.range k).map fun i => t.sword n (so + 4 * i)
        let bad := t.scratchBad n so (4 * k)
        let r := if gredOp op = 0 then reduceSum total parts p l (decide (k > 0)) bad
          else reduceMax (gredOp op) idxBase.toNat (l.map fun v => (v, true)) bad
        let u := t.scratchWrite n d (leBytes r.value.toNat 4) r.poison
        let u := if useIdx then u.scratchWrite n x (leBytes r.index 4) r.poison else u
        ((u.setIf r.inf Reg.GRM_STATUS_ACC_INF q.ctx).setIf r.nan Reg.GRM_STATUS_ACC_NAN q.ctx).gnext n
      | .error e, _, _ => t.coreFault n q e
      | _, .error e, _ => t.coreFault n q e
      | _, _, .error e => t.coreFault n q e)

/-- GNAR: ties away from zero (R46); its counts join the stall's at completion. -/
def execGnar (n : GroomIx) (fmt : BitVec 4) (zpEn : Bool) (zp : Byte) (src dst : BitVec 16) (count : BitVec 12) (s : State) :
    Host.Outcome State Fault Refusal :=
  done s (s.core n fun t q =>
    let k := count.toNat
    let f := fmt.toNat
    let w := fmtBits f
    if !fmtOk f || (zpEn && (!fmtIsInt f || decide (zp.toNat ≥ 2 ^ w))) then t.fmtReject n q
    else match scratchAt src.toNat 4 (4 * k), scratchAt dst.toNat (if w ≥ 16 then w / 8 else 1) (rowBytes f k) with
      | .ok so, .ok d =>
        let z := if zpEn then some zp.toNat else none
        let l := (List.range k).map fun i => narrow true f z (f32Dec (t.sword n (so + 4 * i)))
        let codes := padCodes f (l.map fun x => some x.code)
        let old := t.scratchRead n d (rowBytes f k)
        let new := (List.range codes.length).foldl (fun b i => putCode b w i ((codes.getD i none).getD 0)) old
        -- a byte is poisoned where a code of it came from a poisoned word
        let u := t.scratchStore n d (new.take old.length) fun i =>
          (List.range k).any fun e => decide (e * w < 8 * i + 8) && decide (8 * i < e * w + w) && t.scratchBad n (so + 4 * e) 4
        let g := u.groom n
        (u.putGroom n { g with sat := g.sat + (l.filter (·.sat)).length, nan := g.nan + (l.filter (·.nanLost)).length }).gnext n
      | .error e, _ => t.coreFault n q e
      | _, .error e => t.coreFault n q e)

/-! ### GTBL, GSCL -/

/-- GTBL: a table image from scratch under R77; a bad one empties the slot. An image in scratch is aligned to 4 bytes (DESIGN CHOICE,
notes/assumptions/75.md). -/
def execGtbl (n : GroomIx) (slot : Fin 8) (src : BitVec 16) (s : State) : Host.Outcome State Fault Refusal :=
  done s (s.core n fun t q =>
    match scratchAt src.toNat 4 64 with
    | .error e => t.coreFault n q e
    | .ok o =>
      let size := tableImageSize (tableImageFmt (t.scratchRead n o 64))
      match scratchOff src.toNat size with
      | none => t.coreFault n q causeRange
      | some _ =>
        let img := t.scratchRead n o size
        match parseTable img with
        | some x => (t.putGroomTable q.ctx n slot (some (tableImageId img, x))).gnext n
        | none => (t.putGroomTable q.ctx n slot none).coreReject n q Reg.GRM_STATUS_TBL_BAD)

/-- GSCL: `count` BF16 entries from scratch into the scale file, checked under R43 before the context's offset is added (R177). -/
def execGscl (n : GroomIx) (entry : BitVec 9) (src : BitVec 16) (count : BitVec 10) (s : State) : Host.Outcome State Fault Refusal :=
  done s (s.core n fun t q =>
    let k := count.toNat
    if k > 0 && entry.toNat + k - 1 > 511 then t.coreReject n q Reg.GRM_STATUS_SCALE_RANGE
    else match scratchAt src.toNat 2 (2 * k) with
      | .error e => t.coreFault n q e
      | .ok o =>
        ((List.range k).foldl (fun u i =>
          u.putScale n (u.physScale q.ctx (entry.toNat + i)) (leAt (t.scratchRead n (o + 2 * i) 2) 0 2)) t).gnext n)

/-! ### GSEND, GRECV (R165, R166), GWAIT, GEND -/

/-- Where the flits of a GSEND go, as the destination of the first; none where R165 rejects it. -/
def State.sendDst (s : State) (p : Nat) (d : GDest) (flits : Nat) : Option FlitDst :=
  match d with
  | .groom i =>
    let target := 256 * (p / 256) + i.val
    match s.ownerOf (target / 8), s.ownerOf (p / 8) with
    | some a, some b => if a.1 = b.1 then (s.hostOf target).map fun h => FlitDst.groom h else none
    | _, _ => none
  | .stb off =>
    if off.toNat % 64 = 0 && flits % 2 = 0 && decide (off.toNat + 32 * flits ≤ stbSize) then some (.stb (s.stallOf p) off.toNat) else none

/-- GSEND. -/
def execGsend (n : GroomIx) (dest : GDest) (src : BitVec 16) (flits : BitVec 9) (s : State) : Host.Outcome State Fault Refusal :=
  done s (s.core n fun t q =>
    let k := flits.toNat
    match scratchAt src.toNat 32 (32 * k) with
    | .error e => t.coreFault n q e
    | .ok o =>
      match t.sendDst q.ctx dest k with
      | none => t.coreReject n q Reg.GRM_STATUS_ADDR_BAD
      | some d =>
        let mk (i : Nat) : ChainFlit :=
          { src := n, ctx := q.ctx, data := t.scratchRead n (o + 32 * i) 32, poison := t.scratchBad n (o + 32 * i) 32,
            dst := match d with | .groom h => .groom h | .stb st off => .stb st (off + 32 * i) }
        (State.advance { t with chain := t.chain ++ (List.range k).map mk }).gnext n)

/-- Flits taken from the receive queue into scratch, at most `fuel`. -/
def State.takeFlits (s : State) (n off : Nat) : Nat → State
  | 0 => s
  | k + 1 =>
    let g := s.groom n
    match g.rx with
    | [] => s
    | f :: r =>
      State.takeFlits (((s.putGroom n { g with rx := r, recvDone := g.recvDone + 1 }).scratchWrite n (off + 32 * g.recvDone) f.1 f.2).advance) n off k

/-- GRECV: it waits while the queue is empty and goes on from the flits it has. -/
def execGrecv (n : GroomIx) (dst : BitVec 16) (flits : BitVec 9) (s : State) : Host.Outcome State Fault Refusal :=
  done s (s.core n fun t q =>
    match scratchAt dst.toNat 32 (32 * flits.toNat) with
    | .error e => t.coreFault n q e
    | .ok o =>
      let u := t.takeFlits n o (flits.toNat - (t.groom n).recvDone)
      if (u.groom n).recvDone ≥ flits.toNat then (u.putGroom n { u.groom n with recvDone := 0 }).gnext n else u)

/-- GWAIT: an engine command has finished when its command has run, so every engine is idle here. -/
def execGwait (n : GroomIx) (_engine : GEngine) (s : State) : Host.Outcome State Fault Refusal :=
  done s (s.core n fun t _ => t.gnext n)

/-- GEND: the sequence has ended; it completes under R154. -/
def execGend (n : GroomIx) (s : State) : Host.Outcome State Fault Refusal :=
  done s (s.core n fun t q => t.putGroom n { t.groom n with run := some { q with ended := true } })

/-- An instruction the core does not list (R149). -/
def execGroomUnlistedInstruction (n : GroomIx) (s : State) : Host.Outcome State Fault Refusal :=
  done s (s.core n fun t q => t.coreFault n q causeUnlisted)

end Sys2Proof.Machine
end

