-- ==== Sys2Proof/Machine/LineCode.lean ====
section
/-! DEFINITION. The symbol codes of DRAM lines: Reed–Solomon codes over GF(2⁸) with eight check symbols on the stacks and four on the tier
(08_memory_system.md R201, R202, R218). -/
namespace Sys2Proof.Machine

/-! ### The field: polynomial x⁸ + x⁴ + x³ + x² + 1, primitive element 0x02 -/

/-- Times α. -/
def gfDouble (a : Nat) : Nat := if a ≥ 128 then (2 * a % 256) ^^^ 0x1D else 2 * a

/-- Product of two symbols, from the highest bit of `b` down. -/
def gfMulFrom (a b : Nat) : Nat → Nat → Nat
  | 0, acc => acc
  | n + 1, acc => gfMulFrom a b n (gfDouble acc ^^^ (if b / 2 ^ n % 2 = 1 then a else 0))
def gfMul (a b : Nat) : Nat := gfMulFrom a b 8 0

def gfPow (a : Nat) : Nat → Nat
  | 0 => 1
  | n + 1 => gfMul a (gfPow a n)

/-- The inverse of a symbol that is not 0: its power 254, as the product of its powers 2, 4, ..., 128. -/
def gfInvFrom (sq acc : Nat) : Nat → Nat
  | 0 => acc
  | n + 1 => let q := gfMul sq sq; gfInvFrom q (gfMul acc q) n
def gfInv (a : Nat) : Nat := gfInvFrom a 1 7

/-- αⁱ. -/
def alpha (i : Nat) : Nat := gfPow 2 i

/-! ### Encoding -/

/-- A polynomial, highest degree first, times (x − r). -/
def gfTimesRoot (p : List Nat) (r : Nat) : List Nat := List.zipWith (· ^^^ ·) (p ++ [0]) (0 :: p.map (gfMul r))

/-- The generator: the product of (x − αⁱ) for i below `n`, highest degree first. -/
def rsGenerator (n : Nat) : List Nat := (List.range n).foldl (fun p i => gfTimesRoot p (alpha i)) [1]

/-- One message symbol enters the remainder. `g`: the generator below its leading term. -/
def rsStep (g : List Nat) (rem : List Nat) (sym : Nat) : List Nat :=
  let f := sym ^^^ rem.getD 0 0
  List.zipWith (· ^^^ ·) (rem.drop 1 ++ [0]) (g.map (gfMul f))

/-- The `n` check symbols of a message: the remainder of message · xⁿ by the generator. -/
def rsChecks (n : Nat) (msg : List Nat) : List Nat :=
  let g := (rsGenerator n).drop 1
  msg.foldl (rsStep g) (List.replicate n 0)

/-! ### Decoding -/

/-- The value of a word, highest degree first, at αⁱ. -/
def rsSyndrome (word : List Nat) (i : Nat) : Nat :=
  let x := alpha i
  word.foldl (fun acc s => gfMul acc x ^^^ s) 0

/-- What decoding a codeword finds: no error, the places in the word (0 for the highest degree) and values of the symbols to correct, or
more than it corrects. -/
inductive RsFound
  | clean
  | fix (l : List (Nat × Nat))
  | beyond
deriving DecidableEq, Repr

/-- One symbol in error: each syndrome is α to its place times the one before. -/
def rsOne (len : Nat) (syn : List Nat) : Option (Nat × Nat) :=
  (List.range len).findSome? fun d =>
    let x := alpha d
    if syn.getD 0 0 != 0 && (List.range (syn.length - 1)).all fun j => syn.getD (j + 1) 0 == gfMul x (syn.getD j 0)
    then some (len - 1 - d, syn.getD 0 0) else none

/-- Two symbols in error: the roots of x² + ax + b, where each syndrome is a times the one before plus b times the one before that. -/
def rsTwo (len : Nat) (syn : List Nat) : Option (List (Nat × Nat)) :=
  let s (j : Nat) : Nat := syn.getD j 0
  let det := gfMul (s 1) (s 1) ^^^ gfMul (s 0) (s 2)
  if det = 0 then none
  else
    let inv := gfInv det
    let a := gfMul inv (gfMul (s 0) (s 3) ^^^ gfMul (s 1) (s 2))
    let b := gfMul inv (gfMul (s 1) (s 3) ^^^ gfMul (s 2) (s 2))
    if !(List.range (syn.length - 2)).all fun j => s (j + 2) == gfMul a (s (j + 1)) ^^^ gfMul b (s j) then none
    else match (List.range len).filter fun d => let x := alpha d; gfMul x x ^^^ gfMul a x ^^^ b == 0 with
      | [d, e] =>
        let y := gfMul (gfInv (alpha d ^^^ alpha e)) (s 1 ^^^ gfMul (s 0) (alpha e))
        some [(len - 1 - d, y), (len - 1 - e, y ^^^ s 0)]
      | _ => none

/-- The decoder of a code with `n` check symbols, which corrects `cap` (1 or 2) symbols: the one codeword within `cap` symbols of the
word, where there is one. -/
def rsDecode (n cap : Nat) (word : List Nat) : RsFound :=
  let syn := (List.range n).map (rsSyndrome word)
  if syn.all (· == 0) then .clean
  else match rsOne word.length syn with
    | some e => .fix [e]
    | none => if cap < 2 then .beyond else match rsTwo word.length syn with
      | some l => .fix l
      | none => .beyond

/-- The four address symbols of a line (not stored). -/
def addressSymbols (a : Nat) : List Nat := (List.range 4).map fun i => a / 256 ^ i % 256

/-- The check symbols that a line of `data` written at address value `a` gets. -/
def lineChecks (n a : Nat) (data : List Byte) : List Byte :=
  (rsChecks n (addressSymbols a ++ data.map BitVec.toNat)).map (BitVec.ofNat 8)

end Sys2Proof.Machine
end

