-- ==== Sys2Proof/Machine/Memory.lean ====
section
/-! DEFINITION. The stacked DRAM and the LPDDR5X tier: address maps, the symbol codes, request queues, refresh, scrubbing, temperature and
repair (07_placement_and_toolchain.md R182 to R191, 08_memory_system.md R194 to R224, R503; 06_grooms.md R171 to R174). -/
namespace Sys2Proof.Machine

/-! ### Address maps (R182 to R186, R217, R473) -/

/-- Stack channel and channel-local address of a host-linear address (R182). -/
def hostLinear (x8 : Bool) (a : Nat) : Nat × Nat :=
  let c := (bits a 12 8) ^^^ (bits a 20 16)
  if x8 then (32 * bits a 15 13 + c, bits a 38 16 * 256 + bits a 7 0)
  else (32 * bits a 14 13 + c, bits a 37 16 * 512 + bits a 15 15 * 256 + bits a 7 0)

/-- The inverse of R183. -/
def toHostLinear (x8 : Bool) (q c : Nat) : Nat :=
  let hi := if x8 then bits c 30 8 * 2 ^ 16 + q / 32 * 2 ^ 13 else bits c 30 9 * 2 ^ 16 + bits c 8 8 * 2 ^ 15 + q / 32 * 2 ^ 13
  hi + ((q % 32) ^^^ (bits hi 20 16)) * 2 ^ 8 + c % 256

def stackedEnd (x8 : Bool) : Nat := if x8 then 0x6000000000 else 0x3000000000
/-- First tier channel and channels in service (R217). -/
def State.lpNch (s : State) : Nat := min 64 (s.fld Reg.MEM_LP_CFG_NCH)
def State.lpFirst (s : State) : Nat := if s.part.x8 && s.fld Reg.MEM_LP_CFG_HALVES == 2 then 32 else 0
def tierLine : Nat := 0x8000000000
/-- Bytes of the usable range of the tier. -/
def State.tierBytes (s : State) : Nat := s.lpNch * 15 * 2 ^ 29

/-- lp_map of R217: channel and raw address of the data line. -/
def State.lpMap (s : State) (a : Nat) : Nat × Nat :=
  let l := (a - tierLine) / 64
  let g := l / 15
  (s.lpFirst + g % s.lpNch, g / s.lpNch * 1024 + l % 15 * 64 + a % 64)
/-- The four check bytes of a data line (R217). -/
def State.lpCheck (s : State) (a : Nat) : Nat :=
  let l := (a - tierLine) / 64
  l / 15 / s.lpNch * 1024 + 960 + 4 * (l % 15)
/-- Data line index L of a raw line of a tier channel, for NCH = `nch` and P0 = `p0`. -/
def lineIndex (nch p0 p a : Nat) : Nat := (a / 1024 * nch + (p - p0)) * 15 + a % 1024 / 64
def State.lpLineIndex (s : State) (p a : Nat) : Nat := lineIndex s.lpNch s.lpFirst p a
/-- The index for which the check symbols of a tier line that lists none were made. -/
def State.lpBaseIndex (s : State) (p a : Nat) : Nat :=
  match s.tierWas with | none => s.lpLineIndex p a | some x => lineIndex x.1 x.2 p a

/-- Where a device physical address lies in a view (R186, R473, R474). -/
def State.place (s : State) (view : Bool) (a : Nat) : LineRef :=
  let dram (x : Nat × Nat) : LineRef := if s.chanUp x.1 && decide (x.2 < 0x60000000) then .dram x.1 x.2 else .hole
  if view then
    if 0xC000000000 ≤ a ∧ a < 0xC000000000 + s.nChan * 2 ^ 31 then dram ((a - 0xC000000000) / 2 ^ 31, (a - 0xC000000000) % 2 ^ 31)
    else .hole
  else if a < stackedEnd s.part.x8 then dram (hostLinear s.part.x8 a)
  else if tierLine ≤ a ∧ a < tierLine + s.tierBytes then let x := s.lpMap a; .tier x.1 x.2
  else if 0x10000000000 ≤ a ∧ a < 0x10010000000 then
    let st := (a - 0x10000000000) / 2 ^ 24
    if s.stallUp st then .stb st (a % 2 ^ 24) else .hole
  else if 0x11000000000 ≤ a ∧ a < 0x11001300000 then .reg (a - 0x11000000000)
  else .hole

/-! ### What a stall may reach (R229, R479) -/

/-- The table region of a paddock (R282): its root tables from ROOT_BASE, then on a 4 KiB boundary one leaf table for each page of its
pools (notes/assumptions/34.md). -/
def State.leafStart (s : State) (p : Nat) : Nat :=
  let b := SMap.get s.tackPdk [] p
  (leAt b 8 8 / 64 * 64 + leAt b 6 2 * 512 * leAt b 44 2 + 4095) / 4096 * 4096
def State.tableRegion (s : State) (p : Nat) : Nat × Bool × Nat :=
  let b := SMap.get s.tackPdk [] p
  let base := leAt b 8 8 / 64 * 64
  (base, bit (leAt b 8 8) 0, s.leafStart p + 4096 * (leAt b 16 3 + leAt b 20 3) - base)

/-- The address that a line of the stacks has in a view; both views name one memory (R187). -/
def State.addressIn (s : State) (view : Bool) (q c : Nat) : Nat :=
  if view then 0xC000000000 + q * 2 ^ 31 + c else toHostLinear s.part.x8 q c

/-- A device address of one view, as an address of another; a place outside the stacks has one address. -/
def State.inView (s : State) (view : Bool) (a : Nat) (want : Bool) : Option Nat :=
  if view == want then some a
  else match s.place view a with
    | .dram q c => some (s.addressIn want q c)
    | _ => none

/-- A device address lies in the table region of a paddock, whichever view names it (R187). -/
def State.inTables (s : State) (p : Nat) (view : Bool) (a : Nat) : Bool :=
  let t := s.tableRegion p
  match s.inView view a t.2.1 with
  | some x => decide (t.1 ≤ x) && decide (x < t.1 + t.2.2)
  | none => false

/-- The memory regions that the tack image gives a stall's paddock: the channels its stalls own, its tier pool and its table region
(notes/assumptions/25.md). -/
def State.inRegions (s : State) (st : Nat) (view : Bool) (a : Nat) : Bool :=
  match s.paddockOf st with
  | none => false
  | some p =>
    s.inTables p view a ||
    match s.place view a with
    | .dram q _ => (match s.ownerOf q with | some o => s.paddockOf o.1 == some p | none => false)
    | .tier _ _ =>
      let b := SMap.get s.tackPdk [] p
      let base := leAt b 24 8 / 2 ^ 16 * 2 ^ 16
      decide (base ≤ a) && decide (a < base + leAt b 20 3 * 65536)
    | _ => false

/-- R479 for a DMA channel or the short path of a stall. -/
def State.dmaMay (s : State) (st : Nat) (view : Bool) (a : Nat) : Bool :=
  match s.place view a with
  | .stb t _ => s.samePaddock st t
  | .reg off =>
    let o := off - 0x300000 - st * 0x100000
    decide (off ≥ 0x300000 + st * 0x100000) &&
      ((decide (0x10000 ≤ o) && decide (o < 0x14000)) || (decide (0xA4000 ≤ o) && decide (o < 0xA6400)))
  | _ => s.inRegions st view a

/-! ### The symbol codes (R201 to R205, R218) -/

/-- The lane group that carries a symbol of a stack line (R195). -/
def laneGroup (sym : Nat) : Nat := if sym < 64 then sym % 32 else 32 + (sym - 64) % 4

def xorAt (l : List Byte) (e : Nat × Byte) : List Byte := if e.1 < l.length then l.set e.1 (l.getD e.1 0 ^^^ e.2) else l

/-- What reading a coded line answers: good data, data corrected with the symbols that were corrected (data bytes 0 to 63, then check
symbols), or an uncorrectable error. -/
inductive LineRead
  | clean
  | corrected (data : List Byte) (syms : List Nat)
  | uncorrectable
deriving DecidableEq, Repr

/-- The `n` check symbols stored for the line at key `k`, those of address value `base` where none are listed. -/
def State.checksOf (s : State) (k n base : Nat) : List Byte :=
  match SMap.get s.checks [] k with
  | [] => lineChecks n base (s.bytes k 64)
  | l => l
/-- Stores check symbols beside the line's data; those of the data itself at address value `base` are not listed. -/
def State.putChecks (s : State) (k n base : Nat) (l : List Byte) : State :=
  { s with checks := SMap.set s.checks [] k (if l = lineChecks n base (s.bytes k 64) then [] else l) }
/-- A whole line stored with new check symbols, those that an unlisted line holds. -/
def State.putLine (s : State) (k : Nat) (l : List Byte) : State :=
  let t := s.putBytes k l
  { t with checks := SMap.set t.checks [] k [] }
/-- A whole line stored with the check symbols of address value `a`. -/
def State.putLineAt (s : State) (k n base a : Nat) (l : List Byte) : State :=
  if base = a then s.putLine k l else (s.putBytes k l).putChecks k n base (lineChecks n a l)

/-- Errors that fall on the stored symbols of a line. -/
def State.upsetLine (s : State) (k n base : Nat) (upset : List (Nat × Byte)) : State :=
  if upset = [] then s
  else
    let l := upset.foldl xorAt (s.bytes k 64 ++ s.checksOf k n base)
    (s.putBytes k (l.take 64)).putChecks k n base (l.drop 64)

/-- The decoder on the line at key `k` read at address value `a` (R202, R218): the codeword within `cap` symbols of what is stored; a
correction placed on an address symbol is uncorrectable, so that a line written at another address value never passes. Five or more
symbols in error (four on the tier) bring the stored word within reach of another codeword or of none (notes/assumptions/29.md, DEDUCED). -/
def State.decodeLine (s : State) (k n cap base a : Nat) : LineRead :=
  if base = a ∧ SMap.get s.checks [] k = [] then .clean
  else match rsDecode n cap (addressSymbols a ++ (s.bytes k 64).map BitVec.toNat ++ (s.checksOf k n base).map BitVec.toNat) with
    | .clean => .clean
    | .beyond => .uncorrectable
    | .fix l =>
      if l.any fun e => decide (e.1 < 4) then .uncorrectable
      else .corrected ((l.map fun e => (e.1 - 4, BitVec.ofNat 8 e.2)).foldl xorAt (s.bytes k 64)) (l.map fun e => e.1 - 4)

/-- A corrected line of channel `q`: counted, flagged, the first since the tack load logged (R452), the row entered in the repair table
at its second corrected line (R459). -/
def rowOf (c : Nat) : Nat × Nat :=
  let g := c / 2 ^ 21
  let u := c % 2 ^ 21 / 2 ^ 11
  (4 * (g % 8) + u % 4, 256 * (g / 8) + u / 4)

def State.noteCorrected (s : State) (q c : Nat) (syms : List Nat) : State :=
  let t := if s.fld Reg.CH_CE_CNT_COUNT 0 q = 0 then s.fault 0x01 2 q c else s
  let t := (t.countErr Reg.CH_CE_CNT_COUNT Reg.FLT_THR_CH_CE 2 q 0 q).setFlag Reg.CH_STATUS_CE 0 q
  let g := (syms.map laneGroup).eraseDups
  let t := match g with
    | [k] => (t.setFld Reg.CH_LANE_GROUP k 0 q).setFlag Reg.CH_LANE_VALID 0 q
    | _ => t
  let row := (q, (rowOf c).1, (rowOf c).2)
  let again := t.corrected.any fun x => x.1 == q && rowOf x.2 == rowOf c && x.2 != c
  { t with
    corrected := if t.corrected.contains (q, c) then t.corrected else t.corrected ++ [(q, c)],
    repairTable := if again && !t.sagNow && !t.repairTable.contains row then t.repairTable ++ [row] else t.repairTable
    repairRetry := if again && t.sagNow && !(t.repairTable ++ t.repairRetry).contains row then t.repairRetry ++ [row] else t.repairRetry }

/-- An uncorrectable line (R203). -/
def State.noteUncorrectable (s : State) (q c : Nat) : State :=
  let t := if s.flag Reg.CH_STATUS_UE 0 q then s else s.setFld Reg.CH_ERR_ADDR_C c 0 q
  ((t.fault 0x02 2 q c).countErr Reg.CH_UE_CNT_COUNT Reg.FLT_THR_CH_UE 2 q 0 q).setFlag Reg.CH_STATUS_UE 0 q

/-- Reads line `c` of channel `q`, on whose cells the errors `upset` have fallen: its data and whether it was uncorrectable. An open
granule has no code: the errors stay in its data (R175). -/
def State.dramRead (s : State) (q c : Nat) (upset : List (Nat × Byte) := []) : State × List Byte × Bool :=
  let k := dramKey q c
  if s.granuleOpen q (c / 2 ^ 21) then
    let t := if upset = [] then s else s.putBytes k (upset.foldl xorAt (s.bytes k 64))
    (t, t.bytes k 64, false)
  else
    let t := s.upsetLine k 8 (c / 64) upset
    match t.decodeLine k 8 2 (c / 64) (c / 64) with
    | .clean => (t, t.bytes k 64, false)
    | .corrected l syms => (t.noteCorrected q c syms, l, false)
    | .uncorrectable => (t.noteUncorrectable q c, t.bytes k 64, true)

/-- Writes `l` at channel-local address `c`, within one line: whole lines and open granules directly; a part of a protected line as a
read-modify-write (R503). -/
def State.dramWrite (s : State) (q c : Nat) (l : List Byte) : State :=
  let line := c / 64 * 64
  let k := dramKey q line
  if s.granuleOpen q (c / 2 ^ 21) then s.putBytes (dramKey q c) l
  else if l.length = 64 then s.putLine k l
  else
    let r := s.dramRead q line
    if r.2.2 then r.1
    else (r.1.putLine k r.2.1).putBytes (dramKey q c) l

def tierKey (p a : Nat) : Nat := 2 ^ 40 + p * 2 ^ 33 + a

/-- Uncorrectable and corrected lines of the tier (R218); both thresholds mark the channel's half (R223). -/
def State.noteTier (s : State) (p a : Nat) (ue : Bool) : State :=
  let line := a / 64
  if ue then
    let t := if s.flag Reg.LP_STATUS_UE 0 p then s else s.setFld Reg.LP_ERR_ADDR_LINE line 0 p
    ((t.fault 0x04 4 p line).countErr Reg.LP_UE_CNT_COUNT Reg.FLT_THR_LP_UE 4 p 0 p).setFlag Reg.LP_STATUS_UE 0 p
  else
    let t := if s.fld Reg.LP_CE_CNT_COUNT 0 p = 0 then s.fault 0x03 4 p line else s
    (t.countErr Reg.LP_CE_CNT_COUNT Reg.FLT_THR_LP_CE 4 p 0 p).setFlag Reg.LP_STATUS_CE 0 p

/-- Reads a data line of tier channel `p`. -/
def State.tierRead (s : State) (p a : Nat) (upset : List (Nat × Byte) := []) : State × List Byte × Bool :=
  let k := tierKey p a
  let t := s.upsetLine k 4 (s.lpBaseIndex p a) upset
  match t.decodeLine k 4 1 (s.lpBaseIndex p a) (s.lpLineIndex p a) with
  | .clean => (t, t.bytes k 64, false)
  | .corrected l _ => (t.noteTier p a false, l, false)
  | .uncorrectable => (t.noteTier p a true, t.bytes k 64, true)

/-- Stores the whole data line at raw address `a` of tier channel `p`. -/
def State.putTierLine (s : State) (p a : Nat) (l : List Byte) : State :=
  s.putLineAt (tierKey p a) 4 (s.lpBaseIndex p a) (s.lpLineIndex p a) l

def State.tierWrite (s : State) (p a : Nat) (l : List Byte) : State :=
  let line := a / 64 * 64
  if l.length = 64 then s.putTierLine p line l
  else
    let r := s.tierRead p line
    if r.2.2 then r.1
    else r.1.putTierLine p line (r.2.1.take (a % 64) ++ l ++ r.2.1.drop (a % 64 + l.length))

/-! ### Lines of any place -/

/-- A 32-bit word of the register windows that a stall's DMA reaches (R479, R480). -/
def State.winRead32 (s : State) (off : Nat) : Nat :=
  let st := (off - 0x300000) / 0x100000
  let o := (off - 0x300000) % 0x100000
  if o < 0x14000 then s.rd Reg.SCL_FILE st ((o - 0x10000) / 4) else s.windowRead st o 4
def State.winWrite32 (s : State) (off v : Nat) : State :=
  let st := (off - 0x300000) / 0x100000
  let o := (off - 0x300000) % 0x100000
  if o < 0x14000 then s.wr Reg.SCL_FILE v st ((o - 0x10000) / 4) else s.windowWrite st o 4 v

/-- Reads a line: its data and its poison. -/
def State.lineRead (s : State) (r : LineRef) (upset : List (Nat × Byte) := []) : State × List Byte × Bool :=
  match r with
  | .dram q c => s.dramRead q c upset
  | .tier p a => s.tierRead p a upset
  | .stb st off => (s, s.stbRead st off 64, s.linePoison st (off / 64))
  | .reg off => (s, (List.range 16).flatMap fun i => leBytes (s.winRead32 (off + 4 * i)) 4, false)
  | .host fn a =>
    let ep := SMap.get s.hostPoison false (a / 64)
    (if ep then s.cplErr fn aerPoisoned else s, s.bytes (hostKey a) 64, ep)
  | .hole => (s, List.replicate 64 0, false)

/-- Only an STB line keeps poison (R249). -/
def LineRef.keepsPoison (r : LineRef) : Bool := match r with | .stb _ _ => true | _ => false

/-- Writes a whole line. -/
def State.lineWrite (s : State) (r : LineRef) (l : List Byte) (poison : Bool) : State :=
  match r with
  | .dram q c => s.dramWrite q c l
  | .tier p a => s.tierWrite p a l
  | .stb st off => s.stbStore st off (fullCells l) poison
  | .reg off => (List.range 16).foldl (fun u i => u.winWrite32 (off + 4 * i) (leAt l (4 * i) 4)) s
  | .host _ a => { s.putBytes (hostKey a) l with hostPoison := SMap.set s.hostPoison false (a / 64) false }
  | .hole => s

/-- `n` bytes from a device address of the stacks, the tier or an STB window, line by line; none where any line is a hole or a register.
The mark tells whether a line was poisoned. -/
def State.devRead (s : State) (view : Bool) (a n : Nat) : Nat → Option (State × List Byte × Bool)
  | 0 => some (s, [], false)
  | fuel + 1 =>
    if n = 0 then some (s, [], false)
    else
      let k := min n (64 - a % 64)
      match s.place view (a / 64 * 64) with
      | .hole => none
      | .reg _ => none
      | r =>
        let x := s.lineRead r
        match State.devRead x.1 view (a + k) (n - k) fuel with
        | none => none
        | some y => some (y.1, (x.2.1.drop (a % 64)).take k ++ y.2.1, x.2.2 || y.2.2)

/-- Writes part of a line at a device address. -/
def State.placeWrite (s : State) (r : LineRef) (off : Nat) (l : List Byte) : State :=
  match r with
  | .dram q c => s.dramWrite q (c + off) l
  | .tier p a => s.tierWrite p (a + off) l
  | .stb st o => s.stbStore st (o + off) (fullCells l) false
  | _ => s

def State.devWrite (s : State) (view : Bool) (a : Nat) (l : List Byte) : Nat → Option State
  | 0 => some s
  | fuel + 1 =>
    if l = [] then some s
    else
      let k := min l.length (64 - a % 64)
      match s.place view (a / 64 * 64) with
      | .hole => none
      | .reg _ => none
      | r => State.devWrite (s.placeWrite r (a % 64) (l.take k)) view (a + k) (l.drop k) fuel

/-! ### Request queues (R197, R198, R242) -/

def State.chanOf (s : State) (q : Nat) : ChanCtl := SMap.get s.chans {} q
def State.putChan (s : State) (q : Nat) (c : ChanCtl) : State := { s with chans := SMap.set s.chans {} q c }
def State.lpOf (s : State) (p : Nat) : List MemReq := SMap.get s.lpQueue [] p
def State.putLp (s : State) (p : Nat) (l : List MemReq) : State := { s with lpQueue := SMap.set s.lpQueue [] p l }
def chanCap : Nat := 64

/-- The line a request is for. -/
def MemReq.line (r : MemReq) : LineRef := if r.data.isSome then r.flight.dst else r.flight.src
def MemReq.isWrite (r : MemReq) : Bool := r.data.isSome

/-- A request enters the queue of its channel where there is room (R225). -/
def State.push (s : State) (r : MemReq) : Option State :=
  match r.line with
  | .dram q _ =>
    let c := s.chanOf q
    if c.queue.length ≥ chanCap then none else some (s.putChan q { c with queue := c.queue ++ [r] })
  | .tier p _ => some (s.putLp p (s.lpOf p ++ [r]))
  | _ => none

def LineRef.queued (r : LineRef) : Bool := match r with | .dram _ _ => true | .tier _ _ => true | _ => false

/-- Requests that no earlier one of the same source to the same line stands before (R198). -/
def eligible (l : List MemReq) : List MemReq :=
  (List.range l.length).filterMap fun i =>
    match l[i]? with
    | none => none
    | some r => if (l.take i).any fun x => x.owner == r.owner && x.line == r.line then none else some r

def MemReq.chanAddr (r : MemReq) : Nat := match r.line with | .dram _ c => c | .tier _ a => a | _ => 0

/-- A read is served only when no line before it in its transfer is unread that could be poisoned towards a destination that keeps no
poison, so that a halt at a poisoned line leaves no later line delivered (R246, R249). -/
def State.readTurn (s : State) (r : MemReq) : Bool :=
  let unread := (s.dmaOf (r.owner / 8) (r.owner % 8)).unread
  r.isWrite || (if r.flight.dst.keepsPoison then (unread.takeWhile (· != r.flight)).all (·.dst.keepsPoison) else unread.head? == some r.flight)

/-- A request that has waited 256 BCLK or more. -/
def State.aged (s : State) (r : MemReq) : Bool := decide ((s.tb - r.tb).toNat ≥ 256)

/-- The direction a channel serves next, of requests in the directions `ws` (true: write): the current one, but when none is left in it or
after 64 lines in it while the other waits (R197). -/
def ChanCtl.direction (k : ChanCtl) (ws : List Bool) : Bool :=
  if (k.inRow ≥ 64 && ws.any (· != k.writing)) || !ws.contains k.writing then !k.writing else k.writing
/-- Channel-local address `c` lies in an open row. -/
def ChanCtl.rowHit (k : ChanCtl) (c : Nat) : Bool := SMap.get k.rows none (rowOf c).1 == some (rowOf c).2
/-- The controller after it has served line `c`. -/
def ChanCtl.served (k : ChanCtl) (c : Nat) (w : Bool) : ChanCtl :=
  { k with writing := w, inRow := if w = k.writing then k.inRow + 1 else 1, rows := SMap.set k.rows none (rowOf c).1 (some (rowOf c).2) }

/-- The scheduler's choice (R197): a request that has waited 256 BCLK, else one that hits an open row in the current direction, else the
oldest in it. `may`: further conditions on a request. -/
def State.chanPick (s : State) (k : ChanCtl) (may : MemReq → Bool) : Option MemReq :=
  let l := (eligible k.queue).filter may
  let dir := k.direction (l.map (·.isWrite))
  match l.find? s.aged with
  | some r => some r
  | none => match l.find? fun r => r.isWrite == dir && k.rowHit r.chanAddr with
    | some r => some r
    | none => l.find? fun r => r.isWrite == dir

/-- A channel that takes a request now: in service, not behind owed refreshes (R210), not retraining (R214), with room in its queue
(R197). -/
def State.chanReady (s : State) (q : Nat) : Bool :=
  s.chanUp q && !s.paused q && decide (s.tb.toNat ≥ (s.chanOf q).retrain.toNat) && decide ((s.chanOf q).queue.length < chanCap)

/-- Channel `q` takes a request for line `c` and serves it before those that wait (R197). A request that enters and leaves the queue within
one row of the table (of the scrubber, the short path, an SCC, the ATS, a groom port or the host) waits while this is false
(notes/assumptions/71.md, DESIGN CHOICE). -/
def State.chanTakes (s : State) (q c : Nat) (write : Bool) : Bool :=
  let k := s.chanOf q
  let l := (eligible k.queue).filter s.readTurn
  let dir := k.direction (l.map (·.isWrite) ++ [write])
  s.chanReady q && !l.any s.aged && write == dir &&
    !l.any fun r => r.isWrite == dir && (!k.rowHit c || k.rowHit r.chanAddr)

/-- A stack channel belongs to the stall's paddock. -/
def State.ownsChan (s : State) (st q : Nat) : Bool :=
  match s.ownerOf q with | some o => (s.paddockOf o.1).isSome && s.paddockOf o.1 == s.paddockOf st | none => false

/-- The line can be read or written now; only a stack channel makes a request wait. -/
def State.lineReady (s : State) (write : Bool) (r : LineRef) : Bool := match r with | .dram q c => s.chanTakes q c write | _ => true

/-- The controller of a stack channel after a line of it has been read or written. -/
def State.lineServed (s : State) (write : Bool) (r : LineRef) : State :=
  match r with | .dram q c => s.putChan q ((s.chanOf q).served c write) | _ => s

/-- The lines from a device address on. -/
def State.spanLines (s : State) (view : Bool) (a n : Nat) : List LineRef :=
  if n = 0 then [] else (List.range ((a + n - 1) / 64 - a / 64 + 1)).map fun i => s.place view ((a / 64 + i) * 64)
/-- The bytes from a device address on can be read or written now. -/
def State.spanReady (s : State) (write view : Bool) (a n : Nat) : Bool := (s.spanLines view a n).all (s.lineReady write)
def State.spanServed (s : State) (write view : Bool) (a n : Nat) : State := (s.spanLines view a n).foldl (fun u r => u.lineServed write r) s

/-- Every stack channel of a stall's paddock takes requests: what a command that reads tables and pages waits for. -/
def State.paddockReady (s : State) (st : Nat) : Bool :=
  (List.range s.nChan).all fun q => !s.ownsChan st q || s.chanReady q

/-- Lines that are no longer on their way let a pending invalidation complete (R383). -/
def State.invSettle (s : State) (gone : List Flight) : State :=
  let l := s.invPend.map fun x => (x.1, x.2.filter fun f => !gone.contains f)
  let t := { s with invPend := l.filter fun x => x.2 != [] }
  (l.filter fun x => x.2 == []).foldl (fun u x => u.emit (.invalidationDone x.1)) t

/-- Takes one line of a DMA channel's transfer as delivered: a line of a ring counts into its slot. A line whose channel has been reset
since lands all the same (R253). -/
def State.delivered (s : State) (owner : Nat) (f : Flight) : State :=
  let st := owner / 8
  let c := owner % 8
  let d := s.dmaOf st c
  if !d.flights.contains f then s
  else
    let t := (s.putDma st c { d with flights := d.flights.erase f }).invSettle [f]
    let t := t.wr Reg.DMA_CH_BYTES (t.rd Reg.DMA_CH_BYTES st c + 64) st c
    match f.slot, d.ring with
    | some k, some r =>
      let r := { r with lines := SMap.set r.lines 0 k (SMap.get r.lines 0 k + 1) }
      t.putRing st c r.carried
    | _, _ => t

/-- A line moved from its source towards its destination: written at once, or put into the queue of its destination (none where that is
full). A poisoned line towards a destination that keeps no poison is not written: the channel halts (R249); the third part. -/
def State.moveLine (s : State) (owner : Nat) (f : Flight) (slack : Nat) (data : List Byte) (poison : Bool) : Option (State × Bool) :=
  if poison && !f.dst.keepsPoison then some (s, true)
  else if f.dst.queued then (s.push ⟨owner, f, some data, slack, s.tb⟩).map fun t => (t, false)
  else some ((s.lineWrite f.dst data poison).delivered owner f, false)

/-! ### Groom refresh (R171 to R173, R210) -/

/-- Groom positions of a channel whose sequences run. -/
def State.runningOf (s : State) (q : Nat) : List Nat := ((List.range 8).map fun g => 8 * q + g).filter fun p => s.running p

/-- `n` refreshes of all banks of a channel: they leave no row open. -/
def State.refresh (s : State) (q n : Nat) : State :=
  let t := (s.count Reg.CH_REF_CNT_COUNT n 0 q).setFld Reg.CH_STATUS_OWED 0 0 q
  t.putChan q { t.chanOf q with rows := [] }

/-- REFRESH_DUE: performed at once, with any that are owed, while no groom of the channel runs a sequence (notes/assumptions/30.md,
DEDUCED); else postponed. The eighth postponement stops every groom that runs, and the pause counts in its GRM_REF_CNT (R172, R173). -/
def execRefreshDue (q : Chan) (s : State) : Host.Outcome State Fault Refusal :=
  let owed := s.fld Reg.CH_STATUS_OWED 0 q
  if !s.chanUp q then .next s
  else if s.runningOf q = [] then done s (s.refresh q (owed + 1))
  else
    let t := s.setFld Reg.CH_STATUS_OWED (min 8 (owed + 1)) 0 q
    done s (if owed = 7 then (s.runningOf q).foldl (fun u p => u.count Reg.GRM_REF_CNT_COUNT 1 p) t else t)

/-- REFRESH_RELEASE: every groom has stopped; the eight owed refreshes run and the grooms go on. -/
def execRefreshRelease (q : Chan) (s : State) : Host.Outcome State Fault Refusal :=
  if s.paused q && s.chanUp q then done s (s.refresh q 8) else .next s

/-! ### Scrubbing (R205, R218) -/

/-- The first line from C = `c` on that lies in a protected granule of channel `q`. -/
def State.nextProtected (s : State) (q c : Nat) : Option Nat :=
  let g0 := c / 2 ^ 21 % 768
  if c < 0x60000000 && !s.granuleOpen q g0 then some c
  else ((List.range 768).map fun i => (g0 + 1 + i) % 768).find? (fun g => !s.granuleOpen q g) |>.map fun g => g * 2 ^ 21

/-- A line that decodes to corrected data is written back with it (R205), also where the correction is a wrong one (R202). -/
def State.writeBack (s : State) (k n cap base a : Nat) : State :=
  match s.decodeLine k n cap base a with
  | .corrected l _ => s.putLineAt k n base a l
  | _ => s

/-- SCRUB_READ of a stack channel, or (`tier`) of a tier channel: one line, a correctable one written back. -/
def execScrubRead (tier : Bool) (q : Chan) (upset : List (Nat × Byte)) (s : State) : Host.Outcome State Fault Refusal :=
  if !s.flag Reg.MEM_CTRL_SCRUB_EN then .next s
  else if tier then
    let p := q.val % 64
    if s.lpNch = 0 || decide (p < s.lpFirst) || decide (p ≥ s.lpFirst + s.lpNch) then .next s
    else
      let a := SMap.get s.lpScrub 0 p
      let t := (s.tierRead p a upset).1.writeBack (tierKey p a) 4 1 (s.lpBaseIndex p a) (s.lpLineIndex p a)
      let next := if a % 1024 = 896 then a + 128 else a + 64
      done s { t with lpScrub := SMap.set t.lpScrub 0 p (if next ≥ 2 ^ 33 then 0 else next) }
  else match s.nextProtected q (s.chanOf q).scrub with
    | none => .next s
    | some c =>
      if !s.chanTakes q c false then .next s
      else
        let t := (s.dramRead q c upset).1.writeBack (dramKey q c) 8 2 (c / 64) (c / 64)
        done s (t.putChan q { (t.chanOf q).served c false with scrub := (c + 64) % 0x60000000 })

/-! ### Temperatures (R208, R209) -/

/-- Stalls beneath a stack. -/
def stallsOf (k : Nat) : List Nat := [2 * k, 2 * k + 1]

/-- A stall runs at half clock while its own sensor or its stack throttles it. -/
def State.setHalf (s : State) (st : Nat) : State :=
  let half := s.flag Reg.STL_TEMP_SELF_HOT 0 st || s.flag Reg.STK_TEMP_THROTTLE 0 (st / 2)
  (s.setFld Reg.STL_TEMP_HALF (if half then 1 else 0) 0 st).setFld Reg.STL_INFO_HALF (if half then 1 else 0) st

/-- LP_REFRESH: the refresh of one bank changes nothing that the spec lets a reader see. -/
def execLpRefresh (_p : LpChan) (_bank : Fin 16) (s : State) : Host.Outcome State Fault Refusal := .next s

/-- LP_MR4_SAMPLE (R215, R224). -/
def execLpMr4Sample (p : LpChan) (hot : Bool) (s : State) : Host.Outcome State Fault Refusal :=
  done s (s.setFld Reg.LP_STATUS_HOT (if hot then 1 else 0) 0 p)

/-! ### Repair (R213, R214) -/

structure RepairArg where
  q : Nat
  bank : Nat
  row : Nat

def State.repairArg (s : State) : RepairArg :=
  ⟨32 * s.fld Reg.MEM_REPAIR_ARG_STACK + s.fld Reg.MEM_REPAIR_ARG_CHANNEL, s.fld Reg.MEM_REPAIR_ARG_BANK, s.fld Reg.MEM_REPAIR_ARG_ROW⟩

/-- Start-up mode: no image is in force (R179, R430). -/
def State.startup (s : State) : Bool := s.fld Reg.TACK_STATUS_STATE != 2
def State.maintenance (s : State) : Bool := s.fld Reg.TACK_STATUS_STATE == 3

/-- Who may give a repair command (R213). -/
def State.repairMay (s : State) (req : Requester) : Bool :=
  match req with
  | .ostler => true
  | .fn f => f.val == 0 && s.maintenance
  | _ => false

def State.sparesLeft (s : State) (q bank : Nat) : Nat :=
  32 - ((s.softRows ++ s.fusedRows).eraseDups.filter fun r => r.1 == q && r.2.1 == bank).length

def State.refuseRepair (s : State) : State := s.setFlag Reg.MEM_REPAIR_STATUS_REFUSED
def State.doneRepair (s : State) : State := s.setFlag Reg.MEM_REPAIR_STATUS_DONE

/-- The first C of a row of a bank (R147). -/
def rowBase (bank row : Nat) : Nat := (8 * (row / 256) + bank / 4) * 2 ^ 21 + (4 * (row % 256) + bank % 4) * 2 ^ 11

def RepairArg.ok (a : RepairArg) (s : State) : Bool := decide (a.q < s.nChan) && decide (a.row < 24576)

/-- A row entered in the repair table of the flash, once the supply holds (R469). -/
def State.addRepair (s : State) (r : Nat × Nat × Nat) : State :=
  if (s.repairTable ++ s.repairRetry).contains r then s
  else if s.sagNow then { s with repairRetry := s.repairRetry ++ [r] }
  else { s with repairTable := s.repairTable ++ [r] }

/-- SOFT_ROW: the spare's cells stand in place of the row; what they hold, data and check symbols, is not given: free values. -/
def State.softRow (s : State) (req : Requester) : State :=
  let a := s.repairArg
  let r := (a.q, a.bank, a.row)
  if !s.repairMay req || !a.ok s || s.sparesLeft a.q a.bank == 0 then s.refuseRepair
  else
    let k := dramKey a.q (rowBase a.bank a.row)
    let t := (s.putBytes k (s.freeBytes 2048)).tick 2048
    let t := ((List.range 32).foldl (fun u i => { u with checks := SMap.set u.checks [] (k + 64 * i) ((u.tick (8 * i)).freeBytes 8) }) t).tick 256
    (State.addRepair { t with softRows := if t.softRows.contains r then t.softRows else t.softRows ++ [r] } r).doneRepair

def execSoftRow (req : Requester) (s : State) : Host.Outcome State Fault Refusal := done s (s.softRow req)

/-- FUSE_ROW: a soft binding becomes permanent, in start-up mode only. -/
def State.fuseRow (s : State) (req : Requester) : State :=
  let a := s.repairArg
  let r := (a.q, a.bank, a.row)
  if !s.repairMay req || !a.ok s || !s.startup || !s.softRows.contains r || s.sparesLeft a.q a.bank == 0 then s.refuseRepair
  else State.doneRepair { s with fusedRows := if s.fusedRows.contains r then s.fusedRows else s.fusedRows ++ [r] }

def execFuseRow (req : Requester) (s : State) : Host.Outcome State Fault Refusal := done s (s.fuseRow req)

/-- SPARE_LANE: the lane group named goes over to group 36; the channel retrains for 40 µs. -/
def State.spareLane (s : State) (req : Requester) : State :=
  let a := s.repairArg
  let group := bits (s.rd Reg.MEM_REPAIR_ARG) 18 13
  if !s.repairMay req || !a.ok s || decide (group > 35) || s.flag Reg.CH_LANE_SPARED 0 a.q then s.refuseRepair
  else
    let t := s.setFlag Reg.CH_LANE_SPARED 0 a.q
    (t.putChan a.q { t.chanOf a.q with retrain := t.tb + 40000 }).doneRepair

def execSpareLane (req : Requester) (s : State) : Host.Outcome State Fault Refusal := done s (s.spareLane req)

/-- QUERY. -/
def State.query (s : State) (req : Requester) : State :=
  let a := s.repairArg
  if !s.repairMay req || !a.ok s then s.refuseRepair
  else
    ((s.setFld Reg.MEM_REPAIR_STATUS_SPARES_LEFT (s.sparesLeft a.q a.bank)).setFld Reg.MEM_REPAIR_STATUS_LANE_USED
      (s.fld Reg.CH_LANE_SPARED 0 a.q)).doneRepair

def execQuery (req : Requester) (s : State) : Host.Outcome State Fault Refusal := done s (s.query req)

end Sys2Proof.Machine
end

