-- ==== Sys2Proof/Machine/Translation.lean ====
section
/-! DEFINITION. Translation: the device MMU's table walk (10_attention_and_kv.md R259 to R262) and host addresses, page requests and
function events (14_host_interface.md R380 to R385). -/
namespace Sys2Proof.Machine

/-- Moves the timebase to the time an event carries. -/
def State.atTb (s : State) (t : Dword) : State := if t.toNat > s.tb.toNat then { s with tb := t } else s

/-! ### Functions and their events (R385) -/

def State.fnOf (s : State) (f : Nat) : FnState := SMap.get s.fns {} f
def State.putFn (s : State) (f : Nat) (x : FnState) : State := { s with fns := SMap.set s.fns {} f x }

/-- The function that serves HOST-space blocks of a stall (R370). -/
def State.hostFn (s : State) (st : Nat) : Nat :=
  match s.paddockOf st with
  | some p => bits (leAt (SMap.get s.tackPdk [] p) 32 2) 8 0
  | none => 0

/-- The function whose requester ID and translations a HOST-space access of a stall uses (R370): a read within the prompt, at PROMPT_PTR, of
a request whose prompt the running step works on uses the function that submitted the request (notes/assumptions/74.md, DEDUCED). -/
def State.hostFnAt (s : State) (st a : Nat) (write : Bool) : Nat :=
  match s.paddockOf st with
  | none => s.hostFn st
  | some p =>
    let reqs := ((SMap.get s.pdks {} p).step.filter (·.prompt)).map fun r => SMap.get s.ledger {} r.ix
    match reqs.find? fun e => !write && decide (e.promptPtr ≤ a) && decide (a < e.promptPtr + 4 * e.lPrompt) with
    | some e => e.fn
    | none => s.hostFn st

/-- Sources of a function: CQ, REC, ERR. -/
def srcCq : Nat := 0
def srcRec : Nat := 1
def srcErr : Nat := 2

def State.fnVec (s : State) (f src : Nat) : Nat :=
  if src = srcCq then s.fld Reg.FN_IRQ_MAP_CQ_VEC 0 f else if src = srcRec then s.fld Reg.FN_IRQ_MAP_REC_VEC 0 f else s.fld Reg.FN_IRQ_MAP_ERR_VEC 0 f

def State.coalOf (s : State) (f src : Nat) : Coal := SMap.get (s.fnOf f).coal {} src
def State.putCoal (s : State) (f src : Nat) (c : Coal) : State :=
  let x := s.fnOf f
  s.putFn f { x with coal := SMap.set x.coal {} src c }

/-- An event of a source: a message when FN_COAL.COUNT have gathered. -/
def State.fnEvent (s : State) (f src : Nat) : State :=
  let c := s.coalOf f src
  if c.n + 1 ≥ max 1 (s.fld Reg.FN_COAL_COUNT 0 f) then (s.putCoal f src {}).msix f (s.fnVec f src)
  else s.putCoal f src { n := c.n + 1, first := if c.n = 0 then s.tb else c.first }

/-- Sets a bit of FN_STATUS. -/
def State.fnErr (s : State) (f : Nat) (b : Fld) : State := (s.setFlag b 0 f).fnEvent f srcErr

/-- COAL_TIMER: FN_COAL.TIME µs after the first event not yet signalled. -/
def execCoalTimer (fn : Fn) (src : Nat) (t : Dword) (s : State) : Host.Outcome State Fault Refusal :=
  let c := s.coalOf fn src
  let time := s.fld Reg.FN_COAL_TIME 0 fn
  if src < 3 && c.n > 0 && time > 0 && t.toNat ≥ c.first.toNat + time * 1000 then
    done s (((s.atTb t).putCoal fn src {}).msix fn (s.fnVec fn src))
  else .next s

/-! ### Host addresses (R380, R381) -/

inductive Xl
  | ok (a : Nat)
  /-- A Translation Request is on its way. -/
  | wait
  /-- The completion granted no access. -/
  | denied
deriving DecidableEq, Repr

def pageOf (a : Nat) : Nat := a / 4096 * 4096
def AtcEntry.covers (e : AtcEntry) (fn a : Nat) : Bool := e.fn == fn && decide (e.page ≤ a) && decide (a < e.page + e.size)

/-- The address a function's access to host address `a` goes out with. A completion without the access is used once. -/
def State.xlate (s : State) (fn a : Nat) (write : Bool) : State × Xl :=
  if !(s.fnOf fn).ats then (s, .ok a)
  else match s.atc.find? (fun e => e.covers fn a) with
    | some e =>
      if (if write then e.w else e.r) then (s, .ok (e.pa + (a - e.page)))
      else ({ s with atc := s.atc.erase e }, .denied)
    | none =>
      if s.xlReqs.contains (fn, pageOf a) then (s, .wait)
      else
        let t := { s with xlReqs := s.xlReqs ++ [(fn, pageOf a)] }
        ((t.wr Reg.HIF_ATC_MISS (t.rd Reg.HIF_ATC_MISS + 1)).emit (.translationRequest fn (pageOf a)), .wait)

inductive PageAsk
  | waits
  /-- No request is free within the function's allocation. -/
  | retry
  | fail
deriving DecidableEq, Repr

def State.syncPrOut (s : State) (fn : Nat) : State :=
  s.setFld Reg.FN_PR_OUT_COUNT (s.pageReqs.filter fun r => r.fn == fn).length 0 fn

/-- A Page Request for the page of `a`, one at most outstanding for each page (R381). -/
def State.askPage (s : State) (fn a : Nat) : State × PageAsk :=
  let f := s.fnOf fn
  let mine := s.pageReqs.filter fun r => r.fn == fn
  if !f.pri || f.priStop then (s, .fail)
  else if mine.any fun r => r.page == pageOf a then (s, .waits)
  else if mine.length ≥ f.prAlloc then (s, .retry)
  else match (List.range 512).find? fun i => !(mine.any fun r => r.idx == i) with
    | none => (s, .retry)
    | some i =>
      ((State.syncPrOut { s with pageReqs := s.pageReqs ++ [⟨fn, pageOf a, i, s.tb⟩] } fn).emit (.pageRequest fn (pageOf a) i), .waits)

/-- TRANSLATION_COMPLETION: fills the cache, its oldest entry giving way in a full one; a request not outstanding is ignored. -/
def execTranslationCompletion (fn : Fn) (page size pa : Dword) (r w : Bool) (s : State) : Host.Outcome State Fault Refusal :=
  let n := max 4096 size.toNat
  let base := page.toNat / n * n
  let mine (x : Nat × Nat) : Bool := x.1 == fn.val && decide (base ≤ x.2) && decide (x.2 < base + n)
  if s.xlReqs.any mine then
    let keep := (s.atc.filter fun e => !(e.fn == fn.val && decide (base ≤ e.page) && decide (e.page < base + n)))
    let keep := if keep.length ≥ 4096 then keep.drop 1 else keep
    done s { s with xlReqs := s.xlReqs.filter (fun x => !mine x), atc := keep ++ [⟨fn, base, n, pa.toNat / n * n, r, w⟩] }
  else .next s

/-! ### What a response does to those who wait (R247, R382) -/

/-- Every DMA channel that waits for a page goes on, or halts with XLATE_FAULT. -/
def State.pageWake (s : State) (fn page : Nat) (ok : Bool) : State :=
  (List.range 128).foldl (fun u i =>
    let d := u.dmaOf (i / 8) (i % 8)
    if d.waitPage = some (fn, page) then
      let t := u.putDma (i / 8) (i % 8) { d with waitPage := none }
      if t.fld Reg.DMA_CH_STATUS_STATE (i / 8) (i % 8) = 4 then
        if ok then t.setFld Reg.DMA_CH_STATUS_STATE 2 (i / 8) (i % 8)
        else ((t.setFld Reg.DMA_CH_STATUS_STATE 5 (i / 8) (i % 8)).setFld Reg.DMA_CH_STATUS_CODE 6 (i / 8) (i % 8)).setFlag
          Reg.DMA_CH_STATUS_HALT (i / 8) (i % 8)
      else t
    else u) s

/-- The completion record of a function's checked command is issued, or its write has failed (R376). -/
def State.cplDone (s : State) (fn : Nat) : State :=
  ((s.putFn fn { s.fnOf fn with cpl := none, cplPage := none }).count Reg.FN_CQ_HEAD_HEAD 1 0 fn).fnEvent fn srcCq

/-- A page request ends: success, an invalid request, or a response failure, which stops page requests of the function. -/
def State.pageEnd (s : State) (r : PageReq) (ok failure : Bool) : State :=
  let t := State.syncPrOut { s with
    pageReqs := s.pageReqs.erase r
    atc := s.atc.filter fun e => !e.covers r.fn r.page } r.fn
  let t := t.pageWake r.fn r.page ok
  let f := t.fnOf r.fn
  let t := if f.fetchPage = some r.page then
      let u := t.putFn r.fn { f with fetchPage := none }
      if ok then u else u.fnErr r.fn Reg.FN_STATUS_LQ_BAD
    else t
  let t := if (t.fnOf r.fn).cplPage = some r.page then
      if ok then t.putFn r.fn { t.fnOf r.fn with cplPage := none } else t.cplDone r.fn
    else t
  if failure then (t.putFn r.fn { t.fnOf r.fn with priStop := true }).fnErr r.fn Reg.FN_STATUS_PRI_FAIL else t

/-- PRG_RESPONSE: code 0 is success, 1 an invalid request, any other a response failure; an unknown index is ignored. -/
def execPrgResponse (fn : Fn) (idx : BitVec 9) (code : BitVec 4) (s : State) : Host.Outcome State Fault Refusal :=
  match s.pageReqs.find? fun r => r.fn == fn.val && r.idx == idx.toNat with
  | none => .next s
  | some r => done s (s.pageEnd r (code == 0) (code != 0 && code != 1))

/-- PRI_TIMEOUT. -/
def execPriTimeout (fn : Fn) (page t : Dword) (s : State) : Host.Outcome State Fault Refusal :=
  let tmo := s.fld Reg.FN_PRI_TMO_TMO 0 fn
  match s.pageReqs.find? fun r => r.fn == fn.val && r.page == page.toNat with
  | none => .next s
  | some r => if tmo > 0 && t.toNat ≥ r.tb.toNat + tmo * 1000 then done s ((s.atTb t).pageEnd r false true) else .next s

/-- ATS_INVALIDATION (R383). -/
def execAtsInvalidation (fn : Fn) (addr size : Dword) (s : State) : Host.Outcome State Fault Refusal :=
  let meets (e : AtcEntry) : Bool := e.fn == fn.val && decide (e.page < addr.toNat + size.toNat) && decide (addr.toNat < e.page + e.size)
  let gone := s.atc.filter meets
  let onWay := ((List.range 128).flatMap fun i => (s.dmaOf (i / 8) (i % 8)).flights).filter fun f =>
    match f.dst with
    | .host k a => k == fn.val && gone.any fun e => decide (e.pa ≤ a) && decide (a < e.pa + e.size)
    | _ => false
  let t := { s with atc := s.atc.filter fun e => !meets e }
  if onWay = [] then done s (t.emit (.invalidationDone fn)) else done s { t with invPend := t.invPend ++ [(fn.val, onWay)] }

/-! ### The device MMU (R259 to R261) -/

/-- Causes of R261. -/
def causeRoot : Nat := 1
def causeLeaf : Nat := 2
def causeAddr : Nat := 3
def causePerm : Nat := 4
def causePoison : Nat := 5

/-- A KV page that a leaf entry names (R259, R260). -/
structure KvPage where
  stripe : Bool
  view : Bool
  frame : Nat
  /-- First of the 16 channels of a striped page, and C of its runs. -/
  chan : Nat
  c : Nat
  sidx : Nat
deriving DecidableEq, Repr

/-- Where the line at byte `o` of a page lies. -/
def State.pageLine (s : State) (pg : KvPage) (o : Nat) : LineRef :=
  if pg.stripe then
    let q := pg.chan + o / 4096
    if s.chanUp q && decide (pg.c + o % 4096 < 0x60000000) then .dram q (pg.c + o % 4096) else .hole
  else s.place pg.view (pg.frame + o)

/-- The address of one line for the MMU: 3 in a hole, an STB window or register space (R475), 4 outside the paddock's regions. -/
def mmuCheck (r : LineRef) (allowed : Bool) : Option Nat :=
  match r with
  | .dram _ _ => if allowed then none else some causePerm
  | .tier _ _ => if allowed then none else some causePerm
  | _ => some causeAddr

def State.mmuAddr (s : State) (st : Nat) (view : Bool) (a : Nat) : Option Nat := mmuCheck (s.place view a) (s.inRegions st view a)

/-- The lines of a page, one in each 256 bytes of a contiguous page and one of each run of a striped one. -/
def State.pageCheck (s : State) (st : Nat) (pg : KvPage) : Option Nat :=
  if pg.stripe then
    ((List.range 16).map fun i =>
      let r := s.pageLine pg (4096 * i)
      mmuCheck r (s.ownsChan st (pg.chan + i))).findSome? id
  else ((List.range 256).map fun i => s.mmuAddr st pg.view (pg.frame + 256 * i)).findSome? id

/-- A little-endian number of a table line: none where the line is uncorrectable. -/
def State.tableRead (s : State) (view : Bool) (a n : Nat) : State × Option Nat :=
  let x := s.lineRead (s.place view (a / 64 * 64))
  (x.1, if x.2.2 then none else some (leAt x.2.1 (a % 64) n))

/-- The two lines that a walk reads can be read now (R210, R214). -/
def State.walkReady (s : State) (view : Bool) (root va : Nat) : Bool :=
  let a := root + 8 * (bits va 37 30 * 64 + bits va 29 24)
  s.spanReady false view a 8 &&
    match (s.tableRead view a 8).2 with
    | some e => s.spanReady false (bit e 1) (bits e 47 12 * 4096 + 16 * bits va 23 16) 16
    | none => true

/-- Steps 1 to 7 of R261 for a virtual address under the root table at `root`. -/
def State.mmuWalk (s : State) (st : Nat) (view : Bool) (root va : Nat) : State × Except Nat KvPage :=
  let a := root + 8 * (bits va 37 30 * 64 + bits va 29 24)
  match s.mmuAddr st view a with
  | some c => (s, .error c)
  | none =>
    let x := s.tableRead view a 8
    match x.2 with
    | none => (x.1, .error causePoison)
    | some e =>
      if !bit e 0 || bits e 11 2 != 0 || bits e 63 48 != 0 then (x.1, .error causeRoot)
      else
        let b := bits e 47 12 * 4096 + 16 * bits va 23 16
        match x.1.mmuAddr st (bit e 1) b with
        | some c => (x.1, .error c)
        | none =>
          let y := x.1.tableRead (bit e 1) b 16
          match y.2 with
          | none => (y.1, .error causePoison)
          | some l =>
            let stripe := bit l 2
            if !bit l 0 || bits l 15 3 != 0 || bits l 63 51 != 0 || bits l 127 96 != 0
                || (if stripe then bit l 1 || bits l 31 20 != 0 else bits l 50 48 != 0) then (y.1, .error causeLeaf)
            else
              let pg : KvPage := ⟨stripe, bit l 1, bits l 47 16 * 65536, 32 * bits l 18 16 + 16 * bits l 19 19, bits l 50 32 * 4096, bits l 95 64⟩
              match y.1.pageCheck st pg with
              | some c => (y.1, .error c)
              | none => (y.1, .ok pg)

/-- The root table that an MMU-space address of a DMA block or short transfer is looked up in: bits [47:38] count ledger entries from the
paddock's LDG_BASE (notes/assumptions/26.md). -/
def State.dmaRoot (s : State) (st a : Nat) : Bool × Nat :=
  match s.paddockOf st with
  | none => (false, 0)
  | some p =>
    let t := s.tableRegion p
    (t.2.1, t.1 + bits a 47 38 * 512 * leAt (SMap.get s.tackPdk [] p) 44 2)

end Sys2Proof.Machine
end

