-- ==== Sys2Proof/Machine/Dma.lean ====
section
/-! DEFINITION. Streams, DMA channels and the short path, and the service of the memory request queues (09_streams_and_dma.md R225 to R255;
08_memory_system.md R197, R219). -/
namespace Sys2Proof.Machine

/-! ### Status of a channel (R254, R255) -/

def stIdle : Nat := 0
def stWaitTrig : Nat := 1
def stRun : Nat := 2
def stWaitLatch : Nat := 3
def stWaitPage : Nat := 4
def stHalted : Nat := 5
def stDraining : Nat := 6
def stStopped : Nat := 7
def stWaitRing : Nat := 8

def codeOk : Nat := 0
def codeRejected : Nat := 1
def codeBlockBad : Nat := 2
def codeAlign : Nat := 3
def codeAddr : Nat := 4
def codePerm : Nat := 5
def codeXlate : Nat := 6
def codeMmu : Nat := 7
def codePoison : Nat := 8
def codeLen : Nat := 9
def codeAborted : Nat := 10

def State.chState (s : State) (st c : Nat) : Nat := s.fld Reg.DMA_CH_STATUS_STATE st c
def State.setCh (s : State) (st c v : Nat) : State := s.setFld Reg.DMA_CH_STATUS_STATE v st c
def State.setCode (s : State) (st c v : Nat) : State := s.setFld Reg.DMA_CH_STATUS_CODE v st c
def State.syncDepth (s : State) (st c : Nat) : State := s.setFld Reg.DMA_CH_STATUS_QDEPTH (s.dmaOf st c).queue.length st c

/-! ### Descriptors (R231, R232) -/

/-- The raw 64 bytes of a channel descriptor. -/
def parseDmaDesc (b : List Byte) : DmaDesc :=
  { kind := byteAt b 0, trigger := bits (byteAt b 1) 2 0, trigArg := byteAt b 2, deadline := leAt b 4 4, trigVal := leAt b 8 8,
    pace := leAt b 16 4, srcCount := leAt b 20 2, dstCount := leAt b 22 2, srcList := leAt b 24 3, dstList := leAt b 28 3,
    ringBase := leAt b 32 3, nslot := leAt b 36 2, slotLines := leAt b 38 2, doneLatch := byteAt b 40, latchEn := bit (byteAt b 41) 0,
    irq := bit (byteAt b 41) 1, tag := leAt b 44 4 }

/-- Both lists of a descriptor are aligned, an empty or unused one too (R6, R230). -/
def DmaDesc.aligned (d : DmaDesc) : Bool := d.srcList % 32 == 0 && d.dstList % 32 == 0

/-- The checks of R232. -/
def dmaDescOk (b : List Byte) : Bool :=
  let d := parseDmaDesc b
  let list (off n : Nat) : Bool := decide (off + 32 * n ≤ stbSize)
  decide (d.kind ≤ 2) && decide (d.trigger ≤ 3)
    && bits (byteAt b 1) 7 3 == 0 && byteAt b 3 == 0 && byteAt b 27 == 0 && byteAt b 31 == 0 && byteAt b 35 == 0
    && bits (byteAt b 41) 7 2 == 0 && leAt b 42 2 == 0 && allZero (b.drop 48)
    && (d.trigger != 2 || decide (d.trigArg < 8))
    && d.aligned && list d.srcList d.srcCount && list d.dstList d.dstCount
    && (d.kind == 0 || decide (1 ≤ d.nslot) && decide (d.nslot ≤ 256) && decide (1 ≤ d.slotLines) && decide (d.slotLines ≤ 1024)
          && d.ringBase % 64 == 0 && decide (d.ringBase + 64 * d.nslot * d.slotLines ≤ stbSize))

/-- A descriptor completes (R234, R235, R252). -/
def State.dmaDone (s : State) (st c : Nat) (d : DmaDesc) (code : Nat) : State :=
  let ch := s.dmaOf st c
  let was := s.flag Reg.DMA_CH_STATUS_DONE st c && ch.irqDone
  let t := s.putDma st c { ch with cur := none, started := false, aborting := false, waitPage := none, blockTb := none, irqDone := was || d.irq }
  let t := ((t.setCh st c stIdle).setCode st c code).setFlag Reg.DMA_CH_STATUS_DONE st c
  let t := t.setIf (code != codeOk) Reg.DMA_CH_STATUS_ERR st c
  let t := match ch.ring with
    | some r => if d.kind = 0 || !ch.started then t else t.putRing st c (Ring.carried { r with ended := r.ended || code == codeOk, finished := true })
    | none => t
  if code = codeOk || code = codeLen then
    let t := (t.count Reg.DMA_CH_DONE_CNT_COUNT 1 st c).setFld Reg.DMA_CH_DONE_TAG_TAG d.tag st c
    if d.latchEn then t.setLatch st d.doneLatch true else t
  else t

/-- DESC_PUSH (R225, R231): a push to a full queue is held; a mapped-out stall accepts nothing (R16). -/
def State.descPush (s : State) (st c v : Nat) : State :=
  let d := s.dmaOf st c
  if !s.stallUp st then s else if d.queue.length ≥ 16 then s else (s.putDma st c { d with queue := d.queue ++ [bits v 23 6 * 64] }).syncDepth st c

def execDescPush (st : Stall) (c : Dch) (v : Word) (s : State) : Host.Outcome State Fault Refusal :=
  done s (s.descPush st c v.toNat)

/-- DESC_START (R232, R239): the descriptor at the head is checked; a stream waits until the ring before it is free. -/
def execDescStart (st : Stall) (c : Dch) (s : State) : Host.Outcome State Fault Refusal :=
  let d := s.dmaOf st c
  if !s.stallUp st || d.cur.isSome || !s.flag Reg.DMA_CH_CTRL_EN st c || !(s.chState st c == stIdle || s.chState st c == stWaitRing) then .next s
  else match d.queue with
    | [] => .next s
    | off :: rest =>
      let b := s.stbRead st off 64
      let x := parseDmaDesc b
      if !dmaDescOk b then
        let t := (s.putDma st c { d with queue := rest }).syncDepth st c
        let t := if x.aligned then t else t.alignFault st 0
        done s (t.dmaDone st c x codeRejected)
      else if x.kind ≠ 0 && !(match d.ring with | some r => r.allFree | none => true) then done s (s.setCh st c stWaitRing)
      else
        let t := (s.putDma st c { d with queue := rest, cur := some x, started := false, blockTb := none }).syncDepth st c
        done s (((t.setCh st c stWaitTrig).wr Reg.DMA_CH_SPOS 0 st c).wr Reg.DMA_CH_DPOS 0 st c)

/-- The trigger condition (R233). -/
def State.triggered (s : State) (st : Nat) (d : DmaDesc) : Bool :=
  if d.trigger = 0 then true
  else if d.trigger = 1 then decide (s.tb.toNat ≥ d.trigVal)
  else if d.trigger = 2 then decide ((s.fld Reg.DMA_CH_DONE_CNT_COUNT st d.trigArg + 2 ^ 32 - d.trigVal % 2 ^ 32) % 2 ^ 32 < 2 ^ 31)
  else s.latch st d.trigArg

/-- DMA_TRIGGER: the descriptor starts; a stream takes its ring. -/
def execDmaTrigger (st : Stall) (c : Dch) (s : State) : Host.Outcome State Fault Refusal :=
  let ch := s.dmaOf st c
  match ch.cur with
  | none => .next s
  | some d =>
    if s.chState st c ≠ stWaitTrig || !s.triggered st d then .next s
    else
      let t := (s.putDma st c { ch with started := true, startTb := s.tb }).setCh st c stRun
      done s (if d.kind = 0 then t
        else t.putRing st c { base := d.ringBase, nslot := d.nslot, slotLines := d.slotLines, isOut := d.kind == 2 })

/-! ### Blocks (R226 to R229) -/

structure Block where
  addr : Nat
  len0 : Nat
  space : Nat
  view : Bool
  latchWait : Bool
  n1 : Nat
  n2 : Nat
  n3 : Nat
  latch : Nat
  s1 : Int
  s2 : Int
  s3 : Int
  rsv : Bool
deriving DecidableEq, Repr

def signed32 (v : Nat) : Int := if v ≥ 2 ^ 31 then (v : Int) - 2 ^ 32 else v

def parseBlock (b : List Byte) : Block :=
  { addr := leAt b 0 8, len0 := leAt b 8 3, space := bits (byteAt b 11) 1 0, view := bit (byteAt b 11) 2, latchWait := bit (byteAt b 11) 3,
    n1 := leAt b 12 2, n2 := leAt b 14 2, n3 := leAt b 16 2, latch := byteAt b 18, s1 := signed32 (leAt b 20 4), s2 := signed32 (leAt b 24 4),
    s3 := signed32 (leAt b 28 4), rsv := bits (byteAt b 11) 7 4 != 0 || byteAt b 19 != 0 }

def Block.size (b : Block) : Nat := b.len0 * b.n1 * b.n2 * b.n3
/-- The check of a block before its first transfer; none passes. -/
def Block.check (b : Block) : Option Nat :=
  if b.rsv || b.space == 3 || (b.view && b.space != 0) || (b.space != 1 && decide (b.addr ≥ 2 ^ 48)) || decide (b.size ≥ 2 ^ 40) then some codeBlockBad
  else if b.addr % 64 != 0 || b.len0 % 64 != 0 || b.s1 % 64 != 0 || b.s2 % 64 != 0 || b.s3 % 64 != 0 then some codeAlign
  else none

/-- The address of the line at byte offset `o` in traversal order (R227). -/
def Block.lineAt (b : Block) (o : Nat) : Int :=
  let r := o / b.len0
  (b.addr : Int) + (r / (b.n1 * b.n2) : Nat) * b.s3 + (r / b.n1 % b.n2 : Nat) * b.s2 + (r % b.n1 : Nat) * b.s1 + (o % b.len0 : Nat)

def posBlock (p : Nat) : Nat := bits p 15 0
def posOff (p : Nat) : Nat := bits p 55 16
def mkPos (b o : Nat) : Nat := b + o * 2 ^ 16

/-- Where a walk stands: its end, a block that fails its check at offset 0, or a line of a block. -/
inductive WalkAt
  | done
  | bad (pos code addr : Nat)
  /-- A zero-length block whose reserved bits are not zero (R228). -/
  | badEmpty (pos addr : Nat)
  | line (pos : Nat) (b : Block)
deriving DecidableEq, Repr

/-- The next line of a list from a position on; zero-length blocks and the ends of blocks are passed over (R228). -/
def State.walk (s : State) (st list count : Nat) (pos : Nat) : Nat → WalkAt
  | 0 => .done
  | fuel + 1 =>
    if posBlock pos ≥ count then .done
    else
      let b := parseBlock (s.stbRead st (list + 32 * posBlock pos) 32)
      if b.size = 0 then (if b.rsv then .badEmpty pos b.addr else State.walk s st list count (mkPos (posBlock pos + 1) 0) fuel)
      else if posOff pos ≥ b.size then State.walk s st list count (mkPos (posBlock pos + 1) 0) fuel
      else match b.check with
        | some c => .bad (mkPos (posBlock pos) 0) c b.addr
        | none => .line pos b

/-! ### Lines of an address space -/

/-- What translating and checking a line answers. -/
inductive LineAns
  | ok (r : LineRef)
  | wait
  /-- A page is to be asked for: the function and the host address. -/
  | page (fn a : Nat)
  | bad (code : Nat)
deriving DecidableEq, Repr

/-- Translates and checks one line of SPACE 0 to 2 (R229, R246, R247). -/
def State.lineCheck (s : State) (st space : Nat) (view : Bool) (a : Int) (write : Bool) : State × LineAns :=
  let n := a.toNat
  if a < 0 || decide (n ≥ (if space = 1 then 2 ^ 64 else 2 ^ 48)) then (s, .bad codeAddr)
  else if space = 0 then
    match s.place view n with
    | .hole => (s, .bad codeAddr)
    | r => if s.dmaMay st view n then (s, .ok r) else (s, .bad codePerm)
  else if space = 1 then
    let fn := s.hostFnAt st n write
    let x := s.xlate fn n write
    match x.2 with
    | .ok p => (x.1, .ok (.host fn p))
    | .wait => (x.1, .wait)
    | .denied => (x.1, .page fn n)
  else
    let root := s.dmaRoot st n
    if !s.walkReady root.1 root.2 (n % 2 ^ 38) then (s, .wait)
    else
    let x := s.mmuWalk st root.1 root.2 (n % 2 ^ 38)
    match x.2 with
    | .ok pg => (x.1, .ok (x.1.pageLine pg (n % 65536)))
    | .error k => (x.1, .bad (if k = causeAddr then codeAddr else if k = causePerm then codePerm else codeMmu))

/-! ### Halting (R246, R247) -/

def State.haltAt (s : State) (st c code addr : Nat) : State :=
  (((s.setCh st c stHalted).setCode st c code).setFlag Reg.DMA_CH_STATUS_HALT st c).wr Reg.DMA_CH_FAULT_ADDR addr st c

/-- A line whose host page is absent: the channel asks for it and waits, keeps trying while no request is free, or halts. -/
def State.pageHalt (s : State) (st c fn a addr : Nat) : State :=
  let x := s.askPage fn a
  match x.2 with
  | .retry => x.1
  | .fail => x.1.haltAt st c codeXlate addr
  | .waits =>
    let t := x.1.putDma st c { x.1.dmaOf st c with waitPage := some (fn, pageOf a) }
    ((t.setCh st c stWaitPage).setFlag Reg.DMA_CH_STATUS_HALT st c).wr Reg.DMA_CH_FAULT_ADDR addr st c

/-- The lines of a channel's transfers whose sources are unread are called back: they leave their queues. -/
def State.recall (s : State) (st c : Nat) : State :=
  let d := s.dmaOf st c
  let keep (r : MemReq) : Bool := !(r.owner == 8 * st + c && r.data.isNone)
  let t := s.chans.foldl (fun u x => u.putChan x.1 { x.2 with queue := x.2.queue.filter keep }) s
  let t := s.lpQueue.foldl (fun u x => u.putLp x.1 (x.2.filter keep)) t
  (t.putDma st c { d with unread := [], flights := d.flights.filter fun f => !d.unread.contains f }).invSettle d.unread

/-- A poisoned line met towards a destination that keeps no poison (R249): the channel halts at that line, no line after it having been
read. -/
def State.poisonHalt (s : State) (owner : Nat) (f : Flight) : State :=
  let st := owner / 8
  let c := owner % 8
  let d := s.dmaOf st c
  -- lines of the ring to send again: those called back, and the failing one where it was not among them
  let back := d.unread.length + (if d.unread.contains f then 0 else 1)
  let t := s.recall st c
  let d := t.dmaOf st c
  let t := t.putDma st c { d with flights := d.flights.erase f }
  let t := match (t.dmaOf st c).ring with
    | some r => if r.isOut then t.putRing st c { r with issued := r.issued - back } else t
    | none => t
  let was := t.chState st c
  let t := ((t.wr Reg.DMA_CH_SPOS f.spos st c).wr Reg.DMA_CH_DPOS f.dpos st c).haltAt st c codePoison f.addr
  if was = stDraining then t.setCh st c stDraining else t

/-! ### Issue (R240 to R243, R246) -/

/-- The slack of a channel's next transfer (R241). -/
def State.slack (s : State) (st c : Nat) : Nat :=
  let ch := s.dmaOf st c
  match ch.cur with
  | none => 0
  | some d =>
    if d.kind = 0 then
      if d.deadline = 0xFFFFFFFF then 2 ^ 40 + ch.startTb.toNat else d.deadline - (s.tb - ch.startTb).toNat * 8 / 5
    else match ch.ring with
      | none => 0
      | some r => (if d.kind = 1 then r.counts.2.2.1 else r.counts.1) * d.deadline

def slackUnits (k : Nat) : Nat := min 4095 (k / 16)

/-- A latch or pacing holds a block at its first line (R233, R243). -/
def State.blockHeld (s : State) (st : Nat) (ch : DmaChan) (d : DmaDesc) (pos : Nat) (b : Block) : Option Nat :=
  if posOff pos ≠ 0 then none
  else if b.latchWait && !s.latch st b.latch then some stWaitLatch
  else match ch.blockTb with
    | some t0 => if d.pace > 0 && decide (s.tb.toNat < t0.toNat + d.pace) then some stRun else none
    | none => none

/-- What trying to issue one line answers. -/
inductive LineStep
  | issued (s : State) (window : Nat × Int)
  | stop (s : State)

/-- Sends one line on its way: a source in a queue enters that queue; any other is read at once. -/
def State.sendLine (s : State) (st c : Nat) (f : Flight) (k : Nat) : Option State :=
  let owner := 8 * st + c
  let d := s.dmaOf st c
  let t := s.putDma st c { d with flights := d.flights ++ [f], unread := if f.src.queued then d.unread ++ [f] else d.unread }
  if f.src.queued then t.push ⟨owner, f, none, slackUnits k, s.tb⟩
  else if (if f.dst.keepsPoison then d.unread.any fun x => !x.dst.keepsPoison else d.unread != []) then none
  else
    let x := t.lineRead f.src
    match x.1.moveLine owner f (slackUnits k) x.2.1 x.2.2 with
    | none => none
    | some (u, true) => some (u.poisonHalt owner f)
    | some (u, false) => some u

/-- The source and destination of the next line: places in the ring of a stream; none where no slot is ready. -/
def ringLine (st : Nat) (r : Ring) : Option (LineRef × Nat) :=
  let k := r.issued / r.slotLines
  let ready := if r.isOut then decide (k < r.made) else decide (k - r.head < r.nslot)
  if ready then some (.stb st (r.slotOff k + 64 * (r.issued % r.slotLines)), k) else none

/-- One line of channel `c`. `xfer`: the transfer it belongs to; `win`: the block and the 256-byte window of its address space that the
transfer's lines lie in, once begun. -/
def State.issueLine (s : State) (st c xfer : Nat) (win : Option (Nat × Int)) : LineStep :=
  let ch := s.dmaOf st c
  match ch.cur with
  | none => .stop s
  | some d =>
    let sp := s.rd Reg.DMA_CH_SPOS st c
    let dp := s.rd Reg.DMA_CH_DPOS st c
    let srcAt := if d.kind = 2 then WalkAt.done else s.walk st d.srcList d.srcCount sp (d.srcCount + 1)
    let dstAt := if d.kind = 1 then WalkAt.done else s.walk st d.dstList d.dstCount dp (d.dstCount + 1)
    let setPos (t : State) (a b : Nat) : State := (t.wr Reg.DMA_CH_SPOS a st c).wr Reg.DMA_CH_DPOS b st c
    let main (pos : Nat) (w : Int) : Bool := match win with | none => true | some x => decide (posBlock pos = x.1 ∧ w / 256 = x.2)
    -- `go` issues a line with the positions after it
    let go (t : State) (src dst : LineRef) (slot : Option Nat) (a b a' b' addr : Nat) (w : Int) : LineStep :=
      let f : Flight := ⟨src, dst, slot, xfer, a, b, addr⟩
      let u := setPos t a' b'
      let v := u.dmaOf st c
      let at_ := if d.kind = 2 then b else a
      let u := u.putDma st c { v with blockTb := if posOff at_ = 0 then some t.tb else v.blockTb }
      let u := match slot, (u.dmaOf st c).ring with
        | some _, some r => u.putRing st c { r with issued := r.issued + 1 }
        | _, _ => u
      match u.sendLine st c f (s.slack st c) with
      | none => .stop s
      | some x => .issued (if x.chState st c = stWaitLatch then x.setCh st c stRun else x) (posBlock at_, w / 256)
    let fail (t : State) (a b addr : Nat) (r : LineAns) : LineStep :=
      let t := setPos t a b
      match r with
      | .page fn h => .stop (t.pageHalt st c fn h addr)
      | .bad code => .stop (t.haltAt st c code addr)
      | _ => .stop t
    if d.kind = 0 then
      match srcAt, dstAt with
      -- one list has ended before the other: the descriptor completes (R234)
      | .bad _ _ _, .done => .stop s
      | .done, .bad _ _ _ => .stop s
      | .badEmpty a addr, _ => .stop ((setPos s a dp).haltAt st c codeBlockBad addr)
      | _, .badEmpty b addr => .stop ((setPos s sp b).haltAt st c codeBlockBad addr)
      | .bad a code addr, _ => .stop ((setPos s a dp).haltAt st c code addr)
      | _, .bad b code addr => .stop ((setPos s sp b).haltAt st c code addr)
      | .line a x, .line b y =>
        match s.blockHeld st ch d a x, s.blockHeld st { ch with blockTb := none } d b y with
        | some h, _ => .stop (s.setCh st c h)
        | _, some h => .stop (s.setCh st c h)
        | none, none =>
          let wa := x.lineAt (posOff a)
          let wb := y.lineAt (posOff b)
          if !main a wa then .stop s
          else
            let p := s.lineCheck st x.space x.view wa false
            match p.2 with
            | .ok src =>
              let q := p.1.lineCheck st y.space y.view wb true
              match q.2 with
              | .ok dst => go q.1 src dst none a b (a + 64 * 2 ^ 16) (b + 64 * 2 ^ 16) wa.toNat wa
              | r => fail q.1 a b wb.toNat r
            | r => fail p.1 a b wa.toNat r
      | _, _ => .stop s
    else
      match (if d.kind = 1 then srcAt else dstAt), ch.ring with
      | .bad a code addr, _ => .stop ((if d.kind = 1 then setPos s a dp else setPos s sp a).haltAt st c code addr)
      | .badEmpty a addr, _ => .stop ((if d.kind = 1 then setPos s a dp else setPos s sp a).haltAt st c codeBlockBad addr)
      | .done, some r => .stop (s.putRing st c (Ring.carried { r with ended := true }))
      | .line a x, some r =>
        match ringLine st r, s.blockHeld st ch d a x with
        | some (slotRef, k), none =>
          let w := x.lineAt (posOff a)
          if !main a w then .stop s
          else
            let p := s.lineCheck st x.space x.view w (d.kind == 2)
            match p.2 with
            | .ok other =>
              if d.kind = 1 then go p.1 other slotRef (some k) a dp (a + 64 * 2 ^ 16) dp w.toNat w
              else go p.1 slotRef other (some k) sp a sp (a + 64 * 2 ^ 16) w.toNat w
            | r => if d.kind = 1 then fail p.1 a dp w.toNat r else fail p.1 sp a w.toNat r
        | _, some h => .stop (s.setCh st c h)
        | none, none => .stop s
      | _, _ => .stop s

/-- The lines of one transfer, at most four. -/
def State.issueXfer (s : State) (st c xfer : Nat) (win : Option (Nat × Int)) : Nat → State × Bool
  | 0 => (s, true)
  | n + 1 =>
    match s.issueLine st c xfer win with
    | .stop t => (t, win.isSome)
    | .issued t w => if t.chState st c = stRun then ((State.issueXfer t st c xfer (some w) n).1, true) else (t, true)

/-- Transfers in flight. -/
def State.inFlight (s : State) (st c : Nat) : Nat := ((s.dmaOf st c).flights.map (·.xfer)).eraseDups.length

/-- A channel that may issue. -/
def State.mayIssue (s : State) (st c : Nat) : Bool :=
  (s.chState st c == stRun || s.chState st c == stWaitLatch) && s.flag Reg.DMA_CH_CTRL_EN st c
    && decide (s.inFlight st c < s.fld Reg.DMA_CH_CFG_OUTSTANDING st c)

/-- Channels in the order of R241: those passed over 1,024 times first, then rising slack, then channel number. -/
def State.issueOrder (s : State) (st : Nat) : List Nat :=
  let l := (List.range 8).filter fun c => s.mayIssue st c
  let late := l.filter fun c => decide ((s.dmaOf st c).passed ≥ 1024)
  let rest := (l.filter fun c => !late.contains c).mergeSort fun a b => decide (s.slack st a ≤ s.slack st b)
  late ++ rest

/-- The short path sends one transfer, its oldest not yet issued (R241, R245). -/
def markIssued : List ShortXfer → List ShortXfer
  | [] => []
  | x :: r => if x.issued then x :: markIssued r else { x with issued := true } :: r

def State.shortsOf (s : State) (st : Nat) : List ShortXfer := SMap.get s.shorts [] st
def State.putShorts (s : State) (st : Nat) (l : List ShortXfer) : State :=
  ({ s with shorts := SMap.set s.shorts [] st l }).setFld Reg.SHORT_STATUS_INFLIGHT l.length st

/-- Up to `n` channels of a list each send one transfer; the others are passed over. -/
def issueChans (st : Nat) : State → Nat → List Nat → State
  | s, _, [] => s
  | s, 0, c :: r =>
    let d := s.dmaOf st c
    issueChans st (s.putDma st c { d with passed := d.passed + 1 }) 0 r
  | s, n + 1, c :: r =>
    let d := s.dmaOf st c
    let t := s.putDma st c { d with nextXfer := d.nextXfer + 1, passed := 0 }
    let x := t.issueXfer st c d.nextXfer none 4
    issueChans st x.1 (if x.2 then n else n + 1) r

/-- TRANSFER_ISSUE. -/
def execTransferIssue (st : Stall) (s : State) : Host.Outcome State Fault Refusal :=
  let l := s.shortsOf st
  let short := l.any fun x => !x.issued
  let t := if short then s.putShorts st (markIssued l) else s
  done s (issueChans st t (if short then 3 else 4) (t.issueOrder st))

/-! ### Completion (R235) -/

/-- The end of a channel's walk: the status it completes with. -/
def State.walkEnd (s : State) (st c : Nat) (d : DmaDesc) : Option Nat :=
  let ended (w : WalkAt) : Bool := match w with | .done => true | _ => false
  -- a block that is not empty stands next, whether or not its check passes
  let more (w : WalkAt) : Bool := match w with | .line _ _ => true | .bad _ _ _ => true | _ => false
  let a := s.walk st d.srcList d.srcCount (s.rd Reg.DMA_CH_SPOS st c) (d.srcCount + 1)
  let b := s.walk st d.dstList d.dstCount (s.rd Reg.DMA_CH_DPOS st c) (d.dstCount + 1)
  if d.kind = 0 then
    if ended a && ended b then some codeOk else if (ended a && more b) || (more a && ended b) then some codeLen else none
  else if ended (if d.kind = 1 then a else b) then some codeOk else none

/-- DESCRIPTOR_COMPLETE. -/
def execDescriptorComplete (st : Stall) (c : Dch) (s : State) : Host.Outcome State Fault Refusal :=
  let ch := s.dmaOf st c
  match ch.cur with
  | none => .next s
  | some d =>
    if !ch.started || ch.flights != [] || !(s.chState st c == stRun || s.chState st c == stWaitLatch) then .next s
    else match s.walkEnd st c d with
      | none => .next s
      | some code => done s (s.dmaDone st c d code)

/-- The ring of a STREAM_IN that has completed, with no slot left that a consumer could take. -/
def Ring.exhausted (r : Ring) : Bool := !r.isOut && r.finished && !r.inUse && !(decide (r.head < r.started) && r.complete r.head)

/-- STREAM_END (R239): a consumer waits for a slot of a stream that has completed, with whatever status, and whose last slot that filled
has been taken. -/
def execStreamEnd (st : Stall) (seq : Word) (s : State) : Host.Outcome State Fault Refusal :=
  match (s.dspOf st).running.find? fun w => w.seq == seq && !w.ok && w.outs.isNone && w.issued with
  | none => .next s
  | some w =>
    let starved := w.descs.any fun d =>
      d.present && d.kind == 3 && decide (SMap.get w.reads 0 d.place < d.slots) && !SMap.get w.holding false d.place &&
        (match (s.dmaOf st d.chan).ring with | some r => r.exhausted | none => false)
    if starved then done s (s.reject st w) else .next s

/-! ### Resume, stop, abort (R248, R251, R252) -/

/-- DMA_RESUME. -/
def State.dmaResume (s : State) (st c : Nat) : State := if s.chState st c = stHalted then s.setCh st c stRun else s
def execDmaResume (st : Stall) (c : Dch) (s : State) : Host.Outcome State Fault Refusal :=
  if s.stallUp st then done s (s.dmaResume st c) else .next s

/-- DMA_EN_CLEAR: the channel drains; a held enable is cancelled. -/
def State.dmaEnClear (s : State) (st c : Nat) : State :=
  let t := s.setFld Reg.DMA_CH_CTRL_EN 0 st c
  if s.flag Reg.DMA_CH_STATUS_PENDING_ENABLE st c then t.setFld Reg.DMA_CH_STATUS_PENDING_ENABLE 0 st c
  else if !s.flag Reg.DMA_CH_CTRL_EN st c || s.chState st c = stDraining then t
  else t.setCh st c stDraining
def execDmaEnClear (st : Stall) (c : Dch) (s : State) : Host.Outcome State Fault Refusal :=
  if s.stallUp st then done s (s.dmaEnClear st c) else .next s

/-- The state a channel goes on in when its enable takes effect. -/
def State.dmaGoOn (s : State) (st c : Nat) : State :=
  let d := s.dmaOf st c
  let t := (s.setFlag Reg.DMA_CH_CTRL_EN st c).setFld Reg.DMA_CH_STATUS_PENDING_ENABLE 0 st c
  t.setCh st c (if d.cur.isNone then stIdle else if d.started then stRun else stWaitTrig)

/-- DMA_EN_SET. -/
def State.dmaEnSet (s : State) (st c : Nat) : State :=
  if s.chState st c = stDraining then
    if s.flag Reg.DMA_CH_CTRL_EN st c then s else s.setFlag Reg.DMA_CH_STATUS_PENDING_ENABLE st c
  else if s.chState st c = stStopped then s.dmaGoOn st c
  else s.setFlag Reg.DMA_CH_CTRL_EN st c
def execDmaEnSet (st : Stall) (c : Dch) (s : State) : Host.Outcome State Fault Refusal :=
  if s.stallUp st then done s (s.dmaEnSet st c) else .next s

/-- DMA_DRAIN_END: no line is in flight any more. -/
def execDmaDrainEnd (st : Stall) (c : Dch) (s : State) : Host.Outcome State Fault Refusal :=
  let ch := s.dmaOf st c
  if s.chState st c ≠ stDraining || ch.flights != [] then .next s
  else
    let t := match ch.aborting, ch.cur with
      | true, some d => ((s.dmaDone st c d codeAborted).putDma st c { (s.dmaDone st c d codeAborted).dmaOf st c with queue := [] }).syncDepth st c
      | true, none => (s.putDma st c { ch with queue := [], aborting := false }).syncDepth st c
      | false, _ => s
    let t := t.putDma st c { t.dmaOf st c with waitPage := none }
    done s (if t.flag Reg.DMA_CH_CTRL_EN st c || t.flag Reg.DMA_CH_STATUS_PENDING_ENABLE st c then t.dmaGoOn st c
      else t.setCh st c stStopped)

/-- DMA_ABORT: an idle channel only loses its queue. -/
def State.dmaAbort (s : State) (st c : Nat) : State :=
  let ch := s.dmaOf st c
  if s.chState st c = stWaitRing then
    -- the stream that waits for the ring before it is the current descriptor
    match ch.queue with
    | [] => s.setCh st c stIdle
    | off :: _ => ((s.putDma st c { ch with queue := [] }).syncDepth st c).dmaDone st c (parseDmaDesc (s.stbRead st off 64)) codeAborted
  else if ch.cur.isNone then (s.putDma st c { ch with queue := [] }).syncDepth st c
  else (s.putDma st c { ch with aborting := true }).setCh st c stDraining
def execDmaAbort (st : Stall) (c : Dch) (s : State) : Host.Outcome State Fault Refusal :=
  if s.stallUp st then done s (s.dmaAbort st c) else .next s

/-! ### The short path (R244, R245) -/

/-- The lines of one end, each translated and checked; the first failure is the transfer's status. -/
def State.shortLines (s : State) (st : Nat) (e : ShortEnd) (write : Bool) : Nat → Nat → State × Except Nat (List LineRef)
  | 0, _ => (s, .ok [])
  | n + 1, i =>
    let x := s.lineCheck st e.space e.view ((e.addr + 64 * i : Nat) : Int) write
    match x.2 with
    | .ok r =>
      let y := State.shortLines x.1 st e write n (i + 1)
      match y.2 with
      | .ok l => (y.1, .ok (r :: l))
      | .error k => (y.1, .error k)
    | .wait => (x.1, .error 16)
    | .page _ _ => (x.1, .error codeXlate)
    | .bad k => (x.1, .error k)

def shortEndBad (e : ShortEnd) (lines : Nat) : Option Nat :=
  if e.space == 3 || (e.view && e.space != 0) || (e.space != 1 && decide (e.addr ≥ 2 ^ 48)) then some codeBlockBad
  else if e.addr % 64 != 0 || decide (e.addr % 256 + 64 * lines > 256) then some codeAlign
  else none

/-- Reads lines in order. -/
def State.readLines (s : State) : List LineRef → State × List (List Byte × Bool)
  | [] => (s, [])
  | r :: l =>
    let x := s.lineRead r
    let y := State.readLines x.1 l
    (y.1, x.2 :: y.2)

/-- The whole of a short transfer: its status, 16 while a host translation is on its way or a channel takes no request. -/
def State.shortRun (s : State) (st : Nat) (x : ShortXfer) : State × Nat :=
  let bad (k : Nat) : State × Nat := (if k = codeAlign then s.alignFault st 1 else s, k)
  match shortEndBad x.src x.lines, shortEndBad x.dst x.lines with
  | some k, _ => bad k
  | _, some k => bad k
  | none, none =>
    let a := s.shortLines st x.src false x.lines 0
    match a.2 with
    | .error k => (a.1, k)
    | .ok src =>
      let b := a.1.shortLines st x.dst true x.lines 0
      match b.2 with
      | .error k => (b.1, k)
      | .ok dst =>
        if !src.all (b.1.lineReady false) || !dst.all (b.1.lineReady true) then (b.1, 16) else
        let r := b.1.readLines src
        let u := src.foldl (fun u x => u.lineServed false x) r.1
        if r.2.any (·.2) then (u, codePoison)
        else
          ((List.range dst.length).foldl
            (fun u i => (u.lineWrite (dst.getD i .hole) (r.2.getD i ([], false)).1 false).lineServed true (dst.getD i .hole)) u, codeOk)

/-- The end of a short transfer: its status noted for a waiting SHORT_WAIT; the first failure since ERR was cleared recorded. -/
def State.shortEnd (s : State) (st : Nat) (x : ShortXfer) (code : Nat) : State :=
  let t := s.putShorts st ((s.shortsOf st).erase x)
  let c := t.sccOf st
  let t := match c.shortWait with
    | some (k, 0) => if k = 65536 || k = x.tag then t.putScc st { c with shortWait := some (k, code) } else t
    | _ => t
  if code = codeOk || t.flag Reg.SHORT_STATUS_ERR st then t
  else ((t.setFlag Reg.SHORT_STATUS_ERR st).setFld Reg.SHORT_STATUS_CODE code st).setFld Reg.SHORT_STATUS_ERR_TAG x.tag st

/-- The lines of memory that a short transfer reads and writes, as far as they are known. -/
def State.shortTouches (s : State) (st : Nat) (x : ShortXfer) : List LineRef :=
  let lines (r : State × Except Nat (List LineRef)) : List LineRef := match r.2 with | .ok l => l.filter LineRef.queued | .error _ => []
  lines (s.shortLines st x.src false x.lines 0) ++ lines (s.shortLines st x.dst true x.lines 0)

/-- SHORT_TRANSFER_COMPLETE: in any order, but for two transfers to one line of the stacks or the tier, which keep their order (R198,
R219, R244). -/
def execShortTransferComplete (st : Stall) (tag : BitVec 16) (s : State) : Host.Outcome State Fault Refusal :=
  match (s.shortsOf st).find? fun x => x.issued && x.tag == tag.toNat with
  | none => .next s
  | some x =>
    let earlier := (s.shortsOf st).takeWhile (· != x)
    if earlier.any (fun y => (s.shortTouches st y).any (s.shortTouches st x).contains) then .next s else
    let r := s.shortRun st x
    if r.2 = 16 then done s r.1 else done s (r.1.shortEnd st x r.2)

/-! ### Service of the request queues (R197, R219) -/

/-- The effect of a request that is served: none where its data finds no room at its destination. -/
def State.serve (s : State) (r : MemReq) (upset : List (Nat × Byte)) : Option State :=
  match r.data with
  | some l => some ((s.lineWrite r.flight.dst l false).delivered r.owner r.flight)
  | none =>
    let x := s.lineRead r.flight.src upset
    let st := r.owner / 8
    let c := r.owner % 8
    match x.1.moveLine r.owner r.flight r.slack x.2.1 x.2.2 with
    | none => none
    | some (t, halt) =>
      let d := t.dmaOf st c
      let t := t.putDma st c { d with unread := d.unread.erase r.flight }
      some (if halt then t.poisonHalt r.owner r.flight else t)

/-- CHANNEL_REQUEST_SERVE. `upset`: symbol errors that have fallen on the line read. -/
def execChannelRequestServe (q : Chan) (upset : List (Nat × Byte)) (s : State) : Host.Outcome State Fault Refusal :=
  let c := s.chanOf q
  if !s.chanUp q || s.paused q || decide (s.tb.toNat < c.retrain.toNat) then .next s
  else match s.chanPick c s.readTurn with
    | none => .next s
    | some r =>
      let t := s.putChan q { c.served r.chanAddr r.isWrite with queue := c.queue.erase r }
      match t.serve r upset with
      | none => .next s
      | some u => done s u

/-- The next request of a tier channel: one that has waited 1,024 cycles, else the smallest slack, the oldest among equals (R242). -/
def State.lpPick (s : State) (l : List MemReq) : Option MemReq :=
  match l.find? fun r => decide ((s.tb - r.tb).toNat * 8 / 5 ≥ 1024) with
  | some r => some r
  | none => (l.mergeSort fun a b => decide (a.slack ≤ b.slack)).head?

/-- LP_REQUEST_SERVE. -/
def execLpRequestServe (p : LpChan) (upset : List (Nat × Byte)) (s : State) : Host.Outcome State Fault Refusal :=
  match s.lpPick ((eligible (s.lpOf p)).filter s.readTurn) with
  | none => .next s
  | some r =>
    match (s.putLp p ((s.lpOf p).erase r)).serve r upset with
    | none => .next s
    | some u => done s u

/-! ### COMPLETION_TIMEOUT (R380) -/

/-- The channel is within its walk: it runs, or waits for a latch or for a ring slot. -/
def State.walking (s : State) (st c : Nat) : Bool := [stRun, stWaitLatch, stWaitRing].contains (s.chState st c)

/-- The host address at which a channel's walk is about to read, or to write, a line for a function. -/
def State.hostLine (s : State) (fn st c : Nat) (write : Bool) : Option Nat :=
  match (s.dmaOf st c).cur with
  | none => none
  | some d =>
    let x := if write then s.walk st d.dstList d.dstCount (s.rd Reg.DMA_CH_DPOS st c) (d.dstCount + 1)
      else s.walk st d.srcList d.srcCount (s.rd Reg.DMA_CH_SPOS st c) (d.srcCount + 1)
    if (if write then d.kind == 1 else d.kind == 2) then none
    else match x with
      | .line pos b =>
        let a := (b.lineAt (posOff pos)).toNat
        if b.space == 1 && s.hostFnAt st a write == fn then some a else none
      | _ => none

/-- A short transfer of a stall that reads host memory for a function. -/
def State.shortHost (s : State) (fn st : Nat) : Option ShortXfer :=
  (s.shortsOf st).find? fun x => x.issued && x.src.space == 1 && s.hostFnAt st x.src.addr false == fn

/-- The host read of the function that gets no completion: the first DMA channel that reads host memory for it halts with ADDR_FAULT;
else the first short transfer that does ends with ADDR_FAULT; else its ledger fetch fails (R382). -/
def State.readTimeout (s : State) (fn : Nat) : State :=
  match (List.range 128).findSome? fun i =>
    if s.chState (i / 8) (i % 8) = stRun then (s.hostLine fn (i / 8) (i % 8) false).map fun a => (i, a) else none with
  | some (i, a) => s.haltAt (i / 8) (i % 8) codeAddr a
  | none =>
    match (List.range 16).findSome? fun st => (s.shortHost fn st).map fun x => (st, x) with
    | some (st, x) => s.shortEnd st x codeAddr
    | none =>
      if s.flag Reg.FN_CTRL_EN 0 fn && s.fld Reg.FN_LQ_HEAD_HEAD 0 fn != (s.fnOf fn).lqTail.toNat then s.fnErr fn Reg.FN_STATUS_LQ_BAD
      else s

end Sys2Proof.Machine
end

