-- ==== Sys2Proof/Machine/Attention.lean ====
section
/-! DEFINITION. The attention sequencer: ATTN and ATTN_MERGE (10_attention_and_kv.md R256 to R281). -/
namespace Sys2Proof.Machine

/-! ### Fields -/

structure Attn where
  lt : Desc
  nseq : Nat
  layer : Nat
  group : Nat
  dCode : Nat
  hkv : Nat
  qpk : Nat
  kvfmt : Nat
  smScale : Word
  causal : Bool
  window : Nat
  bm : Desc
  bmLen : Nat
  q : Desc
  newK : Desc
  newV : Desc
  kvs : Desc
  partsCode : Nat
  part : Nat
  node : Bool
  out : Desc
  rstat : Desc
  stage : Nat
  qlatch : Nat
deriving DecidableEq, Repr

def parseAttn (rec : List Byte) : Attn :=
  let f := recField rec attnLayout
  let d := recDesc rec attnLayout
  { lt := d 0, nseq := f 1, layer := f 2, group := f 3, dCode := f 4, hkv := f 5, qpk := f 6, kvfmt := 2 + f 7,
    smScale := BitVec.ofNat 32 (f 8), causal := f 9 == 1, window := f 10, bm := d 11, bmLen := f 12, q := d 13, newK := d 14, newV := d 15,
    kvs := d 16, partsCode := f 17, part := f 18, node := f 19 == 1, out := d 20, rstat := d 21, stage := f 22, qlatch := f 23 }

def Attn.d (c : Attn) : Nat := 64 * 2 ^ c.dCode
/-- Heads in a page (R256), head groups in a layer, the layer-group. -/
def Attn.hg (c : Attn) : Nat := 512 / c.d
def Attn.ng (c : Attn) : Nat := (c.hkv + c.hg - 1) / c.hg
def Attn.lg (c : Attn) : Nat := c.layer * c.ng + c.group
def Attn.parts (c : Attn) : Nat := 2 ^ c.partsCode
/-- The heads of the group that the layer has. -/
def Attn.heads (c : Attn) : List Nat := (List.range c.hg).filter fun i => decide (c.group * c.hg + i < c.hkv)
/-- Bytes of a row of OUT. -/
def Attn.outBytes (c : Attn) : Nat := if c.node then 64 + 4 * c.d else rowBytes c.out.fmt c.d

/-- Starts of the operands other than the length table. -/
def Attn.starts (c : Attn) : List Nat :=
  ([c.bm, c.q, c.newK, c.newV, c.kvs, c.out, c.rstat].filter (·.present)).map (·.loc)

/-- R266, with R35 and R40 for the format of every descriptor present. -/
def checkAttn (st : Nat) (s : State) (w : WinCmd) : Verdict :=
  let c := parseAttn w.record
  let all := [c.lt, c.bm, c.q, c.newK, c.newV, c.kvs, c.out, c.rstat].filter (·.present)
  let mats := [c.bm, c.q, c.newK, c.newV, c.out].filter (·.present)
  let misaligned := (all.any fun d => d.loc % 64 != 0) || mats.any fun d => d.stride % 64 != 0
  let shape := !recOk w.record attnLayout || decide (c.nseq > 8192) || decide (c.dCode > 2) || c.qpk == 0 || decide (c.qpk > 64)
      || decide (c.partsCode > 4) || decide (c.group ≥ c.ng) || decide (c.lg > 255) || decide (c.part ≥ c.parts)
      || !c.lt.present || !c.q.present || !c.out.present || all.any (fun d => d.kind != 0 || d.comp || d.scaleEn)
      || c.stage % 65536 != 0 || decide (c.stage + 2 ^ 20 > stbSize) || decide (c.lt.loc + 32 * c.nseq > stbSize)
      || spansMeet c.stage (2 ^ 20) c.lt.loc (32 * c.nseq) || c.starts.any (fun a => decide (c.stage ≤ a) && decide (a < c.stage + 2 ^ 20))
      || c.newK.present != c.newV.present || (c.newK.present && !c.kvs.present)
      || decide (rowBytes c.q.fmt (c.qpk * c.hkv * c.d) > 16384)
  if misaligned then .rejected ((s.alignFault st 7).setFlag Reg.ATS_STATUS_DESC_BAD st)
  else if shape then .rejected (s.setFlag Reg.ATS_STATUS_DESC_BAD st)
  else if !fmtMatrixOk c.q.fmt || all.any (fun d => !d.fmtGood) then
    .rejected (s.setFlag Reg.NUM_STATUS_FMT_BAD st)
  else if c.nseq = 0 then .zero
  else .run

/-- The table that the paddock sequencer made for a stall: its length table, or its sampling table (R290, R508). -/
def State.tableOf (s : State) (p st : Nat) (samp : Bool) : List Byte :=
  let k := SMap.get s.pdks {} p
  SMap.get (if samp then k.sampTab else k.lenTab) [] st

def State.storeTable (s : State) (p st : Nat) (samp : Bool) (loc : Nat) : State :=
  { s.stbStore st loc (fullCells ((s.tableOf p st samp).take (stbSize - loc))) false with
    tabAt := SMap.set s.tabAt 0 (2 * st + if samp then 1 else 0) (loc + 1) }

/-- A command of a step names the place of its table. No rule gives the sequencer that place: it knows the one that the stall's commands
last named and has written there at the hinge (`State.hingeTables`); a table whose place is new is written there now
(notes/assumptions/35.md). -/
def State.stepTable (s : State) (st loc : Nat) (samp : Bool) : State :=
  match s.paddockOf st with
  | none => s
  | some p =>
    if (SMap.get s.pdks {} p).running && SMap.get s.tabAt 0 (2 * st + if samp then 1 else 0) != loc + 1 then s.storeTable p st samp loc
    else s

/-! ### Length-table entries (R263) -/

structure LtEntry where
  view : Bool
  root : Nat
  l : Nat
  qrows : Nat
  ledger : Nat
  qrow0 : Nat
  mrow0 : Nat
  bmBase : Nat
  rsv : Bool
deriving DecidableEq, Repr

def parseLt (b : List Byte) : LtEntry :=
  let w := leAt b 0 8
  { view := bit w 0, root := bits w 47 6 * 64, l := bits (leAt b 8 4) 20 0, qrows := leAt b 12 2, ledger := bits (leAt b 14 2) 12 0,
    qrow0 := leAt b 16 3, mrow0 := leAt b 20 3, bmBase := bits (leAt b 24 4) 20 0,
    rsv := bits w 5 1 != 0 || bits w 63 48 != 0 || bits (leAt b 8 4) 31 21 != 0 || bits (leAt b 14 2) 15 13 != 0 || byteAt b 19 != 0
      || byteAt b 23 != 0 || bits (leAt b 24 4) 31 21 != 0 || leAt b 28 4 != 0 }

/-- The output rows of an entry: query token, head of the group, query head. -/
def attnRows (c : Attn) (e : LtEntry) : List (Nat × Nat × Nat) :=
  (List.range e.qrows).flatMap fun j => c.heads.flatMap fun h => (List.range c.qpk).map fun u => (j, h, u)

/-- Row number in Q, OUT and RSTAT; and in NEWK and NEWV. -/
def qRow (c : Attn) (e : LtEntry) (r : Nat × Nat × Nat) : Nat :=
  (e.qrow0 + r.1) * c.hkv * c.qpk + (c.group * c.hg + r.2.1) * c.qpk + r.2.2
def kvRow (c : Attn) (e : LtEntry) (j h : Nat) : Nat := (e.qrow0 + j) * c.hkv + c.group * c.hg + h

/-- Where rows lie in the STB, with their lengths. -/
def qSpan (c : Attn) (e : LtEntry) (r : Nat × Nat × Nat) : Nat × Nat := (c.q.loc + qRow c e r * c.q.stride, rowBytes c.q.fmt c.d)
def outSpan (c : Attn) (e : LtEntry) (r : Nat × Nat × Nat) : Nat × Nat := (c.out.loc + qRow c e r * c.out.stride, c.outBytes)
def rstatSpan (c : Attn) (e : LtEntry) (r : Nat × Nat × Nat) : Nat × Nat := (c.rstat.loc + qRow c e r, 1)
def newSpan (c : Attn) (e : LtEntry) (d : Desc) (j h : Nat) : Nat × Nat := (d.loc + kvRow c e j h * d.stride, rowBytes d.fmt c.d)
def bmSpan (c : Attn) (e : LtEntry) (j : Nat) : Nat × Nat := (c.bm.loc + (e.mrow0 + j) * c.bm.stride, (c.bmLen + 7) / 8)
def inStbSpan (x : Nat × Nat) : Bool := decide (x.1 + x.2 ≤ stbSize)
def meets (x y : Nat × Nat) : Bool := spansMeet x.1 x.2 y.1 y.2

/-- Rows of Q, NEWK and NEWV that an entry uses. -/
def inputSpans (c : Attn) (e : LtEntry) : List (Nat × Nat) :=
  (attnRows c e).map (qSpan c e) ++
    (if c.newK.present then (List.range e.qrows).flatMap fun j => c.heads.flatMap fun h => [newSpan c e c.newK j h, newSpan c e c.newV j h] else [])

/-- A row of OUT or RSTAT that may be written: wholly in the STB, meeting nothing that R266 forbids. -/
def rowFree (c : Attn) (e : LtEntry) (x : Nat × Nat) : Bool :=
  inStbSpan x && !meets x (c.lt.loc, 32 * c.nseq) && !meets x (c.stage, 2 ^ 20) && !((inputSpans c e).any fun y => meets x y)

/-- The checks of R266 on an entry. -/
def ltGood (c : Attn) (e : LtEntry) : Bool :=
  !e.rsv && decide (e.qrows ≤ 4096) && decide (e.qrows ≤ e.l) && decide (e.l ≤ 1048576) &&
    (inputSpans c e).all inStbSpan && (!c.kvs.present || e.qrows == 0 || inStbSpan (c.kvs.loc, 32)) &&
    (!c.bm.present || (List.range e.qrows).all fun j => inStbSpan (bmSpan c e j)) &&
    (attnRows c e).all fun r => rowFree c e (outSpan c e r) && (!c.rstat.present || rowFree c e (rstatSpan c e r))

/-! ### Conditions of the work (R54, R117) -/

/-- The conditions of a list of results joined; the value is of no meaning. -/
def marks (l : List FAcc) : FAcc := ⟨0, l.any (·.inf), l.any (·.nan)⟩

/-- A result of the VXE from its operands, with the conditions of R117. -/
def vxOut (v : Word) (ops : List Word) : FAcc := ⟨v, f32IsInf v && ops.all f32IsFin, f32IsNan v && !ops.any f32IsNan⟩
def vxMul (a b : Word) : FAcc := vxOut (f32Mul a b) [a, b]
def vxAdd (a b : Word) : FAcc := vxOut (f32Add a b) [a, b]
def vxSub (a b : Word) : FAcc := vxOut (f32Sub a b) [a, b]
def vxRcp (a : Word) : FAcc := vxOut (f32Rcp a) [a]
def vxExp (a : Word) : FAcc := vxOut (f32Exp a) [a]

/-- V_INF and V_NAN (R117). -/
def State.vxFlags (s : State) (st : Nat) (c : FAcc) : State := (s.setIf c.inf Reg.VXE_STATUS_V_INF st).setIf c.nan Reg.VXE_STATUS_V_NAN st

/-! ### Pages and their scales (R258, R261, R267) -/

/-- Virtual address of a position's page. -/
def Attn.va (c : Attn) (t : Nat) : Nat := t / 64 * 65536 + c.lg * 2 ^ 30

def State.sideAddr (s : State) (st sidx : Nat) : Bool × Nat :=
  (s.flag Reg.ATS_SIDE_BASE_VIEW st, s.fld Reg.ATS_SIDE_BASE_ADDR st * 64 + 32 * sidx)

/-- All steps of R261: the page and the 32 bytes of its side-table entry. -/
def State.atsPage (s : State) (st : Nat) (c : Attn) (e : LtEntry) (t : Nat) : State × Except Nat (KvPage × List Byte) :=
  let x := s.mmuWalk st e.view e.root (c.va t)
  match x.2 with
  | .error k => (x.1, .error k)
  | .ok pg =>
    let a := x.1.sideAddr st pg.sidx
    match x.1.mmuAddr st a.1 a.2 with
    | some k => (x.1, .error k)
    | none =>
      let y := x.1.lineRead (x.1.place a.1 (a.2 / 64 * 64))
      if y.2.2 then (y.1, .error causePoison) else (y.1, .ok (pg, (y.2.1.drop (a.2 % 64)).take 32))

/-- NSP: the least power of two at least `ns` and at least `parts`. -/
def nspOf (ns parts : Nat) : Nat := ((List.range 12).map fun i => parts * 2 ^ i).find? (fun p => decide (p ≥ ns)) |>.getD (parts * 2048)
def Attn.w (c : Attn) (e : LtEntry) : Nat := nspOf ((e.l + 511) / 512) c.parts / c.parts
def Attn.covers (c : Attn) (e : LtEntry) (t : Nat) : Bool := t / 512 / c.w e == c.part

def bf16 (b : List Byte) (i : Nat) : Word := BitVec.ofNat 32 (leAt b (2 * i) 2 * 65536)

/-- Where bytes of a page are written: whole lines of the page's place. -/
def State.pageWrite (s : State) (pg : KvPage) (o : Nat) (l : List Byte) : Nat → State
  | 0 => s
  | n + 1 => if l = [] then s else State.pageWrite (s.lineWrite (s.pageLine pg o) (l.take 64) false) pg (o + 64) (l.drop 64) n

/-- The values of one new row of one head: MUL(x, RCP(s)) (R267). -/
def State.newVals (s : State) (st : Nat) (c : Attn) (e : LtEntry) (d : Desc) (j h : Nat) (scale : Word) : List FAcc :=
  let x := newSpan c e d j h
  let b := s.stbRead st x.1 x.2
  (List.range c.d).map fun i => vxMul (widen32 d.fmt d.zpOpt (packedCode b (fmtBits d.fmt) i)) (vxRcp scale).v
/-- Their codes. -/
def Attn.newCodes (c : Attn) (l : List FAcc) : List Narrowed := l.map fun x => narrow false c.kvfmt none (f32Dec x.v)

/-- A side-table entry as KVS gives it: the scales of the page's HG heads, the rest zero (R258). -/
def Attn.sideEntry (c : Attn) (kvs : List Byte) : List Byte :=
  (List.range 32).map fun i => if i % 16 < 2 * c.hg then kvs.getD i 0 else 0

/-- Appends query token `j`; the VA and cause of a fault. Bytes of heads that the last group does not have are zero (R257). -/
def State.appendOne (s : State) (st : Nat) (c : Attn) (e : LtEntry) (j : Nat) : State × Option (Nat × Nat) :=
  let t := e.l - e.qrows + j
  if !c.covers e t then (s, none)
  else
    let x := s.atsPage st c e t
    match x.2 with
    | .error k => (x.1, some (c.va t, k))
    | .ok (pg, side) =>
      let kvs := x.1.stbRead st c.kvs.loc 32
      let first := t % 64 = 0
      let sc := if first then kvs else side
      let u := if first then
          let a := x.1.sideAddr st pg.sidx
          (x.1.devWrite a.1 a.2 (c.sideEntry kvs) 2).getD x.1
        else x.1
      let zeros : List Byte := List.replicate c.d 0
      ((List.range c.hg).foldl (fun v h =>
        let o := t % 64 * 512 + h * c.d
        if c.heads.contains h then
          let kx := v.newVals st c e c.newK j h (bf16 sc h)
          let vx := v.newVals st c e c.newV j h (bf16 (sc.drop 16) h)
          let ks := c.newCodes kx
          let vs := c.newCodes vx
          let v := v.vxFlags st (marks (vxRcp (bf16 sc h) :: vxRcp (bf16 (sc.drop 16) h) :: kx ++ vx))
          let v := v.pageWrite pg o (ks.map fun z => BitVec.ofNat 8 z.code) 8
          (v.pageWrite pg (32768 + o) (vs.map fun z => BitVec.ofNat 8 z.code) 8).countNarrow st (ks ++ vs)
        else (v.pageWrite pg o zeros 8).pageWrite pg (32768 + o) zeros 8) u, none)

/-- Appends in rising position, stopping at the first fault. -/
def State.appendAll (s : State) (st : Nat) (c : Attn) (e : LtEntry) : List Nat → State × Option (Nat × Nat)
  | [] => (s, none)
  | j :: r =>
    let x := s.appendOne st c e j
    match x.2 with
    | some f => (x.1, some f)
    | none => State.appendAll x.1 st c e r

/-- K and V of one position and head as the ATS reads them: expanded elements, whether an expansion overflowed (R42, R54) and whether a line
was poisoned. -/
structure KvRow where
  t : Nat
  h : Nat
  k : List Word
  v : List Word
  inf : Bool
  bad : Bool
deriving DecidableEq, Repr

def State.pageBytes (s : State) (pg : KvPage) (o : Nat) : Nat → State × List Byte × Bool
  | 0 => (s, [], false)
  | n + 1 =>
    let x := s.lineRead (s.pageLine pg o)
    let y := State.pageBytes x.1 pg (o + 64) n
    (y.1, x.2.1 ++ y.2.1, x.2.2 || y.2.2)

/-- Reads the positions of one page that are below L. -/
def State.readPage (s : State) (c : Attn) (pg : KvPage) (side : List Byte) : List (Nat × Nat) → State × List KvRow
  | [] => (s, [])
  | (t, h) :: r =>
    let o := t % 64 * 512 + h * c.d
    let x := s.pageBytes pg o (c.d / 64)
    let y := x.1.pageBytes pg (32768 + o) (c.d / 64)
    let ex (b : List Byte) (sc : Nat) : List FAcc := b.map fun z => expandEX16 c.kvfmt none (some sc) z.toNat
    let k := ex x.2.1 (leAt side (2 * h) 2)
    let v := ex y.2.1 (leAt side (16 + 2 * h) 2)
    let z := State.readPage y.1 c pg side r
    (z.1, ⟨t, h, k.map (·.v), v.map (·.v), (k ++ v).any (·.inf), x.2.2 || y.2.2⟩ :: z.2)

/-- Translates every page of a sequence that its part covers; the first failure ends it (R261, R277). -/
def State.walkPages (s : State) (st : Nat) (c : Attn) (e : LtEntry) : List Nat → State × Except (Nat × Nat) (List (Nat × KvPage × List Byte))
  | [] => (s, .ok [])
  | p :: r =>
    let x := s.atsPage st c e (64 * p)
    match x.2 with
    | .error k => (x.1, .error (c.va (64 * p), k))
    | .ok pg =>
      let z := State.walkPages x.1 st c e r
      match z.2 with
      | .ok l => (z.1, .ok ((p, pg) :: l))
      | .error k => (z.1, .error k)

/-- Reads the pages that the walk found. -/
def State.readPages (s : State) (c : Attn) (e : LtEntry) : List (Nat × KvPage × List Byte) → State × List KvRow
  | [] => (s, [])
  | (p, pg, side) :: r =>
    let ts := ((List.range 64).map fun i => 64 * p + i).filter fun t => decide (t < e.l)
    let y := s.readPage c pg side (ts.flatMap fun t => c.heads.map fun h => (t, h))
    let z := State.readPages y.1 c e r
    (z.1, y.2 ++ z.2)

/-! ### Nodes (R269 to R272) -/

/-- A node, with the conditions that forming it raised: of its sums on the arrays (`acc`, R54) and of its operations on the VXE (`vx`,
R117). -/
structure Node where
  m : Word := 0
  l : Word := 0
  o : List Word := []
  empty : Bool := false
  nan : Bool := false
  inf : Bool := false
  fault : Bool := false
  acc : FAcc := ⟨0, false, false⟩
  vx : FAcc := ⟨0, false, false⟩
deriving DecidableEq, Repr

def f32PosInf : Word := 0x7F800000#32
def f32NegInf : Word := 0xFF800000#32

/-- span_node: `score` and `row` give the score and the V row of an active position, none where it is inactive. -/
def spanNode (d v : Nat) (score : Nat → Option Word) (row : Nat → List Word) : Node :=
  let ts := (List.range 512).map fun i => 512 * v + i
  let act := ts.filterMap fun t => (score t).map fun x => x
  let nan := act.any f32IsNan
  let a := act.filter fun x => x != f32NegInf
  match a with
  | [] => { o := List.replicate d 0, empty := true, nan := nan }
  | x0 :: r =>
    let m := r.foldl f32Max x0
    let p (i : Nat) : Option Word :=
      match score (512 * v + i) with
      | none => none
      | some x =>
        if x = f32NegInf then none
        else if m = f32PosInf then some (if x = f32PosInf then f32One else f32Zero)
        else some (f32Rndx (vxExp (vxSub x m).v).v).1
    let steps := if m = f32PosInf then [] else a.flatMap fun x => [vxSub x m, vxExp (vxSub x m).v]
    let ps := (List.range 512).map p
    let pv (i : Nat) : Option Word := ps.getD i none
    let l := partDot (fun i => ⟨(pv i).getD 0, false, false⟩) 512 1 0
    let rows := ts.map row
    let o := (List.range d).map fun k =>
      partDot (fun i => match pv i with | some x => accMul x ((rows.getD i []).getD k 0) | none => ⟨0, false, false⟩) 512 1 0
    { m := m, l := l.v, o := o.map (·.v), nan := nan, inf := m == f32PosInf, acc := marks o, vx := marks steps }

/-- The weight of one side of a merge, and the operations that give it. -/
def mergeWeight (a m : Word) : Word × List FAcc :=
  if a = m then (f32One, []) else ((vxExp (vxSub a m).v).v, [vxSub a m, vxExp (vxSub a m).v])
/-- The merged value of one element, and its operations. -/
def mergeElem (ax ay a b : Word) : FAcc :=
  let s := vxAdd (vxMul ax a).v (vxMul ay b).v
  { marks [vxMul ax a, vxMul ay b, s] with v := s.v }

/-- merge of R270, the work of the VXE. -/
def mergeNode (x y : Node) : Node :=
  let acc := marks [x.acc, y.acc]
  if x.empty then { y with nan := x.nan || y.nan, acc := acc, vx := marks [x.vx, y.vx] }
  else if y.empty then { x with nan := x.nan || y.nan, acc := acc, vx := marks [x.vx, y.vx] }
  else
    let m := f32Max x.m y.m
    let ax := mergeWeight x.m m
    let ay := mergeWeight y.m m
    let l := mergeElem ax.1 ay.1 x.l y.l
    let o := x.o.zipWith (mergeElem ax.1 ay.1) y.o
    { m := m, l := l.v, o := o.map (·.v), nan := x.nan || y.nan, inf := m == f32PosInf, acc := acc,
      vx := marks (x.vx :: y.vx :: l :: o ++ ax.2 ++ ay.2) }

/-- One level of the merge tree, left operand first. -/
def mergePairs : List Node → List Node
  | a :: b :: r => mergeNode a b :: mergePairs r
  | l => l
/-- The tree over 2^n nodes (R271). -/
def mergeTree : Nat → List Node → Node
  | 0, l => l.headD { empty := true }
  | n + 1, l => mergeTree n (mergePairs l)

def faultNode (d : Nat) : Node := { m := f32NaN, l := f32NaN, o := List.replicate d f32NaN, fault := true }

/-- The values of a FINAL row (R272). -/
def finalRow (d : Nat) (n : Node) : List Word :=
  if n.nan || n.fault then List.replicate d f32NaN
  else if n.empty then List.replicate d f32Zero
  else n.o.map fun x => (vxMul x (vxRcp n.l).v).v
/-- The conditions of its operations. -/
def finalMarks (n : Node) : FAcc :=
  if n.nan || n.fault || n.empty then marks [] else marks (vxRcp n.l :: n.o.map fun x => vxMul x (vxRcp n.l).v)

/-- RSTAT of a row (R274); a NODE record shows FAULT only (R275). -/
def rstatByte (node : Bool) (n : Node) : Byte :=
  if n.fault then 8
  else if node then 0
  else if n.nan then 4
  else if n.empty then 1
  else if n.inf then 2
  else 0

/-- A NODE record (R275). -/
def nodeRecord (d first last : Nat) (n : Node) : List Byte :=
  let b (x : Bool) (k : Nat) : Nat := if x then 2 ^ k else 0
  let blank := n.empty && !n.fault
  leBytes (if blank then 0 else n.m.toNat) 4 ++ leBytes (if blank then 0 else n.l.toNat) 4
    ++ leBytes (if n.fault then 8 else b n.empty 0 + b n.nan 1 + b n.inf 2) 4 ++ leBytes (first + last * 65536) 4 ++ List.replicate 48 0
    ++ (List.range d).flatMap fun i => leBytes (if blank then 0 else (n.o.getD i 0).toNat) 4

/-- Writes one row of an ATTN or an ATTN_MERGE with its status byte and its counts; counters and the three status bits follow FINAL rows
only (R275). `poison`: the row reads poisoned data; `mark`: a fault row's OUT lines carry the POISON bit too. -/
def State.writeRow (s : State) (st d : Nat) (node : Bool) (outD : Desc) (outOff : Nat) (rstatOff : Option Nat) (first last : Nat) (n : Node)
    (poison mark : Bool) : State :=
  let bad := poison || (n.fault && mark)
  let t := if node then s.stbStore st outOff (fullCells (nodeRecord d first last n)) bad
    else
      let codes := (finalRow d n).map fun x => narrow false outD.fmt outD.zpOpt (f32Dec x)
      ((s.stbStore st outOff (rowCells (rowBytes outD.fmt d) (fmtBits outD.fmt) (padCodes outD.fmt (codes.map fun x => some x.code)))
        bad).countNarrow st codes).vxFlags st (finalMarks n)
  let t := match rstatOff with
    | some o => t.stbStore st o (fullCells [rstatByte node n]) poison
    | none => t
  let t := t.setIf poison Reg.ATS_STATUS_POISON_SEEN st
  if node || n.fault then t
  else if n.nan then (t.setFlag Reg.ATS_STATUS_NAN_SCORE st).bump Reg.ATS_NAN_CNT_COUNT 1 st
  else if n.empty then (t.setFlag Reg.ATS_STATUS_EMPTY_ROW st).bump Reg.ATS_EMPTY_CNT_COUNT 1 st
  else if n.inf then (t.setFlag Reg.ATS_STATUS_INF_SCORE st).bump Reg.ATS_INF_CNT_COUNT 1 st
  else t

/-! ### The body of an ATTN -/

/-- A faulted sequence (R277): recorded, counted, logged, reported to the sequencer, and its rows written where they may be. -/
def State.seqFault (s : State) (st : Nat) (c : Attn) (e : LtEntry) (va cause : Nat) : State :=
  let t := if s.flag Reg.ATS_STATUS_MMU_FAULT st then s
    else (((s.setFlag Reg.ATS_STATUS_MMU_FAULT st).setFld Reg.ATS_FAULT_VA_VA va st).setFld Reg.ATS_FAULT_SEQ_LEDGER e.ledger st).setFld
      Reg.ATS_FAULT_SEQ_CAUSE cause st
  let t := (t.bump Reg.ATS_FAULT_CNT_COUNT 1 st).fault 0x0E 1 st (e.ledger + cause * 2 ^ 13)
  let t := { t with atsFault := SMap.set t.atsFault false e.ledger true }
  if e.qrows > 4096 then t
  else (attnRows c e).foldl (fun u r =>
    let o := outSpan c e r
    let b := rstatSpan c e r
    let status := if c.rstat.present && rowFree c e b then some b.1 else none
    if rowFree c e o then
      u.writeRow st c.d c.node c.out o.1 status (c.part * c.w e) ((c.part + 1) * c.w e - 1) (faultNode c.d) false true
    else match status with
      | some x => u.stbStore st x (fullCells [8]) false
      | none => u) t

/-- Whether position `t` is active for query token `j` (R265). -/
def State.attnActive (s : State) (st : Nat) (c : Attn) (e : LtEntry) (j t : Nat) : Bool :=
  let qpos := e.l - e.qrows + j
  decide (t < e.l) && (!c.causal || decide (t ≤ qpos)) && (c.window == 0 || decide (t + c.window > qpos)) &&
    (!c.bm.present || (decide (t < e.bmBase + c.bmLen) &&
      (decide (t < e.bmBase) ||
        bit (byteAt (s.stbRead st ((bmSpan c e j).1 + (t - e.bmBase) / 8) 1) 0) ((t - e.bmBase) % 8))))

/-- The node of one output row over the part's spans, with the conditions of its work. -/
def State.rowNode (s : State) (st : Nat) (c : Attn) (e : LtEntry) (kv : List KvRow) (r : Nat × Nat × Nat) : Node :=
  let x := qSpan c e r
  let qb := s.stbRead st x.1 x.2
  let q := (List.range c.d).map fun i => (expandEX16 c.q.fmt c.q.zpOpt none (packedCode qb (fmtBits c.q.fmt) i)).v
  let mine := kv.filter fun z => z.h == r.2.1
  let find (t : Nat) : Option KvRow := mine.find? fun z => z.t == t
  let dot (z : KvRow) : FAcc := partDot (fun i => accMul (q.getD i 0) (z.k.getD i 0)) c.d 1 0
  let active (t : Nat) : Option KvRow := if s.attnActive st c e r.1 t then find t else none
  let score (t : Nat) : Option Word := (active t).map fun z => (vxMul (dot z).v c.smScale).v
  let ns := (e.l + 511) / 512
  let leaves := (List.range (c.w e)).map fun i =>
    let v := c.part * c.w e + i
    if v < ns then spanNode c.d v score (fun t => ((find t).map (·.v)).getD [])
    else { o := List.replicate c.d 0, empty := true }
  let dots := (mine.filter fun z => s.attnActive st c e r.1 z.t).map dot
  let n := mergeTree (Nat.log2 (c.w e)) leaves
  { n with acc := marks (n.acc :: dots), vx := marks (n.vx :: dots.map fun x => vxMul x.v c.smScale) }

/-- Rows that enter the two arrays for one query row and one span: 512 × D products for the scores and as many for P·V, 16,384 a row
(notes/assumptions/73.md). -/
def Attn.spanRows (c : Attn) : Nat := 2 * 512 * c.d / 16384

/-- One sequence of an ATTN. -/
def State.attnSeq (s : State) (st : Nat) (c : Attn) (i : Nat) : State :=
  let e := parseLt (s.stbRead st (c.lt.loc + 32 * i) 32)
  if !ltGood c e then s.seqFault st c e 0 causeAddr
  else if e.qrows = 0 then s
  else
    let a := if c.newK.present then s.appendAll st c e (List.range e.qrows) else (s, none)
    match a.2 with
    | some f => a.1.seqFault st c e f.1 f.2
    | none =>
      let pages := (List.range ((e.l + 63) / 64)).filter fun p => c.covers e (64 * p)
      let x := a.1.walkPages st c e pages
      match x.2 with
      | .error f => x.1.seqFault st c e f.1 f.2
      | .ok found =>
        let y := x.1.readPages c e found
        let kv := y.2
        let spans := (pages.map (· / 8)).eraseDups.length
        let t := y.1.wr Reg.ATS_SPAN_CNT (y.1.rd Reg.ATS_SPAN_CNT st + spans) st
        let t := t.count Reg.MXE_ROW_CNT_COUNT ((attnRows c e).length * spans * c.spanRows) st
        let t := t.setIf (kv.any (·.inf)) Reg.NUM_STATUS_ACC_INF st
        (attnRows c e).foldl (fun u r =>
          let q := qSpan c e r
          let bm := bmSpan c e r.1
          let poison := y.1.spanPoison st q.1 q.2 || (c.bm.present && y.1.spanPoison st bm.1 bm.2) || kv.any (fun z => z.h == r.2.1 && z.bad)
          let n := y.1.rowNode st c e kv r
          ((u.writeRow st c.d c.node c.out (outSpan c e r).1 (if c.rstat.present then some (rstatSpan c e r).1 else none)
            (c.part * c.w e) ((c.part + 1) * c.w e - 1) n poison true).accFlags st [n.acc]).vxFlags st n.vx) t

/-- The body of an ATTN: it waits for QLATCH before its first score, and for the channels its tables and pages lie in. -/
def attnBody (st : Nat) (s : State) (w : WinCmd) : State :=
  let c := parseAttn w.record
  if (c.qlatch != 0xFF && !s.latch st c.qlatch) || !s.paddockReady st then s
  else ((List.range c.nseq).foldl (fun u i => u.attnSeq st c i) (s.stepTable st c.lt.loc false)).finish st w

/-- ATTN. -/
def execAttn (st : Stall) (seq : Word) (s : State) : Host.Outcome State Fault Refusal :=
  done s (s.engine st seq opAttn (checkAttn st) (fun _ => []) (attnBody st))

/-! ### ATTN_MERGE (R275) -/

structure AttnMerge where
  parts : Nat
  rows : Nat
  dCode : Nat
  node : Bool
  out : Desc
  rstat : Desc
  srcs : List (Nat × Desc)

def parseMerge (rec : List Byte) : AttnMerge :=
  let n := byteAt rec 16
  let l := mergeLayout n
  let f := recField rec l
  let d := recDesc rec l
  ⟨f 0, f 1, f 2, f 3 == 1, d 4, d 5, (List.range n).map fun i => (f (6 + 2 * i), d (7 + 2 * i))⟩

def AttnMerge.d (c : AttnMerge) : Nat := 64 * 2 ^ c.dCode
def AttnMerge.span (c : AttnMerge) (d : Desc) (len : Nat) : Nat × Nat := (d.loc, if c.rows = 0 then 0 else (c.rows - 1) * d.stride + len)
def AttnMerge.outBytes (c : AttnMerge) : Nat := if c.node then 64 + 4 * c.d else rowBytes c.out.fmt c.d
/-- A tensor of the command shares a byte with OUT, or with RSTAT. -/
def AttnMerge.onOut (c : AttnMerge) (d : Desc) (len : Nat) : Bool := rowsMeet d.loc d.stride c.rows len c.out.loc c.out.stride c.rows c.outBytes
def AttnMerge.onStat (c : AttnMerge) (d : Desc) (len : Nat) : Bool :=
  c.rstat.present && rowsMeet d.loc d.stride c.rows len c.rstat.loc 0 1 c.rows

def checkMerge (st : Nat) (s : State) (w : WinCmd) : Verdict :=
  let c := parseMerge w.record
  let ds := c.srcs.map (·.2)
  let ins := ds.map fun d => c.span d (64 + 4 * c.d)
  let out := c.span c.out c.outBytes
  let rst := (c.rstat.loc, c.rows)
  let all := c.out :: (ds ++ (if c.rstat.present then [c.rstat] else []))
  if all.any (fun d => d.loc % 64 != 0) || (c.out :: ds).any (fun d => d.stride % 64 != 0) then
    .rejected ((s.alignFault st 7).setFlag Reg.ATS_STATUS_DESC_BAD st)
  else if !recOk w.record (mergeLayout c.srcs.length) || !([2, 4, 8, 16].contains c.parts) || decide (c.dCode > 2)
      || !c.out.present || all.any (fun d => !d.present || d.kind != 0 || d.comp || d.scaleEn)
      || !(List.range c.parts).all (fun p => (c.srcs.filter fun x => x.1 == p).length == 1)
      || !ins.all inStbSpan || !inStbSpan out || (c.rstat.present && !inStbSpan rst)
      || ds.any (fun d => c.onOut d (64 + 4 * c.d) || c.onStat d (64 + 4 * c.d)) || c.onStat c.out c.outBytes then
    .rejected (s.setFlag Reg.ATS_STATUS_DESC_BAD st)
  else if all.any (fun d => !d.fmtGood) then .rejected (s.setFlag Reg.NUM_STATUS_FMT_BAD st)
  else if c.rows = 0 then .zero
  else .run

/-- A node as a record holds it, with its first and last span. -/
def parseNode (d : Nat) (b : List Byte) : Node × Nat × Nat :=
  let w (i : Nat) : Word := BitVec.ofNat 32 (leAt b i 4)
  ({ m := w 0, l := w 4, o := (List.range d).map fun i => w (64 + 4 * i), empty := bit (byteAt b 8) 0, nan := bit (byteAt b 8) 1,
     inf := bit (byteAt b 8) 2, fault := bit (byteAt b 8) 3 }, leAt b 12 2, leAt b 14 2)

def mergeBody (st : Nat) (s : State) (w : WinCmd) : State :=
  let c := parseMerge w.record
  let len := 64 + 4 * c.d
  let src (p : Nat) : Desc := match c.srcs.find? (fun x => x.1 == p) with | some x => x.2 | none => c.out
  ((List.range c.rows).foldl (fun u r =>
    let nodes := (List.range c.parts).map fun p => parseNode c.d (s.stbRead st ((src p).loc + r * (src p).stride) len)
    let poison := (List.range c.parts).any fun p => s.spanPoison st ((src p).loc + r * (src p).stride) len
    let f0 := ((nodes.head?).map (·.2.1)).getD 0
    let wd := ((nodes.head?).map fun n => n.2.2 + 1 - n.2.1).getD 0
    let last := ((nodes.getLast?).map (·.2.2)).getD 0
    let fits := wd != 0 && f0 % (c.parts * wd) == 0 && (List.range c.parts).all fun p =>
      match nodes[p]? with | some n => n.2.1 == f0 + p * wd && n.2.2 + 1 == f0 + (p + 1) * wd | none => false
    let n := if !fits || nodes.any (fun n => n.1.fault) then faultNode c.d else mergeTree (Nat.log2 c.parts) (nodes.map (·.1))
    ((u.setIf (!fits) Reg.ATS_STATUS_DESC_BAD st).vxFlags st n.vx).writeRow st c.d c.node c.out (c.out.loc + r * c.out.stride)
      (if c.rstat.present then some (c.rstat.loc + r) else none) f0 last n poison (!c.node)) s).finish st w

/-- ATTN_MERGE. -/
def execAttnMerge (st : Stall) (seq : Word) (s : State) : Host.Outcome State Fault Refusal :=
  done s (s.engine st seq opAttnMerge (checkMerge st) (fun _ => []) (mergeBody st))

end Sys2Proof.Machine
end

