-- ==== Sys2Proof/Machine/Ledger.lean ====
section
/-! DEFINITION. The request ledger: entries, ledger commands, tenant budgets, output rings and records (11_serving.md R282 to R288,
R298, R308, R312; 12_sampler_and_output.md R330 to R335; 14_host_interface.md R374 to R377). -/
namespace Sys2Proof.Machine

/-! ### Paddock sections (R431) -/

def State.sect (s : State) (p : Nat) : List Byte := SMap.get s.tackPdk [] p
def State.pdkOf (s : State) (p : Nat) : Pdk := SMap.get s.pdks {} p
def State.putPdk (s : State) (p : Nat) (x : Pdk) : State := { s with pdks := SMap.set s.pdks {} p x }
/-- A paddock is in force. -/
def State.pdkOn (s : State) (p : Nat) : Bool := s.sect p != []
def State.ldgBase (s : State) (p : Nat) : Nat := bits (leAt (s.sect p) 4 2) 12 0
def State.ldgCount (s : State) (p : Nat) : Nat := bits (leAt (s.sect p) 6 2) 13 0
def State.nlg (s : State) (p : Nat) : Nat := bits (leAt (s.sect p) 44 2) 8 0
def State.kmax (s : State) (p : Nat) : Nat := bits (byteAt (s.sect p) 35) 3 0
def State.chunk (s : State) (p : Nat) : Nat := bits (leAt (s.sect p) 36 2) 12 0
def State.ringWait (s : State) (p : Nat) : Nat := leAt (s.sect p) 38 2
def State.tenantIn (s : State) (p t : Nat) : Bool := bit (byteAt (s.sect p) (48 + t / 8)) (t % 8)
def State.slice (s : State) (p : Nat) : List Nat := if s.pdkOn p then (List.range (s.ldgCount p)).map (s.ldgBase p + ·) else []
def State.pdkOfIx (s : State) (ix : Nat) : Option Nat :=
  (List.range 16).find? fun p => s.pdkOn p && decide (s.ldgBase p ≤ ix) && decide (ix < s.ldgBase p + s.ldgCount p)
/-- Stalls of a paddock in ring order. -/
def State.pdkStalls (s : State) (p : Nat) : List Nat := (List.range 16).filter fun st => s.paddockOf st == some p
/-- The stall whose tumbler registers count a record that the ledger makes itself: the lowest of the paddock (notes/assumptions/33.md). -/
def State.firstStall (s : State) (p : Nat) : Nat := (s.pdkStalls p).headD 0
/-- Role set `r`: its 32 bytes. -/
def State.roleset (s : State) (p r : Nat) : List Byte := ((s.sect p).drop (128 + 32 * r)).take 32
def State.nRoleset (s : State) (p : Nat) : Nat := bits (byteAt (s.sect p) 34) 1 0 + 1
def State.promptStalls (s : State) (p r : Nat) : List Nat := (s.pdkStalls p).filter fun st => bit (leAt (s.roleset p r) 0 2) st
/-- BAND_HI of the bands used. -/
def State.bandHi (s : State) (p r : Nat) : List Nat :=
  (List.range (byteAt (s.roleset p r) 2)).map fun i => leAt (s.roleset p r) (16 + 2 * i) 2
/-- Size of the group of a paddock, 0 for none; its rank; the DID of a rank. -/
def State.groupSize (s : State) (p : Nat) : Nat := byteAt (s.sect p) 258
def State.groupRank (s : State) (p : Nat) : Nat := bits (byteAt (s.sect p) 259) 5 0
def State.groupDid (s : State) (p r : Nat) : Nat := leAt (s.sect p) (384 + 2 * r) 2
def State.follower (s : State) (p : Nat) : Bool := s.groupSize p != 0 && s.groupRank p != 0
def State.importSources (s : State) (p : Nat) : List Nat :=
  (List.range (bits (byteAt (s.sect p) 261) 4 0)).map fun i => leAt (s.sect p) (264 + 2 * i) 2

/-! ### Entries -/

def stFree : Nat := 0
def stQueued : Nat := 1
def stPrompt : Nat := 2
def stDecode : Nat := 3
def stWaitPg : Nat := 4
def stPaused : Nat := 5
def stDrain : Nat := 6
def stDone : Nat := 7

def State.entryOf (s : State) (ix : Nat) : Entry := SMap.get s.ledger {} ix
/-- Writes an entry; VERSION follows at the end of the command (`State.versions`). -/
def State.putEntry (s : State) (ix : Nat) (e : Entry) : State := { s with ledger := SMap.set s.ledger {} ix e }

def Entry.live (e : Entry) : Bool := e.state != stFree && e.state != stDrain && e.state != stDone
def State.stateCount (s : State) (p k : Nat) : Nat := ((s.slice p).filter fun ix => (s.entryOf ix).state == k).length
def State.tenantActive (s : State) (t : Nat) : Nat := (s.ledger.filter fun x => x.2.state != stFree && x.2.tenant == t).length
def State.allFree (s : State) (p : Nat) : Bool := (s.slice p).all fun ix => (s.entryOf ix).state == stFree
/-- The window of R315: bytes of an entry. -/
def State.ledgerByte (s : State) (ix o : Nat) : Byte := (s.entryOf ix).bytes.getD o 0

/-! ### Host memory on behalf of a function (R369, R370, R380, R381) -/

/-- What an access to host memory that may wait for a page comes to. -/
inductive HostTry
  | ok (a : Nat)
  | waits
  | fail
deriving DecidableEq, Repr

def State.hostTry (s : State) (fn a : Nat) (write : Bool) : State × HostTry :=
  match s.xlate fn a write with
  | (t, .ok x) => (t, .ok x)
  | (t, .wait) => (t, .waits)
  | (t, .denied) =>
    match t.askPage fn a with
    | (u, .fail) => (u, .fail)
    | (u, _) => (u, .waits)

/-- A page request of the function for the page of `a` is outstanding. -/
def State.pageAsked (s : State) (fn a : Nat) : Bool := s.pageReqs.any fun r => r.fn == fn && r.page == pageOf a

/-! ### Paddock stops (R443) -/

/-- A paddock stops starting steps: event 0x0F once, with the first stop cause. One that is ABORTING reports that until its slice is all FREE
(R312). -/
def State.stopPdk (s : State) (p cause : Nat) : State :=
  let k := s.pdkOf p
  if k.stop != 0 || !s.pdkOn p then s
  else
    let t := s.putPdk p { k with stop := cause }
    (if s.fld Reg.PDK_STATUS_STATE 0 p = 3 then t else t.setFld Reg.PDK_STATUS_STATE 4 0 p).fault 0x0F 6 p cause

/-- The hinge of an idle paddock is wanted (R289). -/
def State.wantHinge (s : State) (p : Nat) : State := s.putPdk p { s.pdkOf p with due := true }

/-! ### Records and output rings (R330 to R335) -/

/-- The 16 bytes of a record with serial number `n`. -/
def recBytes (r : Rec) (n : Word) (log2 : Nat) (tb : Dword) : List Byte :=
  let last := [2, 3, 4, 5].contains r.kind
  leBytes (r.token % 2 ^ 20 + r.kind * 2 ^ 20 + b2n last 24 + b2n r.stop 25 + b2n r.draft 26 + b2n (!bit n.toNat log2) 27) 4 ++
  leBytes r.logprob 2 ++ leBytes n.toNat 2 ++ leBytes r.pos 4 ++ leBytes tb.toNat 4

def Rec.closing (r : Rec) : Bool := [2, 3, 4, 5].contains r.kind
/-- F as a count: a ring that is full, or beyond, has none (R332). -/
def Entry.room (e : Entry) : Nat :=
  let used := (e.ringHead - e.tailSeen).toNat
  if used ≥ 2 ^ e.ringLog2 then 0 else 2 ^ e.ringLog2 - used

/-- The event of TMB_FIRST: the first since its status bit was clear. -/
def State.tmbFirst (s : State) (st : Nat) (b : Fld) (ix cause : Nat) : State :=
  let kept := match s.fld Reg.TMB_FIRST_CAUSE st with
    | 1 => s.flag Reg.TMB_STATUS_PARAM_BAD st
    | 2 => s.flag Reg.TMB_STATUS_EMPTY_ROW st
    | 3 => s.flag Reg.TMB_STATUS_POISON_ROW st
    | 4 => s.flag Reg.TMB_STATUS_RING_BAD st
    | _ => false
  if s.flag b st then s
  else if kept then s.setFlag b st
  else ((s.setFlag b st).setFld Reg.TMB_FIRST_LEDGER ix st).setFld Reg.TMB_FIRST_CAUSE cause st

/-- TAIL read again: waits while its translation is awaited, fails while a page of it is requested. A TAIL out of range is kept too, and
leaves the ring full (R332). -/
def State.readTail (s : State) (ix st : Nat) : State × HostTry :=
  let e := s.entryOf ix
  match s.hostTry e.fn e.ringBase false with
  | (t, .ok a) =>
    if SMap.get t.hostPoison false (a / 64) then (t.cplErr e.fn aerPoisoned, .fail) else
    let tail := BitVec.ofNat 32 (leAt (t.bytes (hostKey a) 4) 0 4)
    let t := if (e.ringHead - tail).toNat > 2 ^ e.ringLog2 then t.tmbFirst st Reg.TMB_STATUS_RING_BAD ix 4 else t
    (t.putEntry ix { t.entryOf ix with tailSeen := tail }, .ok a)
  | (t, .waits) => (t, if t.pageAsked e.fn e.ringBase then .fail else .waits)
  | (t, .fail) => (t, .fail)

/-- The gap of R298, judged at a commit or a record. -/
def State.judgeGap (s : State) (ix : Nat) : State :=
  let e := s.entryOf ix
  if e.tbtTgt != 0 && !e.tbtLate && decide (s.tb.toNat > e.tLast.toNat + 1000 * e.tbtTgt) then
    (s.putEntry ix { e with tbtMiss := min (e.tbtMiss + 1) (2 ^ 32 - 1), tbtLate := true }).bump Reg.PDK_TBT_MISS_COUNT 1 0 e.paddock
  else s

def State.judgeFirst (s : State) (ix : Nat) : State :=
  let e := s.entryOf ix
  if e.first || e.imported then s
  else if e.ttftTgt != 0 && decide (s.tb.toNat - e.tSubmit.toNat > 1000 * e.ttftTgt) then
    (s.putEntry ix { e with ttftMiss := true, first := true }).bump Reg.PDK_TTFT_MISS_COUNT 1 0 e.paddock
  else s.putEntry ix { e with first := true }

/-- The ledger's part of R335 for a record written. Every record judges the gap before it, but of a step's token records the first alone
(R298). -/
def State.recordIssued (s : State) (ix : Nat) (r : Rec) : State :=
  let t := if r.kind ≠ 0 || r.lead then s.judgeGap ix else s
  let t := if r.kind = 0 then t.judgeFirst ix else t
  let e := t.entryOf ix
  let t := t.putEntry ix { e with
    ringHead := e.ringHead + 1, tLast := s.tb, tbtLate := false, recs := e.recs.drop 1, closed := e.closed || r.closing,
    issuedTo := if r.kind = 0 then max e.issuedTo (r.pos + 1) else e.issuedTo }
  let t := (if r.kind = 0 then t.wr Reg.TMB_TOKEN_CNT (t.rd Reg.TMB_TOKEN_CNT r.st + 1) r.st else t).fnEvent e.fn srcRec
  if r.closing then t.fnEvent e.fn srcErr else t

/-- The records of an entry enter the hold: the one that cannot go and those behind it, each counted once (R333). -/
def State.holdRecs (s : State) (ix : Nat) : State :=
  let e := s.entryOf ix
  let t := (e.recs.filter fun r => !r.held).foldl
    (fun u r => (u.bump Reg.TMB_HELD_CNT_COUNT 1 r.st).setFlag Reg.TMB_STATUS_RING_HELD r.st) s
  t.putEntry ix { t.entryOf ix with recs := e.recs.map fun r => { r with held := true } }

/-- A record that is not to be written: a token of a request whose CANCEL has been seen (R301), or one whose position has been issued
(R334). -/
def Entry.drops (e : Entry) (r : Rec) : Bool := r.kind == 0 && (e.cancelReq || decide (r.pos < e.issuedTo))

/-- A CANCEL seen: CANCEL_REQ, and the records held are discarded (R301, R334); a closing record still goes out (R302). -/
def Entry.cancelled (e : Entry) : Entry := { e with cancelReq := true, recs := e.recs.filter fun r => !r.held || r.closing }

/-- The record at the front of an entry's queue goes out, or enters the hold where its ring is too full or a page of it is requested
(R332, R333); a translation that is merely awaited holds nothing. -/
def State.issueFront (s : State) (ix : Nat) : State × Bool :=
  let e := s.entryOf ix
  match e.recs with
  | [] => (s, false)
  | r :: rest =>
    if e.silent then (s.putEntry ix { e with recs := rest, closed := e.closed || r.closing }, true)
    else if e.drops r then (s.putEntry ix { e with recs := rest }, true)
    else
      let need := if r.closing then 1 else 2
      let x := if e.room ≥ need then (s, HostTry.ok 0) else s.readTail ix r.st
      let t := x.1
      let e := t.entryOf ix
      let slot := e.ringBase + 64 + 16 * (e.ringHead.toNat % 2 ^ e.ringLog2)
      match x.2 with
      | .waits => (t, false)
      | .fail => (t.holdRecs ix, false)
      | .ok _ =>
        if e.room < need then (t.holdRecs ix, false)
        else
          match t.hostTry e.fn slot true with
          | (u, .ok a) => ((u.putBytes (hostKey a) (recBytes r e.ringHead e.ringLog2 u.tb)).recordIssued ix r, true)
          | (u, .waits) => (if u.pageAsked e.fn slot then u.holdRecs ix else u, false)
          | (u, .fail) => (u.holdRecs ix, false)

/-- An entry of a function whose next record waits for TAIL, and is not held yet. -/
def State.tailWanted (s : State) (fn : Nat) : Option Nat :=
  (s.ledger.find? fun x => x.2.fn == fn && match x.2.recs with
    | [] => false
    | r :: _ => !r.held && !x.2.silent && decide (x.2.room < (if r.closing then 1 else 2))).map (·.1)

/-- COMPLETION_TIMEOUT: the host read of the function that gets no completion fails (R380): a record that waits for TAIL is held, as for a
full ring (R333); without one it is the read of a DMA channel, of a short transfer or of a ledger fetch. -/
def execCompletionTimeout (fn : Fn) (s : State) : Host.Outcome State Fault Refusal :=
  let t := s.cplErr fn aerTimeout
  match s.tailWanted fn with
  | some ix => done s (t.holdRecs ix)
  | none => done s (t.readTimeout fn)

/-- Records issued in order while they go. -/
def State.issueAll (s : State) (ix : Nat) : Nat → State
  | 0 => s
  | n + 1 => let x := s.issueFront ix; if x.2 then State.issueAll x.1 ix n else x.1

def State.queueRec (s : State) (ix : Nat) (r : Rec) : State :=
  let e := s.entryOf ix
  s.putEntry ix { e with recs := e.recs ++ [r] }

def Entry.holds (e : Entry) : Bool := e.recs.any (·.held)

/-- RECORD_ISSUE: the oldest record of the entry. -/
def execRecordIssue (ix : LedgerIx) (s : State) : Host.Outcome State Fault Refusal := done s (s.issueFront ix).1

/-- TAIL_REREAD: TAIL is read again and held records go out as space appears. -/
def execTailReread (ix : LedgerIx) (s : State) : Host.Outcome State Fault Refusal :=
  let e := s.entryOf ix
  match e.recs with
  | r :: _ => if r.held then done s (((s.readTail ix r.st).1).issueAll ix e.recs.length) else .next s
  | [] => .next s

/-- RING_WAIT_TIMEOUT: the hinge of the paddock plans without the holding requests. -/
def execRingWaitTimeout (p : Paddock) (t : Dword) (s : State) : Host.Outcome State Fault Refusal :=
  let k := s.pdkOf p
  match k.waitFrom with
  | some w =>
    if t.toNat ≥ w.toNat + 1000 * s.ringWait p then done s ((s.atTb t).putPdk p { k with waited := true }) else .next s
  | none => .next s

/-! ### Ledger commands (R286 to R288) -/

def codeBadField : Nat := 1
def codeTenant : Nat := 2
def codeClosed : Nat := 3
def codeNoPrompt : Nat := 4
def codeNoEntry : Nat := 5
def codeStale : Nat := 6

/-- The tenant that a command acts for: the physical function and a link name one in a SUBMIT. -/
def cmdTenant (cmd : List Byte) (fn : Nat) : Nat := if fn = 0 then byteAt cmd 56 else fn - 1

/-- BAD_FIELD: an unknown OP, a reserved bit, a value out of range. -/
def State.cmdBad (s : State) (cmd : List Byte) : Bool :=
  let op := byteAt cmd 0
  let z (i n : Nat) : Bool := leAt cmd i n == 0
  if op = 1 then
    let p := bits (byteAt cmd 1) 3 0
    let log2 := bits (leAt cmd 4 4) 28 24
    let k := byteAt cmd 3
    let spec := bit (byteAt cmd 2) 0
    !(decide (byteAt cmd 2 < 4) && decide (k < 16) && decide (bits (leAt cmd 4 4) 31 29 = 0) && z 11 1 && z 20 4 && z 57 7
      && decide (1 ≤ leAt cmd 12 4) && decide (leAt cmd 12 4 ≤ leAt cmd 16 4) && decide (leAt cmd 16 4 ≤ 1048576)
      && decide (2 ≤ log2) && decide (log2 ≤ 20) && decide (k ≤ s.kmax p) && (spec || k == 0)
      && decide (leAt cmd 24 8 % 64 = 0) && decide (leAt cmd 40 8 % 64 = 0)
      && decide (bits (leAt cmd 32 8) 5 1 = 0) && decide (bits (leAt cmd 32 8) 63 48 = 0))
  else if op = 2 || op = 4 then !(z 1 3 && decide (leAt cmd 4 2 < 8192) && z 6 42 && z 56 8)
  else if op = 3 then !(z 1 3 && decide (leAt cmd 4 2 < 8192) && z 6 2 && z 10 38 && z 56 8) || z 8 2
  else if op = 5 then !(z 1 3 && decide (leAt cmd 4 2 < 8192) && z 6 6 && decide (leAt cmd 12 4 < 2 ^ 20) && z 16 32 && z 56 8)
  else true

/-- States that a command applies to. -/
def Entry.takes (e : Entry) (op : Nat) : Bool :=
  if op = 2 then e.live
  else if op = 3 then e.live && e.state != stPaused
  else if op = 4 then e.state == stPaused
  else e.imported && !e.importDone && (e.state == stQueued || e.state == stPrompt)

/-- The first failure of R287; `link`: the DID a command over Dartin comes from (R418). In maintenance mode every command is CLOSED
(R430), and so is every command of a follower's own host (R415). A command that names an entry of no slice is STALE (R282). -/
def State.cmdCheck (s : State) (cmd : List Byte) (fn : Nat) (link : Option Nat) : Option Nat :=
  let op := byteAt cmd 0
  let ix := leAt cmd 4 2
  let stranger (p : Nat) : Bool := match link with | some d => !(s.importSources p).contains d | none => false
  let named := if op = 1 then some (bits (byteAt cmd 1) 3 0) else if [2, 3, 4, 5].contains op then s.pdkOfIx ix else none
  if s.maintenance || (link.isNone && named.any s.follower) then some codeClosed
  else if s.cmdBad cmd then some codeBadField
  else if op = 1 then
    let p := bits (byteAt cmd 1) 3 0
    if (link.isNone && fn != 0 && byteAt cmd 56 != 0) || !s.tenantIn p (cmdTenant cmd fn) || stranger p then some codeTenant
    else if !s.flag Reg.PDK_CTRL_OPEN 0 p then some codeClosed
    else if !bit (byteAt cmd 2) 1 && (List.range (s.nRoleset p)).all (fun r => (s.promptStalls p r).isEmpty) then some codeNoPrompt
    else if !(s.slice p).any (fun ix => (s.entryOf ix).state == stFree) then some codeNoEntry
    else none
  else match s.pdkOfIx ix with
    | none => some codeStale
    | some p =>
      let e := s.entryOf ix
      if stranger p then some codeTenant
      else if e.takes op && e.hostTag.toNat == leAt cmd 48 8 && (fn == 0 || e.tenant == fn - 1) then none
      else some codeStale

/-- A refused command: CMD_REJ, the code of the first, the count. -/
def State.cmdRefused (s : State) (code : Nat) : State :=
  let t := if s.flag Reg.LDG_STATUS_CMD_REJ then s else s.setFld Reg.LDG_STATUS_REJ_CODE code
  (t.setFlag Reg.LDG_STATUS_CMD_REJ).bump Reg.LDG_REJ_CNT_COUNT 1

/-- Pages that an entry holds, those that a copy under way fills included (R314). -/
def Entry.allPages (e : Entry) : List HeldPage := e.pages ++ (match e.copy with | some c => c.dst | none => [])

def State.pgTotal (s : State) (p : Nat) : Nat := (s.pdkOf p).pool.length
/-- Pages of the tier pool: none where the tier is absent (R432). -/
def State.tierTotal (s : State) (p : Nat) : Nat := if s.lpNch = 0 then 0 else leAt (s.sect p) 20 3
/-- Free pages of a paddock's stack pool or tier pool. -/
def State.freePages (s : State) (p : Nat) (tier : Bool) : List Nat :=
  let used := (s.slice p).flatMap fun ix => ((s.entryOf ix).allPages.filter fun h => h.tier == tier).map (·.page)
  (List.range (if tier then s.tierTotal p else s.pgTotal p)).filter fun g => !used.contains g
/-- Free stack pages of ring position `i`. -/
def State.freeAt (s : State) (p i : Nat) : List Nat :=
  (s.freePages p false).filter fun g => match (s.pdkOf p).pool[g]? with | some x => x.pos == i | none => false

/-- The stall position whose pool holds the most free pages, the lowest winning ties. -/
def State.homeOf (s : State) (p : Nat) : Nat :=
  (List.range (s.pdkStalls p).length).foldl (fun b i => if (s.freeAt p i).length > (s.freeAt p b).length then i else b) 0

/-- An accepted command takes effect (R288): the ledger index it names or takes. -/
def State.cmdApply (s : State) (cmd : List Byte) (fn : Nat) (link : Option Nat) : State × Nat :=
  let op := byteAt cmd 0
  if op = 1 then
    let p := bits (byteAt cmd 1) 3 0
    match (s.slice p).find? fun ix => (s.entryOf ix).state == stFree with
    | none => (s, 0xFFFF)
    | some ix =>
      let region := s.tableRegion p
      let pdkFn := bits (leAt (s.sect p) 32 2) 8 0
      let e : Entry := {
        state := stQueued, paddock := p, tenant := cmdTenant cmd fn, priority := bits (byteAt cmd 1) 7 4,
        spec := bit (byteAt cmd 2) 0, imported := bit (byteAt cmd 2) 1, kDraft := bits (byteAt cmd 3) 3 0,
        ttftTgt := bits (leAt cmd 4 4) 23 0, ringLog2 := bits (leAt cmd 4 4) 28 24, tbtTgt := bits (leAt cmd 8 4) 23 0,
        lPrompt := leAt cmd 12 4, lMax := leAt cmd 16 4, promptPtr := leAt cmd 24 8, sampPtr := leAt cmd 32 8,
        ringBase := leAt cmd 40 8, hostTag := BitVec.ofNat 64 (leAt cmd 48 8), home := s.homeOf p,
        root := region.1 + (ix - s.ldgBase p) * 512 * s.nlg p + (if region.2.1 then 1 else 0),
        tSubmit := s.tb, tLast := s.tb, fn := if link.isSome then pdkFn else fn, link := link, silent := s.follower p, version := (s.entryOf ix).version }
      let t := ((s.putEntry ix e).queueRec ix { kind := 1, token := ix, pos := 0, st := s.firstStall p }).issueFront ix |>.1
      ((t.putPdk p { t.pdkOf p with cmds := (t.pdkOf p).cmds ++ [cmd.set 56 (BitVec.ofNat 8 (cmdTenant cmd fn))] }).wantHinge p, ix)
  else
    let ix := leAt cmd 4 2
    let e := s.entryOf ix
    let e' :=
      if op = 2 then e.cancelled
      else if op = 3 then { e with pauseReq := true, ttlReq := leAt cmd 8 2 }
      else if op = 4 then { e with resumeReq := true }
      else { e with importDone := true, lastTok := leAt cmd 12 4 }
    let t := s.putEntry ix e'
    ((t.putPdk e.paddock { t.pdkOf e.paddock with cmds := (t.pdkOf e.paddock).cmds ++ [cmd] }).wantHinge e.paddock, ix)

/-- A command checked and applied or refused: its status and the index of its completion. -/
def State.ledgerCommand (s : State) (cmd : List Byte) (fn : Nat) (link : Option Nat) : State × Nat × Nat :=
  match s.cmdCheck cmd fn link with
  | some c => (s.cmdRefused c, c, if [2, 3, 4, 5].contains (byteAt cmd 0) then leAt cmd 4 2 else 0xFFFF)
  | none => let x := s.cmdApply cmd fn link; (x.1, 0, x.2)

/-- The completion record of R376. -/
def cplBytes (serial : Word) (status : Nat) (phase : Bool) (ix : Nat) (cmd : List Byte) : List Byte :=
  leBytes serial.toNat 4 ++ leBytes (status + 16 * (byteAt cmd 0 % 16)) 1 ++ leBytes (b2n phase 0) 1 ++ leBytes ix 2 ++ (cmd.drop 48).take 8

/-- The function whose command the ledger checks next: round robin by number among those with a fetched command (R375). -/
def State.lqNext (s : State) : Option Nat :=
  ((List.range 257).map fun i => (s.lqTurn + i) % 257).find? fun f => !(s.fnOf f).fetched.isEmpty && (s.fnOf f).cpl.isNone

/-- OPENED of the entry that a SUBMIT took has not gone out yet. -/
def State.openedWaits (s : State) (ix : Nat) : Bool := (s.entryOf ix).recs.any fun r => r.kind == 1

/-- The completion record of a checked command is issued: after OPENED, which is tried again first; it waits while a page of its slot is
awaited, and where the host grants none its write fails (R376, R381, R382). -/
def State.completeCmd (s : State) (fn : Nat) : State :=
  match (s.fnOf fn).cpl with
  | none => s
  | some c =>
    let s := if c.status = 0 && byteAt c.cmd 0 = 1 && s.openedWaits c.ix then (s.issueFront c.ix).1 else s
    if c.status = 0 && byteAt c.cmd 0 = 1 && s.openedWaits c.ix then s
    else
      let log2 := s.fld Reg.FN_LQ_CFG_LOG2 0 fn
      let slot := s.rd Reg.FN_CQ_BASE 0 fn + 16 * (c.serial.toNat % 2 ^ log2)
      match s.hostTry fn slot true with
      | (t, .ok a) => (t.putBytes (hostKey a) (cplBytes c.serial c.status (!bit c.serial.toNat log2) c.ix c.cmd)).cplDone fn
      | (t, .waits) => if t.pageAsked fn slot then t.putFn fn { t.fnOf fn with cplPage := some (pageOf slot) } else t
      | (t, .fail) => t.cplDone fn

/-- The command at the front of a function's fetched commands is checked where its OP is `op` and it is the function's turn, a SUBMIT row
taking every unknown OP too; its completion record follows. A row of a function whose last completion still waits tries that again
(R375, R376). -/
def State.ledgerRow (s : State) (fn op : Nat) : State :=
  let is (cmd : List Byte) : Bool := byteAt cmd 0 == op || (op == 1 && !([1, 2, 3, 4, 5].contains (byteAt cmd 0)))
  match (s.fnOf fn).cpl, (s.fnOf fn).fetched with
  | some c, _ => if is c.cmd then s.completeCmd fn else s
  | none, [] => s
  | none, (serial, cmd) :: rest =>
    if !is cmd || s.lqNext != some fn then s
    else
      let x := s.ledgerCommand cmd fn none
      let t := x.1.putFn fn { x.1.fnOf fn with fetched := rest, cpl := some ⟨serial, x.2.1, x.2.2, cmd⟩ }
      State.completeCmd { t with lqTurn := (fn + 1) % 257 } fn

/-- SUBMIT (R288). -/
def execSubmit (fn : Fn) (s : State) : Host.Outcome State Fault Refusal := done s (s.ledgerRow fn 1)
/-- CANCEL. -/
def execCancel (fn : Fn) (s : State) : Host.Outcome State Fault Refusal := done s (s.ledgerRow fn 2)
/-- PAUSE. -/
def execPause (fn : Fn) (s : State) : Host.Outcome State Fault Refusal := done s (s.ledgerRow fn 3)
/-- RESUME. -/
def execResume (fn : Fn) (s : State) : Host.Outcome State Fault Refusal := done s (s.ledgerRow fn 4)
/-- IMPORT_DONE. -/
def execImportDone (fn : Fn) (s : State) : Host.Outcome State Fault Refusal := done s (s.ledgerRow fn 5)

/-! ### Command rings (R374 to R377) -/

/-- Every command that a function fetched has its completion record issued (R377). -/
def FnState.idle (f : FnState) : Bool := f.fetched.isEmpty && f.cpl.isNone

/-- A doorbell count beyond the ring sets LQ_BAD and clears EN (R375). -/
def State.doorbellCheck (s : State) (fn : Nat) : State :=
  let n := BitVec.ofNat 32 (s.rd Reg.FN_LQ_HEAD 0 fn)
  if s.flag Reg.FN_CTRL_EN 0 fn && decide (((s.fnOf fn).lqTail - n).toNat > 2 ^ s.fld Reg.FN_LQ_CFG_LOG2 0 fn) then
    let t := (s.setFld Reg.FN_CTRL_EN 0 0 fn).fnErr fn Reg.FN_STATUS_LQ_BAD
    if (t.fnOf fn).idle then t else t.fnErr fn Reg.FN_STATUS_DRAINING
  else s

/-- LEDGER_FETCH: command n is read while it lies before the doorbell count and within the ring of CTAIL. -/
def execLedgerFetch (fn : Fn) (s : State) : Host.Outcome State Fault Refusal :=
  let f := s.fnOf fn
  let log2 := s.fld Reg.FN_LQ_CFG_LOG2 0 fn
  let n := BitVec.ofNat 32 (s.rd Reg.FN_LQ_HEAD 0 fn)
  if s.flag Reg.FN_CTRL_EN 0 fn && !f.d3 && !f.flr && f.fetchPage.isNone && decide (0 < (f.lqTail - n).toNat)
      && decide ((f.lqTail - n).toNat ≤ 2 ^ log2) && decide ((n - f.cqTail).toNat < 2 ^ log2) then
    let a := s.rd Reg.FN_LQ_BASE 0 fn + 64 * (n.toNat % 2 ^ log2)
    match s.hostTry fn a false with
    | (t, .ok x) =>
      if SMap.get t.hostPoison false (x / 64) then done s ((t.cplErr fn aerPoisoned).fnErr fn Reg.FN_STATUS_LQ_BAD) else
      done s ((t.putFn fn { t.fnOf fn with fetched := (t.fnOf fn).fetched ++ [(n, t.bytes (hostKey x) 64)] }).count
        Reg.FN_LQ_HEAD_HEAD 1 0 fn)
    | (t, .waits) =>
      done s (if t.pageAsked fn a then t.putFn fn { t.fnOf fn with fetchPage := some (pageOf a) } else t)
    | (t, .fail) => done s (t.fnErr fn Reg.FN_STATUS_LQ_BAD)
  else .next s

/-- A ring configuration that can be put in force (R374). -/
def State.fnCfgOk (s : State) (fn : Nat) : Bool :=
  let log2 := s.fld Reg.FN_LQ_CFG_LOG2 0 fn
  decide (2 ≤ log2) && decide (log2 ≤ 16) && decide (s.rd Reg.FN_LQ_BASE 0 fn % 64 = 0) && decide (s.rd Reg.FN_CQ_BASE 0 fn % 64 = 0)

/-- R374: EN is set where the configuration is good; the ring starts at the counts last written. -/
def State.fnEnable (s : State) (fn : Nat) : State :=
  if s.fnCfgOk fn then
    ((s.setFlag Reg.FN_CTRL_EN 0 fn).wr Reg.FN_LQ_HEAD (s.fnOf fn).lqTail.toNat 0 fn).wr Reg.FN_CQ_HEAD (s.fnOf fn).cqTail.toNat 0 fn
  else s.fnErr fn Reg.FN_STATUS_LQ_BAD

/-- FN_EN_SET: held during a drain, of the ring or of a reset (R377, R389). -/
def State.fnEnSet (s : State) (fn : Nat) : State :=
  if s.flag Reg.FN_CTRL_EN 0 fn then s
  else if s.flag Reg.FN_STATUS_DRAINING 0 fn then s.fnErr fn Reg.FN_STATUS_PENDING_ENABLE
  else s.fnEnable fn
def execFnEnSet (fn : Fn) (s : State) : Host.Outcome State Fault Refusal := done s (s.fnEnSet fn)

/-- FN_EN_CLEAR: fetches stop; the drain lasts while fetched commands wait (R377). -/
def State.fnEnClear (s : State) (fn : Nat) : State :=
  let t := (s.setFld Reg.FN_CTRL_EN 0 0 fn).setFld Reg.FN_STATUS_PENDING_ENABLE 0 0 fn
  if s.flag Reg.FN_CTRL_EN 0 fn && !(s.fnOf fn).idle then t.fnErr fn Reg.FN_STATUS_DRAINING else t
def execFnEnClear (fn : Fn) (s : State) : Host.Outcome State Fault Refusal := done s (s.fnEnClear fn)

/-- A drain of the function ends; a held enable takes effect (R377). -/
def State.fnDrained (s : State) (fn : Nat) : State :=
  let t := s.setFld Reg.FN_STATUS_DRAINING 0 0 fn
  if t.flag Reg.FN_STATUS_PENDING_ENABLE 0 fn then (t.setFld Reg.FN_STATUS_PENDING_ENABLE 0 0 fn).fnEnable fn else t

/-- FN_DRAIN_END: every fetched command has its completion record. -/
def execFnDrainEnd (fn : Fn) (s : State) : Host.Outcome State Fault Refusal :=
  if s.flag Reg.FN_STATUS_DRAINING 0 fn && (s.fnOf fn).idle && !(s.fnOf fn).flr then done s (s.fnDrained fn) else .next s

/-- FN_LQ_DBELL. -/
def State.lqDbell (s : State) (fn : Nat) (v : Word) : State := (s.putFn fn { s.fnOf fn with lqTail := v }).doorbellCheck fn
def execFnLqDbell (fn : Fn) (tail : Word) (s : State) : Host.Outcome State Fault Refusal := done s (s.lqDbell fn tail)

/-- FN_CQ_DBELL. -/
def State.cqDbell (s : State) (fn : Nat) (v : Word) : State := s.putFn fn { s.fnOf fn with cqTail := v }
def execFnCqDbell (fn : Fn) (tail : Word) (s : State) : Host.Outcome State Fault Refusal := done s (s.cqDbell fn tail)

/-! ### Budgets and admission (R308, R312) -/

/-- A budget as the signed number it is. -/
def budget (v : Nat) : Int := if v ≥ 2 ^ 31 then (v : Int) - 2 ^ 32 else v
def budgetBits (i : Int) : Nat := (i % 2 ^ 32).toNat

/-- TNT_REFILL: at a 1 ms boundary of TB every budget is refilled. -/
def execTntRefill (t : Dword) (s : State) : Host.Outcome State Fault Refusal :=
  if t.toNat % 1000000 = 0 then
    done s ((List.range 256).foldl (fun u k =>
      let r := u.rd Reg.TNT_REFILL 0 k
      if r = 0 then u
      else u.wr Reg.TNT_BUDGET (budgetBits (min (budget (u.rd Reg.TNT_BUDGET 0 k) + r) (u.rd Reg.TNT_CAP 0 k))) 0 k) (s.atTb t))
  else .next s

/-- PDK_CTRL.OPEN written: held as PENDING_ENABLE during ABORTING; a follower stays closed, and so does a paddock whose books have failed
(R312, R314, R415). -/
def State.pdkOpen (s : State) (p : Nat) (v : Bool) : State :=
  let st := s.fld Reg.PDK_STATUS_STATE 0 p
  if !s.pdkOn p then s
  else if st = 3 then (if v then s.setFlag Reg.PDK_STATUS_PENDING_ENABLE 0 p else s.setFld Reg.PDK_STATUS_PENDING_ENABLE 0 0 p)
  else if v && (s.follower p || (s.pdkOf p).bookBad) then s
  else
    let t := s.setFld Reg.PDK_CTRL_OPEN (if v then 1 else 0) 0 p
    (if st = 1 || st = 2 then t.setFld Reg.PDK_STATUS_STATE (if v then 2 else 1) 0 p else t).wantHinge p
/-- PDK_OPEN: a write of PDK_CTRL, which starts a hinge of an idle paddock whatever it changes (R289). -/
def execPdkOpen (p : Paddock) (v : Bool) (s : State) : Host.Outcome State Fault Refusal :=
  if s.pdkOn p then done s ((s.pdkOpen p v).wantHinge p) else .next s

/-- Every entry of the slice has been freed: ABORTING ends, and a held enable takes effect. -/
def State.abortEnd (s : State) (p : Nat) : State :=
  if s.fld Reg.PDK_STATUS_STATE 0 p = 3 && s.allFree p then
    let t := s.setFld Reg.PDK_STATUS_STATE (if (s.pdkOf p).stop != 0 then 4 else 1) 0 p
    if t.flag Reg.PDK_STATUS_PENDING_ENABLE 0 p then (t.setFld Reg.PDK_STATUS_PENDING_ENABLE 0 0 p).pdkOpen p true else t
  else s

/-- ABORT_ALL: CANCEL_REQ on every live entry, OPEN cleared, a held enable cancelled. -/
def State.abortAll (s : State) (p : Nat) : State :=
  if !s.pdkOn p then s
  else
    let t := (s.slice p).foldl (fun u ix =>
      let e := u.entryOf ix
      if e.live then u.putEntry ix e.cancelled else u) s
    let t := ((t.setFld Reg.PDK_CTRL_OPEN 0 0 p).setFld Reg.PDK_STATUS_PENDING_ENABLE 0 0 p).setFld Reg.PDK_STATUS_STATE 3 0 p
    (t.wantHinge p).abortEnd p
def execAbortAll (p : Paddock) (s : State) : Host.Outcome State Fault Refusal := done s (s.abortAll p)

end Sys2Proof.Machine
end

