-- ==== Sys2Proof/Machine/Sampler.lean ====
section
/-! DEFINITION. The tumbler: SAMPLE (12_sampler_and_output.md R318 to R329, R508). -/
namespace Sys2Proof.Machine

/-! ### Sampler parameters (R318, R319) -/

structure Params where
  seed : Nat
  temp : Word
  topK : Nat
  nstop : Nat
  topP : Word
  minP : Word
  maskEn : Bool
  maskView : Bool
  maskPtr : Nat
  stops : List Nat
  biases : List (Nat × Word)
deriving DecidableEq, Repr

def wordAt (b : List Byte) (i : Nat) : Word := BitVec.ofNat 32 (leAt b i 4)

def parseParams (b : List Byte) : Params :=
  { seed := leAt b 0 8, temp := wordAt b 8, topK := leAt b 12 2, topP := wordAt b 16, minP := wordAt b 20,
    nstop := byteAt b 14, maskEn := bit (byteAt b 24) 0, maskView := bit (leAt b 32 8) 0, maskPtr := bits (leAt b 32 8) 47 6 * 64,
    stops := (List.range (min 8 (byteAt b 14))).map fun i => leAt b (64 + 4 * i) 4,
    biases := (List.range (min 64 (byteAt b 15))).map fun i => (leAt b (128 + 8 * i) 4, wordAt b (132 + 8 * i)) }

/-- The block breaks R319 by its own bytes. -/
def paramsBad (b : List Byte) (v : Nat) : Bool :=
  let p := parseParams b
  let z (i n : Nat) : Bool := leAt b i n == 0
  let rsv := !(z 25 7 && z 40 8 && z 48 8 && z 56 8 && z 96 32 && decide (byteAt b 24 < 2)
    && bits (leAt b 32 8) 5 1 == 0 && bits (leAt b 32 8) 63 48 == 0
    && (List.range 8).all (fun i => decide (leAt b (64 + 4 * i) 4 < 2 ^ 20)) && (List.range 64).all fun i => decide (leAt b (128 + 8 * i) 4 < 2 ^ 20))
  rsv || bit p.temp.toNat 31 || !f32IsFin p.temp || decide (p.topK > 1024)
    || !(f32Lt f32Zero p.topP && f32Le p.topP f32One) || !(f32Le f32Zero p.minP && f32Le p.minP f32One)
    || decide (byteAt b 14 > 8) || decide (byteAt b 15 > 64)
    || p.stops.any (fun t => decide (t ≥ v)) || p.biases.any fun x => decide (x.1 ≥ v) || f32IsNan x.2

/-- Bytes at a device address in the regions of the stall's paddock: none where a line lies elsewhere or is poisoned. -/
def State.ownRead (s : State) (st : Nat) (view : Bool) (a n : Nat) : State × Option (List Byte) :=
  if (List.range ((n + 63) / 64)).any fun i => (s.mmuAddr st view (a + 64 * i)).isSome then (s, none)
  else match s.devRead view a n (n / 64 + 2) with
    | none => (s, none)
    | some (t, b, poison) => (t, if poison then none else some b)

/-- The parameters of a request and its mask; none for an invalid block. -/
def State.params (s : State) (st ptr v : Nat) : State × Option (Params × List Byte) :=
  match s.ownRead st (bit ptr 0) (bits ptr 47 6 * 64) 640 with
  | (t, none) => (t, none)
  | (t, some b) =>
    let p := parseParams b
    if paramsBad b v then (t, none)
    else if p.maskEn then
      match t.ownRead st p.maskView p.maskPtr ((v + 511) / 512 * 64) with
      | (u, none) => (u, none)
      | (u, some m) => (u, some (p, m))
    else (t, some (p, []))

/-! ### The generator (R327) -/

/-- One round of Philox-4×32. -/
def philoxRound (c : Word × Word × Word × Word) (k : Word × Word) : Word × Word × Word × Word :=
  let m0 := 0xD2511F53 * c.1.toNat
  let m1 := 0xCD9E8D57 * c.2.2.1.toNat
  (BitVec.ofNat 32 (m1 / 2 ^ 32) ^^^ c.2.1 ^^^ k.1, BitVec.ofNat 32 m1, BitVec.ofNat 32 (m0 / 2 ^ 32) ^^^ c.2.2.2 ^^^ k.2, BitVec.ofNat 32 m0)

def philox : Nat → Word × Word × Word × Word → Word × Word → Word × Word × Word × Word
  | 0, c, _ => c
  | n + 1, c, k => philox n (philoxRound c k) (k.1 + 0x9E3779B9#32, k.2 + 0xBB67AE85#32)

/-- R0: ten rounds on the counter (position, 0, 0, 0) under the key of SEED. -/
def generatorWord (seed pos : Nat) : Word :=
  (philox 10 (BitVec.ofNat 32 pos, 0, 0, 0) (BitVec.ofNat 32 seed, BitVec.ofNat 32 (seed / 2 ^ 32))).1

/-! ### The pipeline (R321 to R326) -/

/-- A candidate: its token, its value after bias and its scaled score. -/
structure Cand where
  t : Nat
  x : Word
  z : Word
deriving DecidableEq, Repr

/-- Steps 1 to 5 of R321: the candidates and how many allowed logits were NaN. -/
def candidates (p : Params) (mask : List Byte) (row : List Word) : List Cand × Nat :=
  let rcp := f32Rcp p.temp
  let all := (List.range row.length).filterMap fun t =>
    if p.maskEn && !bit (byteAt mask (t / 8)) (t % 8) then none
    else some (t, p.biases.foldl (fun x b => if b.1 = t then f32Add x b.2 else x) (row.getD t 0))
  let good := all.filter fun c => !f32IsNan c.2
  (good.map fun c => ⟨c.1, c.2, if p.temp = f32Zero then c.2 else f32Mul c.2 rcp⟩, all.length - good.length)

/-- The node of R322 over `v` tokens. -/
def rowNode (v : Nat) (l : List Cand) : Node :=
  let ns := (v + 511) / 512
  let score (t : Nat) : Option Word := (l.find? fun c => c.t == t).map (·.z)
  let n := nspOf ns 1
  mergeTree (Nat.log2 n) ((List.range n).map fun k => spanNode 0 k score fun _ => [])

/-- e[t] of R322; a row whose candidates are all −∞ has weights of +0. -/
def weight (n : Node) (z : Word) : Word :=
  if n.empty then f32Zero
  else if n.m = f32PosInf then (if z = f32PosInf then f32One else f32Zero)
  else (f32Rndx (f32Exp (f32Sub z n.m))).1

/-- `c` put into a list ranked by z, largest first, the lowest token first in a tie. -/
def rankInsert (c : Cand) : List Cand → List Cand
  | [] => [c]
  | d :: r => if f32Lt d.z c.z then c :: d :: r else d :: rankInsert c r

/-- The shortest prefix whose sequential sum of weights reaches `goal`; all where none does. -/
def topPrefix (n : Node) (goal : Word) : List Cand → Word → List Cand
  | [], _ => []
  | c :: r, acc =>
    let a := f32Add acc (weight n c.z)
    if f32Le goal a then [c] else c :: topPrefix n goal r a

/-- The list of R323; TOP_P of 1.0 and MIN_P of 0 are off. -/
def sampleList (p : Params) (n : Node) (l : List Cand) : List Cand :=
  let ranked := (l.foldl (fun r c => rankInsert c r) []).take (if p.topK = 0 then 1024 else p.topK)
  let kept := if f32Eq p.minP f32Zero then ranked else ranked.filter fun c => !f32Lt (weight n c.z) p.minP
  if p.topP = f32One then kept else topPrefix n (f32Mul p.topP n.l) kept f32Zero

/-- The first candidate at which the running sum exceeds the target (R324). -/
def drawAt (n : Node) (target : Word) : List Cand → Word → Option Cand
  | [], _ => none
  | c :: r, acc =>
    let a := f32Add acc (weight n c.z)
    if f32Lt target a then some c else drawAt n target r a

/-- R324 with R0 = `r0`. -/
def draw (n : Node) (r0 : Word) (l : List Cand) : Option Cand :=
  let s := l.foldl (fun a c => f32Add a (weight n c.z)) f32Zero
  let u := f32Enc (.fin false (r0.toNat / 256) (-24))
  match drawAt n (f32Mul u s) l f32Zero with
  | some c => some c
  | none => l.getLast?

/-- R325: the MAXI of the candidates' x. -/
def greedy (l : List Cand) : Option Cand :=
  match l.foldl (fun b c => maxStep false b c.x c.t) none with
  | none => none
  | some (_, t) => l.find? fun c => c.t == t

/-- R326 in FP16. -/
def logProb (n : Node) (c : Cand) : Nat :=
  let e := weight n c.z
  if e = f32Zero then 0xFC00
  else
    let v := f32Mul (f32Add (f32Log2 e) (f32NegW (f32Log2 n.l))) 0x3F317218#32
    (narrow false 7 none (f32Dec v)).code

/-- The token of a row at position `pos`, with its LOGPROB; none for an empty row. -/
def chooseToken (p : Params) (v pos : Nat) (l : List Cand) : Option (Nat × Nat) :=
  let n := rowNode v l
  let c := if p.temp = f32Zero then greedy l else draw n (generatorWord p.seed pos) (sampleList p n l)
  c.map fun c => (c.t, logProb n c)

/-! ### SAMPLE (R508, R320, R328, R329) -/

structure SampleCmd where
  logits : Desc
  v : Nat
  table : Nat
  nent : Nat
deriving DecidableEq, Repr

def parseSample (rec : List Byte) : SampleCmd :=
  { logits := recDesc rec sampleLayout 0, v := recField rec sampleLayout 1, table := recField rec sampleLayout 2, nent := recField rec sampleLayout 3 }

def checkSample (st : Nat) (s : State) (w : WinCmd) : Verdict :=
  let c := parseSample w.record
  if c.logits.present && !c.logits.fmtGood then .rejected (s.setFlag Reg.NUM_STATUS_FMT_BAD st)
  else if !recOk w.record sampleLayout || !c.logits.present || c.logits.kind != 0 || c.logits.comp || c.logits.scaleEn || c.logits.zpEn
      || !([6, 7, 8].contains c.logits.fmt) || c.v == 0 || decide (c.v > 1048576) || decide (c.nent > 8192)
      || decide (c.table + 64 * c.nent > stbSize) then .rejected (s.setFlag Reg.TMB_STATUS_DESC_BAD st)
  else if !c.logits.aligned || c.table % 64 != 0 then .rejected (s.alignFault st 6)
  else if c.nent = 0 then .zero
  else .run

/-- Bytes of a logit row; what would lie past the STB is free. -/
def State.logitBytes (s : State) (st off n : Nat) : State × List Byte :=
  if off + n ≤ stbSize then (s, s.stbRead st off n)
  else (s.tick n, s.stbRead st off (stbSize - off) ++ s.freeBytes (n - (stbSize - off)))

/-- What sampling the rows of a request gives: records in order, its accepted count, last token, a stop, and a row without a candidate. -/
structure RowsOut where
  recs : List Rec := []
  a : Nat := 0
  last : Nat := 0
  stop : Bool := false
  empty : Bool := false
  nans : Nat := 0
deriving DecidableEq, Repr

/-- Rows sampled in turn (R328). `i`: the row, of `nr`; `fuel` rows are left. -/
def State.sampleRows (s : State) (st : Nat) (c : SampleCmd) (p : Params) (mask : List Byte) (nr pos0 row0 draft : Nat) :
    Nat → Nat → RowsOut → State × RowsOut
  | _, 0, o => (s, o)
  | i, fuel + 1, o =>
    let x := s.logitBytes st (c.logits.loc + (row0 + i) * c.logits.stride) (rowBytes c.logits.fmt c.v)
    let row := (List.range c.v).map fun t => widen32 c.logits.fmt none (packedCode x.2 (fmtBits c.logits.fmt) t)
    let cand := candidates p mask row
    match chooseToken p c.v (pos0 + i) cand.1 with
    | none => (x.1, { o with empty := true, nans := o.nans + cand.2 })
    | some (tok, lp) =>
      let isStop := p.stops.contains tok
      let d := leAt (x.1.stbRead st ((draft + 4 * i) % stbSize) 4) 0 4
      let go := decide (i + 1 < nr) && tok == d && !isStop
      let r : Rec := { kind := 0, token := tok, pos := pos0 + i, logprob := lp, stop := isStop, draft := go, st := st }
      let o := { o with recs := o.recs ++ [r], a := o.a + 1, last := tok, stop := isStop, nans := o.nans + cand.2 }
      if go then State.sampleRows x.1 st c p mask nr pos0 row0 draft (i + 1) fuel o else (x.1, o)

/-- The tumbler's report to the sequencer. -/
def State.report (s : State) (st : Nat) (r : SampRes) : State :=
  match s.paddockOf st with
  | none => s
  | some p => let k := s.pdkOf p; s.putPdk p { k with res := k.res.filter (fun x => x.ix != r.ix) ++ [r] }

/-- A condition of R329: no token, no record. -/
def State.noToken (s : State) (st ix : Nat) (b cnt : Fld) (cause : Nat) : State :=
  ((s.tmbFirst st b ix cause).bump cnt 1 st).report st ⟨ix, 0, 0, false, 2⟩

/-- One entry of the sampling table. A record goes to the ledger where the request is live, its position has not been issued, the step has
not aborted and the paddock is no follower (R334, R412, R416). -/
def State.sampleEntry (s : State) (st : Nat) (c : SampleCmd) (i : Nat) : State :=
  let b := s.stbRead st (c.table + 64 * i) 64
  let ix := bits (leAt b 0 2) 12 0
  let nr := min 16 (bits (byteAt b 2) 4 0)
  let pos0 := leAt b 4 4
  let row0 := leAt b 8 3
  if nr = 0 then s
  else
    let bad := (List.range nr).any fun k => s.spanPoison st (c.logits.loc + (row0 + k) * c.logits.stride) (rowBytes c.logits.fmt c.v)
    if bad then s.noToken st ix Reg.TMB_STATUS_POISON_ROW Reg.TMB_POISON_CNT_COUNT 3
    else
      match s.params st (leAt b 40 8) c.v with
      | (t, none) => t.noToken st ix Reg.TMB_STATUS_PARAM_BAD Reg.TMB_PARAM_CNT_COUNT 1
      | (t, some (p, mask)) =>
        let x := t.sampleRows st c p mask nr pos0 row0 (leAt b 12 3) 0 nr {}
        let o := x.2
        let u := x.1.wr Reg.TMB_ROW_CNT (x.1.rd Reg.TMB_ROW_CNT st + o.a) st
        let u := if o.nans = 0 then u else (u.bump Reg.TMB_NAN_CNT_COUNT o.nans st).setFlag Reg.TMB_STATUS_NAN_LOGIT st
        if o.empty then u.noToken st ix Reg.TMB_STATUS_EMPTY_ROW Reg.TMB_EMPTY_CNT_COUNT 2
        else
          let e := u.entryOf ix
          let k := u.pdkOf e.paddock
          let mute := e.state == stFree || e.state == stDone || k.abandonAt.isSome || k.abandon || u.follower e.paddock
          let recs := o.recs.filter fun r => !mute && decide (r.pos ≥ max e.issuedTo (leAt b 36 4))
          -- the first of the step's records judges the gap (R298)
          let u := (recs.zipIdx).foldl (fun v r => v.queueRec ix { r.1 with lead := r.2 == 0 }) u
          u.report st ⟨ix, o.a, o.last, o.stop, 0⟩

/-- The body of a SAMPLE; it waits for the channels that its parameter blocks and masks lie in. -/
def sampleBody (st : Nat) (s : State) (w : WinCmd) : State :=
  let c := parseSample w.record
  if !s.paddockReady st then s
  else ((List.range c.nent).foldl (fun u i => u.sampleEntry st c i) (s.stepTable st c.table true)).finish st w

/-- SAMPLE. -/
def execSample (st : Stall) (seq : Word) (s : State) : Host.Outcome State Fault Refusal :=
  done s (s.engine st seq opSample (checkSample st) (fun _ => []) (sampleBody st))

end Sys2Proof.Machine
end

