-- ==== Sys2Proof/Machine/Stream.lean ====
section
/-! DEFINITION. The dispatcher's own commands: dispatch, completion, SKIP and FLUSH, latches, step start and step end
(13_control_core.md R350 to R354). -/
namespace Sys2Proof.Machine

/-- A record that the dispatcher itself rejects: an OP outside R347, more than four waits, or a body that LEN cuts short. -/
def WinCmd.refused (w : WinCmd) : Bool :=
  !opListed w.op || decide (bits (byteAt w.record 1) 6 4 > 4) || decide (w.record.length < bodyEnd w.op w.record)

/-- DISPATCH: the first command of the window that may go is bound to its engine; nothing while a rejection is held (R350, R353). -/
def execDispatch (st : Stall) (s : State) : Host.Outcome State Fault Refusal :=
  let d := s.dspOf st
  if d.held.isSome || !s.stallUp st then .next s
  else match s.pick st [] d.window with
    | none => .next s
    | some (w, rest) =>
      let t := s.putWindow st { d with window := rest, running := d.running ++ [w] }
      if w.refused then done s (t.reject st w) else done s t

/-- A command with status OK leaves its engine and releases its latch (R351); a STEP_END reaches the sequencer (R354). -/
def State.complete (s : State) (st : Nat) (w : WinCmd) : State :=
  let t := (s.dropRunning st w.seq).dqDone st w
  let t := if w.relEn || w.op == opLatchRel then t.release st w.relStall w.rel else t
  if w.op = opStepEnd then
    match t.paddockOf st with
    | some p =>
      let k := t.pdkOf p
      if k.running && !k.ended.contains st then t.putPdk p { k with ended := k.ended ++ [st] } else t
    | none => t
  else t

/-- COMMAND_COMPLETE. -/
def execCommandComplete (st : Stall) (seq : Word) (s : State) : Host.Outcome State Fault Refusal :=
  match (s.dspOf st).running.find? fun w => w.seq == seq && w.ok with
  | none => .next s
  | some w => done s (s.complete st w)

/-- DSP_SKIP. -/
def execDspSkip (st : Stall) (s : State) : Host.Outcome State Fault Refusal := if s.stallUp st then done s (s.skip st) else .next s
/-- DSP_FLUSH. -/
def execDspFlush (st : Stall) (s : State) : Host.Outcome State Fault Refusal := if s.stallUp st then done s (s.flush st) else .next s

/-- A command waits on, or releases in its own stall, a latch of a mask. -/
def WinCmd.touches (w : WinCmd) (st mask : Nat) : Bool :=
  w.latches.any (fun l => bit mask l) || (match w.frees st with | some k => bit mask k | none => false)

/-- LATCH_ARM: waits for every earlier command that names a masked latch, then clears them (R352). -/
def execLatchArm (st : Stall) (seq : Word) (s : State) : Host.Outcome State Fault Refusal :=
  match s.runningCmd st seq opLatchArm with
  | none => .next s
  | some w =>
    let mask := recField w.record latchArmLayout 0
    if ((s.dspOf st).earlier seq).any fun x => x.touches st mask then .next s
    else done s (((List.range 256).foldl (fun u l => if bit mask l then u.setLatch st l false else u) s).finish st w)

/-- LATCH_REL: complete once its waits are met; its completion releases REL (R351). -/
def execLatchRel (st : Stall) (seq : Word) (s : State) : Host.Outcome State Fault Refusal :=
  match s.runningCmd st seq opLatchRel with
  | none => .next s
  | some w => done s (s.finish st w)

/-- STEP_END: complete once every command accepted before it has completed (R354). -/
def execStepEnd (st : Stall) (seq : Word) (s : State) : Host.Outcome State Fault Refusal :=
  match s.runningCmd st seq opStepEnd with
  | none => .next s
  | some w => if ((s.dspOf st).earlier seq).isEmpty then done s (s.finish st w) else .next s

/-- STEP_START_MSG: the message of the sequencer arrives and is held one deep until WSTEP takes it (R354). -/
def execStepStartMsg (st : Stall) (s : State) : Host.Outcome State Fault Refusal :=
  match SMap.get s.stepMsgs [] st with
  | [] => .next s
  | m :: rest =>
    done s { (s.putDsp st { s.dspOf st with stepMsg := some m }) with stepMsgs := SMap.set s.stepMsgs [] st rest }

end Sys2Proof.Machine
end

