-- ==== Sys2Proof/Machine/Hinge.lean ====
section
/-! DEFINITION. The paddock sequencer: planning and commit at the hinge, pages, eviction, pause and resume, the books (11_serving.md R289
to R314). -/
namespace Sys2Proof.Machine

/-! ### Page tables (R259, R282, R296) -/

/-- Word 0 of the leaf entry of a page. -/
def State.leafWord (s : State) (p : Nat) (h : HeldPage) : Nat :=
  if h.tier then leAt (s.sect p) 24 8 / 2 ^ 16 * 2 ^ 16 + h.page * 65536 + 1
  else match (s.pdkOf p).pool[h.page]? with
    | none => 0
    | some g =>
      if g.stripe then 1 + 4 + g.q / 32 * 2 ^ 16 + g.q % 32 / 16 * 2 ^ 19 + g.c / 4096 * 2 ^ 32
      else 1 + 2 + (0xC000000000 + g.q * 2 ^ 31 + g.c) / 65536 * 65536

/-- Side-table index of a page: its number in the stack pool, tier pages after it (notes/assumptions/34.md). -/
def State.sideIx (s : State) (p : Nat) (h : HeldPage) : Nat := if h.tier then s.pgTotal p + h.page else h.page

def State.tableWrite (s : State) (p a v n : Nat) : State :=
  match s.devWrite (s.tableRegion p).2.1 a (leBytes v n) (n / 64 + 2) with | some t => t | none => s

/-- The leaf table of a span of 256 pages of positions, taken from those free where there is none yet. -/
def State.leafFor (s : State) (p ix lg hi : Nat) : State × Nat :=
  let e := s.entryOf ix
  match e.leafs.find? fun l => l.1 == lg && l.2.1 == hi with
  | some l => (s, l.2.2)
  | none =>
    let used := (s.slice p).flatMap fun i => (s.entryOf i).leafs.map (·.2.2)
    let no := ((List.range (used.length + 1)).find? fun i => !used.contains i).getD 0
    let a := s.leafStart p + 4096 * no
    let t := s.putEntry ix { e with leafs := e.leafs ++ [(lg, hi, no)] }
    let t := t.tableWrite p a 0 4096
    (t.tableWrite p (e.root / 64 * 64 + 8 * (lg * 64 + hi)) (a + 1 + (if (s.tableRegion p).2.1 then 2 else 0)) 8, no)

/-- The leaf entry of a page is written. -/
def State.mapLeaf (s : State) (p ix : Nat) (h : HeldPage) : State :=
  let x := s.leafFor p ix h.lg (h.tp / 256)
  x.1.tableWrite p (s.leafStart p + 4096 * x.2 + 16 * (h.tp % 256)) (s.leafWord p h + s.sideIx p h * 2 ^ 64) 16

/-- Pages leave an entry: their leaf entries, and a leaf table with none left, become invalid. -/
def State.unmapPages (s : State) (p ix : Nat) (gone : List HeldPage) : State :=
  let e := s.entryOf ix
  let left := e.pages.filter fun h => !gone.contains h
  let t := gone.foldl (fun u h =>
    match e.leafs.find? fun l => l.1 == h.lg && l.2.1 == h.tp / 256 with
    | some l => u.tableWrite p (s.leafStart p + 4096 * l.2.2 + 16 * (h.tp % 256)) 0 16
    | none => u) s
  let dead := e.leafs.filter fun l => !(left.any fun h => h.lg == l.1 && h.tp / 256 == l.2.1)
  let t := dead.foldl (fun u l => u.tableWrite p (e.root / 64 * 64 + 8 * (l.1 * 64 + l.2.1)) 0 8) t
  t.putEntry ix { t.entryOf ix with
    pages := left, leafs := e.leafs.filter (fun l => !dead.contains l),
    pgHeld := left.length + (match e.copy with | some c => c.dst.length | none => 0) }

/-- Which of the free pages is taken is not stated: a free choice. -/
def State.pickFree (s : State) (l : List Nat) : State × Nat :=
  (s.tick, l.getD (s.freeVal.toNat % max 1 l.length) 0)

/-- A stack page for page of positions `tp`: from the pool of the span's stall, or the next in ring order that has one. -/
def State.takeStack (s : State) (p home tp : Nat) : Option (State × Nat) :=
  let n := max 1 (s.pdkStalls p).length
  match ((List.range n).map fun i => s.freeAt p ((home + tp / 8 + i) % n)).find? fun l => !l.isEmpty with
  | some l => some (s.pickFree l)
  | none =>
    -- a pool whose stall has left the paddock
    match s.freePages p false with | [] => none | l => some (s.pickFree l)

/-- Maps pages for the wanted (layer-group, page of positions) pairs, all or nothing (R279, R296). -/
def State.mapAll (s : State) (p ix : Nat) : List (Nat × Nat) → Option State
  | [] => some s
  | (lg, tp) :: r =>
    match s.takeStack p (s.entryOf ix).home tp with
    | none => none
    | some (t, g) =>
      let e := t.entryOf ix
      let h : HeldPage := ⟨lg, tp, g, false⟩
      State.mapAll ((t.putEntry ix { e with pages := e.pages ++ [h], pgHeld := e.pgHeld + 1 }).mapLeaf p ix h) p ix r

/-- The pairs that positions `a` to `b − 1` reach and that are not mapped. -/
def State.wanted (s : State) (p ix a b : Nat) : List (Nat × Nat) :=
  let e := s.entryOf ix
  if b ≤ a then []
  else ((List.range ((b - 1) / 64 - a / 64 + 1)).flatMap fun i => (List.range (s.nlg p)).map fun lg => (lg, a / 64 + i)).filter
    fun x => !(e.pages.any fun h => h.lg == x.1 && h.tp == x.2)

/-- Pages of the tier pool for every page an entry holds in the stacks, all or nothing. -/
def State.tierFor (s : State) (p ix : Nat) : Option (List HeldPage) :=
  let e := s.entryOf ix
  let free := s.freePages p true
  if s.tierTotal p = 0 || decide (free.length < e.pages.length) then none
  else some ((e.pages.zip free).map fun x => { x.1 with page := x.2, tier := true })

/-! ### Copies (R297, R304, R306) -/

/-- A page's bytes and its side-table entry copied, line by line. -/
def State.copyPage (s : State) (p : Nat) (a b : HeldPage) : State :=
  let st := s.firstStall p
  let place (u : State) (h : HeldPage) (o : Nat) : LineRef :=
    let w := u.leafWord p h
    u.pageLine ⟨bit w 2, bit w 1, bits w 47 16 * 65536, 32 * bits w 18 16 + 16 * bits w 19 19, bits w 50 32 * 4096, 0⟩ o
  let t := (List.range 1024).foldl (fun u i =>
    let x := u.lineRead (place u a (64 * i))
    x.1.lineWrite (place u b (64 * i)) x.2.1 false) s
  let view := t.flag Reg.ATS_SIDE_BASE_VIEW st
  let base := t.fld Reg.ATS_SIDE_BASE_ADDR st * 64
  match t.devRead view (base + 32 * s.sideIx p a) 32 2 with
  | none => t
  | some (u, l, _) => match u.devWrite view (base + 32 * s.sideIx p b) l 2 with | some v => v | none => u

/-- KV_COPY_DONE: the copy of an entry's pages ends; it takes effect at the next commit. It waits for the channels of the paddock. -/
def execKvCopyDone (ix : LedgerIx) (s : State) : Host.Outcome State Fault Refusal :=
  let e := s.entryOf ix
  match e.copy with
  | none => .next s
  | some c =>
    if c.ready || !s.paddockReady (s.firstStall e.paddock) then .next s
    else
      let t := c.dst.foldl (fun u d =>
        match e.pages.find? fun h => h.lg == d.lg && h.tp == d.tp with
        | some a => u.copyPage e.paddock a d
        | none => u) s
      done s (t.putEntry ix { t.entryOf ix with copy := some { c with ready := true } })

/-- A finished copy takes effect: the pages and leaf entries change over. -/
def State.applyCopy (s : State) (p ix : Nat) : State :=
  let e := s.entryOf ix
  match e.copy with
  | none => s
  | some c =>
    if !c.ready then s
    else
      let t := s.putEntry ix { e with
        copy := none, pages := c.dst, pgHeld := c.dst.length, kvLoc := if c.toTier then 2 else 0,
        resumeReq := if c.toTier then e.resumeReq else false }
      c.dst.foldl (fun u h => u.mapLeaf p ix h) t

/-! ### Results, ends, cancels, pauses (R299 to R307) -/

/-- A request closes: its records not yet issued stay before the closing one, but a cancel discards them (R301, R334). -/
def State.closeEntry (s : State) (ix kind token : Nat) : State :=
  let e := s.entryOf ix
  let r : Rec := { kind := kind, token := token, pos := e.lCommit, st := s.firstStall e.paddock }
  s.putEntry ix { e with
    state := stDrain, cancelReq := false, pauseReq := false, resumeReq := false, replay := false,
    recs := (if kind = 3 then [] else e.recs) ++ [r], tExpire := 0 }

/-- What a finished step did to one of its requests (R299, R300, R303): a position whose draft was rejected counts nowhere, so that TOK_IN
stays within L_MAX. A request with CANCEL_REQ takes the step's counts and ends by the cancel. -/
def State.applyResult (s : State) (p : Nat) (r : StepReq) : State :=
  let k := s.pdkOf p
  let e := s.entryOf r.ix
  if !e.live then s
  else
    let res := k.res.find? fun x => x.ix == r.ix
    let fail : Nat := if SMap.get s.atsFault false r.ix then 1 else match res with | some x => x.cause | none => 0
    let ends (t : State) (x : SampRes) (l : Nat) : State :=
      if e.cancelReq then t else if x.stop then t.closeEntry r.ix 2 0 else if l ≥ e.lMax then t.closeEntry r.ix 2 1 else t
    if fail != 0 then (if e.cancelReq then s else (s.closeEntry r.ix 5 fail).bump Reg.PDK_FAIL_CNT_COUNT 1 0 p)
    else if r.prompt then
      let l := e.lCommit + r.qrows
      let e := { e with lCommit := l, lSpec := l, tokIn := e.tokIn + r.qrows }
      if l < e.lPrompt then s.putEntry r.ix e
      else
        match res with
        | none => s.putEntry r.ix { e with state := stDecode }
        | some x => ends (s.putEntry r.ix { e with state := stDecode, tokOut := e.tokOut + x.a, lastTok := x.lastTok }) x l
    else
      match res with
      | none => s
      | some x =>
        let l := e.lCommit + x.a
        ends (s.putEntry r.ix { e with
          lCommit := l, lSpec := l, tokIn := e.tokIn + x.a, tokOut := e.tokOut + x.a, lastTok := x.lastTok }) x l

/-- Positions that a generation sequence computes: 1 + K (R294). -/
def Entry.qrows (e : Entry) : Nat := 1 + (if e.spec then min e.kDraft (e.lMax - e.lSpec - 1) else 0)

/-- Pages whose first position is L_SPEC or beyond are freed, but for those that the step being planned reaches (R296, R299): `keep`. -/
def State.rollback (s : State) (p ix : Nat) (keep : Bool) : State :=
  let e := s.entryOf ix
  if (e.state == stDecode || e.state == stWaitPg) && e.kvLoc == 0 then
    s.unmapPages p ix (e.pages.filter fun h => decide (64 * h.tp ≥ e.lSpec + if keep then e.qrows else 0))
  else s

/-- PAUSE applied (R304), or refused (R307), which leaves the request as it was: the pages that a rollback frees are not copied. RESUME_REQ of
a restore that it overtakes is cleared. -/
def State.applyPause (s : State) (p ix : Nat) : State :=
  let t := s.rollback p ix false
  let e := t.entryOf ix
  let paused := { e with
    state := stPaused, pauseReq := false, resumeReq := false, ttl := e.ttlReq, tExpire := s.tb + BitVec.ofNat 64 (1000000000 * e.ttlReq),
    replay := false }
  if e.kvLoc != 0 then t.putEntry ix paused
  else match t.tierFor p ix with
    | some dst =>
      t.putEntry ix { paused with kvLoc := 1, copy := some { toTier := true, dst := dst }, pgHeld := e.pages.length + dst.length }
    | none => (s.putEntry ix { s.entryOf ix with pauseReq := false }).queueRec ix { kind := 6, token := 0, pos := e.lCommit, st := s.firstStall p }

/-- The part of planning that looks at every entry of the slice, one after another. A PAUSE of a request that is moving back to the stacks
is applied when its copy has ended (notes/assumptions/33.md). -/
def State.settleEntry (s : State) (p ix : Nat) : State :=
  let s := s.applyCopy p ix
  let e := s.entryOf ix
  let still := match e.copy with | some c => !c.ready | none => false
  if e.state = stDone then s.putEntry ix { e with state := stFree, pgHeld := 0 }
  else if e.state = stDrain then
    if e.closed && !still then
      let t := s.unmapPages p ix e.pages
      t.putEntry ix { t.entryOf ix with state := stDone, copy := none, pgHeld := 0, kvLoc := 0 }
    else s
  else if e.state = stFree then s
  else if e.cancelReq then s.closeEntry ix 3 0
  else if e.state = stPaused && !e.resumeReq && decide (e.tExpire.toNat ≤ s.tb.toNat) then s.closeEntry ix 4 0
  else if e.pauseReq && e.state != stPaused && e.kvLoc != 3 then s.applyPause p ix
  else if e.resumeReq && e.state == stPaused then s.putEntry ix { e with state := stQueued, tExpire := 0, resumeReq := e.kvLoc != 0 }
  else if e.imported && e.importDone && e.state == stPrompt then
    let t := s.putEntry ix { e with state := stDecode, lCommit := e.lPrompt, lSpec := e.lPrompt, tokIn := e.tokIn + e.lPrompt }
    if e.lPrompt ≥ e.lMax then t.closeEntry ix 2 1 else t
  else s

/-! ### Ranking and selection (R292 to R296) -/

def Entry.genCand (e : Entry) : Bool :=
  (e.state == stDecode || e.state == stWaitPg || (e.state == stQueued && decide (e.lCommit ≥ e.lPrompt))) && e.kvLoc == 0
    && !e.cancelReq && !e.pauseReq && !e.holds
/-- A prompt candidate; an import, until its prompt pages are mapped, again also after a pause (R285, R306). -/
def Entry.promptCand (e : Entry) : Bool :=
  (e.state == stQueued || e.state == stPrompt) && !e.cancelReq && !e.pauseReq && !e.holds
    && decide (e.lCommit < e.lPrompt) && e.kvLoc == 0 && (!e.imported || e.state == stQueued)

/-- The key of R292, smallest first. -/
def Entry.key (e : Entry) (ix : Nat) (gen : Bool) : Nat × Nat × Nat :=
  let far := 2 ^ 65
  (15 - e.priority,
    (if gen then (if e.tbtTgt = 0 then far else e.tLast.toNat + 1000 * e.tbtTgt)
     else if e.ttftTgt = 0 then far else e.tSubmit.toNat + 1000 * e.ttftTgt), ix)

def keyLt (a b : Nat × Nat × Nat) : Bool :=
  decide (a.1 < b.1) || (a.1 == b.1 && (decide (a.2.1 < b.2.1) || (a.2.1 == b.2.1 && decide (a.2.2 < b.2.2))))

/-- A ranked candidate: key, ledger index, list. -/
structure Ranked where
  key : Nat × Nat × Nat
  ix : Nat
  gen : Bool
deriving DecidableEq, Repr

def rankIn (c : Ranked) : List Ranked → List Ranked
  | [] => [c]
  | d :: r => if keyLt c.key d.key then c :: d :: r else d :: rankIn c r

/-- Candidates of both lists in merged order; those of a tenant without budget left out (R293). -/
def State.ranked (s : State) (p : Nat) : List Ranked :=
  (s.slice p).foldl (fun l ix =>
    let e := s.entryOf ix
    if e.genCand then rankIn ⟨e.key ix true, ix, true⟩ l
    else if e.promptCand then rankIn ⟨e.key ix false, ix, false⟩ l
    else l) []

/-- The selection as it grows: the step and the prompt capacity left. -/
structure Pick where
  step : List StepReq := []
  gens : Nat := 0
  cap : Nat := 0
deriving DecidableEq, Repr

/-- Candidates taken in rank order while there is room, mapped, or left waiting (R294, R296, R297). `was`: the state of an entry before this
planning; one that was not DECODE does not enter WAIT_PAGE in the same commit (R285). -/
def State.choose (s : State) (p maxb : Nat) (was : Nat → Nat) : List Ranked → Pick → State × Pick
  | [], k => (s, k)
  | c :: r, k =>
    let e := s.entryOf c.ix
    if c.gen then
      if k.gens ≥ maxb then State.choose s p maxb was r k
      else match s.mapAll p c.ix (s.wanted p c.ix e.lSpec (e.lSpec + e.qrows)) with
        | some t =>
          State.choose (t.putEntry c.ix { t.entryOf c.ix with state := stDecode }) p maxb was r
            { k with gens := k.gens + 1, step := k.step ++ [⟨c.ix, e.qrows, false, e.lSpec⟩] }
        | none =>
          let t := if e.state = stDecode && was c.ix = stDecode then s.putEntry c.ix { e with state := stWaitPg } else s
          State.choose t p maxb was r k
    else if e.imported then
      match s.mapAll p c.ix (s.wanted p c.ix 0 e.lPrompt) with
      | some t => State.choose (t.putEntry c.ix { t.entryOf c.ix with state := stPrompt }) p maxb was r k
      | none => State.choose s p maxb was r k
    else
      let n := min (e.lPrompt - e.lCommit) k.cap
      if n = 0 then State.choose s p maxb was r k
      else match s.mapAll p c.ix (s.wanted p c.ix e.lSpec (e.lSpec + n)) with
        | some t =>
          State.choose (t.putEntry c.ix { t.entryOf c.ix with state := stPrompt }) p maxb was r
            { k with cap := k.cap - n, step := k.step ++ [⟨c.ix, n, true, e.lSpec⟩] }
        | none => State.choose s p maxb was r k

/-- Entries restored to the stacks, in rank order (R306). -/
def State.restore (s : State) (p : Nat) : State :=
  let l := (s.slice p).foldl (fun l ix =>
    let e := s.entryOf ix
    if e.state == stQueued && e.kvLoc == 2 && e.copy.isNone && !e.pauseReq then
      rankIn ⟨e.key ix (decide (e.lCommit ≥ e.lPrompt)), ix, true⟩ l else l) []
  l.foldl (fun u c =>
    let e := u.entryOf c.ix
    -- the stack pages are mapped on a scratch entry, whose leaf entries are written when the copy takes effect
    match (e.pages.foldl (fun (a : Option (State × List HeldPage)) h =>
        match a with
        | none => none
        | some (v, dst) =>
          match v.takeStack p e.home h.tp with
          | none => none
          | some (w, g) =>
            let dst := dst ++ [({ h with page := g, tier := false } : HeldPage)]
            some (w.putEntry c.ix { w.entryOf c.ix with copy := some { toTier := false, dst := dst } }, dst))
        (some (u.putEntry c.ix { e with copy := some { toTier := false, dst := [] } }, []))) with
    | none => u
    | some (v, dst) => v.putEntry c.ix { v.entryOf c.ix with kvLoc := 3, pgHeld := e.pages.length + dst.length }) s

/-- Copies to the tier started for waiting entries, until those under way would free as many pages as they need (R297). -/
def State.evict (s : State) (p : Nat) (step : List StepReq) : State :=
  let waiting := (s.slice p).filter fun ix => (s.entryOf ix).state == stWaitPg
  let need := (waiting.map fun ix => let e := s.entryOf ix; (s.wanted p ix e.lSpec (e.lSpec + e.qrows)).length).sum
  let underWay := ((s.slice p).map fun ix => let e := s.entryOf ix; if e.kvLoc = 1 then e.pages.length else 0).sum
  let victims := ((s.slice p).foldl (fun l ix =>
    let e := s.entryOf ix
    if (e.state == stPaused || e.state == stQueued) && e.kvLoc == 0 && !e.pages.isEmpty && !(step.any fun r => r.ix == ix) then
      rankIn ⟨e.key ix (decide (e.lCommit ≥ e.lPrompt)), ix, true⟩ l else l) []).reverse
  if waiting.isEmpty then s
  else (victims.foldl (fun (x : State × Nat) c =>
    if x.2 ≥ need then x
    else
      let e := x.1.entryOf c.ix
      match x.1.tierFor p c.ix with
      | none => x
      | some dst =>
        (x.1.putEntry c.ix { e with kvLoc := 1, copy := some { toTier := true, dst := dst }, pgHeld := e.pages.length + dst.length },
          x.2 + e.pages.length)) (s, underWay)).1

/-! ### Role sets and bands (R295, R310) -/

/-- The role set of the step, with the counters of the balancer, which judges every hinge (R310). A replayed step keeps its role set
(`moves` false): a move that is due waits for the next hinge. -/
def State.balance (s : State) (p backlog : Nat) (moves : Bool) : State × Nat :=
  let k := s.pdkOf p
  let r := s.fld Reg.PDK_STATUS_ROLESET 0 p
  let n := s.nRoleset p
  if !s.flag Reg.PDK_CTRL_BAL_EN 0 p then
    (s.putPdk p { k with upCnt := 0, downCnt := 0, hold := 0 }, if moves then min (s.fld Reg.PDK_CTRL_ROLESET 0 p) (n - 1) else r)
  else
    let b := s.roleset p r
    let hold := byteAt b 3
    let up := if backlog ≥ leAt b 4 4 then k.upCnt + 1 else 0
    let down := if backlog ≤ leAt b 8 4 then k.downCnt + 1 else 0
    if k.hold > 0 then (s.putPdk p { k with upCnt := up, downCnt := down, hold := k.hold - 1 }, r)
    else if moves && decide (up ≥ hold) && decide (r + 1 < n) then (s.putPdk p { k with upCnt := 0, downCnt := 0, hold := hold }, r + 1)
    else if moves && decide (down ≥ hold) && decide (r > 0) then (s.putPdk p { k with upCnt := 0, downCnt := 0, hold := hold }, r - 1)
    else (s.putPdk p { k with upCnt := up, downCnt := down }, r)

/-- The band whose range holds `n` generation sequences; band 0 for a step of prompt chunks alone. -/
def State.bandOf (s : State) (p r n : Nat) : Nat :=
  let l := s.bandHi p r
  ((List.range l.length).find? fun i => decide (n ≤ l.getD i 0)).getD (l.length - 1)

/-! ### Tables of a step (R263, R290, R320) -/

/-- A 32-byte length-table entry. -/
def State.ltBytes (s : State) (r : StepReq) (row : Nat) : List Byte :=
  let e := s.entryOf r.ix
  leBytes e.root 8 ++ leBytes (r.pos0 + r.qrows) 4 ++ leBytes r.qrows 2 ++ leBytes r.ix 2 ++ leBytes row 4 ++ leBytes row 4 ++ List.replicate 8 0

/-- The rows that the tumbler samples for a request of a step: their number and first position. -/
def State.sampled (s : State) (r : StepReq) : Option (Nat × Nat) :=
  let e := s.entryOf r.ix
  if r.prompt then (if r.pos0 + r.qrows = e.lPrompt then some (1, e.lPrompt) else none) else some (r.qrows, r.pos0 + 1)

/-- A 64-byte sampling-table entry; where the drafts lie is not given: a free value. -/
def State.stBytes (s : State) (r : StepReq) (nr pos row draft : Nat) : List Byte :=
  let e := s.entryOf r.ix
  leBytes r.ix 2 ++ leBytes nr 2 ++ leBytes pos 4 ++ leBytes row 4 ++ leBytes (draft % stbSize / 64 * 64) 4 ++ leBytes e.ringHead.toNat 4 ++
  leBytes e.tailSeen.toNat 4 ++ leBytes e.ringBase 8 ++ leBytes e.ringLog2 4 ++ leBytes e.issuedTo 4 ++ leBytes e.sampPtr 8 ++
  List.replicate 16 0

def ltTable (s : State) : List StepReq → Nat → List Byte
  | [], _ => []
  | r :: l, row => s.ltBytes r row ++ ltTable s l (row + r.qrows)

def stTable (s : State) : List StepReq → Nat → Nat → List Byte
  | [], _, _ => []
  | r :: l, row, i =>
    match s.sampled r with
    | none => stTable s l row i
    | some (nr, pos) => s.stBytes r nr pos row (Config.freeValue (s.free + i)).toNat ++ stTable s l (row + nr) (i + 1)

/-- Every stall's tables: a prompt stall of the role set has the prompt chunks, every other stall the generation sequences
(notes/assumptions/35.md). -/
def State.makeTables (s : State) (p role : Nat) (step : List StepReq) : State :=
  let k := s.pdkOf p
  let prompts := s.promptStalls p role
  let mine (st : Nat) : List StepReq := step.filter fun r => r.prompt == prompts.contains st
  let all := s.pdkStalls p
  (s.putPdk p { k with lenTab := all.map fun st => (st, ltTable s (mine st) 0), sampTab := all.map fun st => (st, stTable s (mine st) 0 0) }).tick step.length

/-- The tables in the STBs, where their places are known (notes/assumptions/35.md). -/
def State.hingeTables (s : State) (p : Nat) : State :=
  (s.pdkStalls p).foldl (fun u st =>
    [false, true].foldl (fun v samp =>
      match SMap.get v.tabAt 0 (2 * st + if samp then 1 else 0) with
      | 0 => v
      | loc + 1 => v.storeTable p st samp loc) u) s

/-! ### Planning (R289 to R291) -/

/-- Steps of the paddock are not started: it is stopped, waits for SHRINK_DONE, or the part trips or powers down. -/
def State.noSteps (s : State) (p : Nat) : Bool :=
  (s.pdkOf p).stop != 0 || s.flag Reg.THERM_STATUS_TRIP || s.board.downTb.isSome || s.flag Reg.COLL_STATUS_BROKEN 0 p

/-- Every stall is at STEP_END and every token is chosen (R33), each record of the step issued or held (R333; DEDUCED, the table of
R33). -/
def State.stepOver (s : State) (p : Nat) : Bool :=
  let k := s.pdkOf p
  (s.pdkStalls p).all (fun st => k.ended.contains st)
    && (k.step.all fun r => (s.sampled r).isNone || SMap.get s.atsFault false r.ix || k.res.any fun x => x.ix == r.ix)
    && k.step.all fun r => (s.entryOf r.ix).recs.all (·.held)

/-- The hinge may plan now. -/
def State.hingeMay (s : State) (p : Nat) : Bool :=
  let k := s.pdkOf p
  s.pdkOn p && k.plan.isNone && k.resetTb.isNone && !s.flag Reg.PDK_TACK_WAIT_SHRINK 0 p
    && (if k.running then s.stepOver p || k.abandon || (k.stop != 0 && k.due) else k.due)

/-- A record of the step is held and the paddock may wait for it (R333). -/
def State.hingeWaits (s : State) (p : Nat) : Bool :=
  let k := s.pdkOf p
  k.running && !k.waited && decide (s.ringWait p > 0) && k.step.any fun r => (s.entryOf r.ix).holds

/-- Token records of an abandoned step that have not been issued are dropped (R443); those held stay where a paddock reset abandons it
(R445). -/
def State.dropStepRecs (s : State) (p : Nat) : State :=
  let stopped := (s.pdkOf p).stop != 0
  (s.pdkOf p).step.foldl (fun u r =>
    let e := u.entryOf r.ix
    u.putEntry r.ix { e with recs := e.recs.filter fun x => x.kind != 0 || (x.held && !stopped) }) s

/-- Pages of a pool that a planning maps (R316). -/
def mappedPages (s t : State) (p : Nat) (tier : Bool) : Nat :=
  ((s.slice p).map fun ix =>
    let old := (s.entryOf ix).allPages
    ((t.entryOf ix).allPages.filter fun h => h.tier == tier && !old.contains h).length).sum

/-- Length of the planning in MCLK (R290). -/
def planMclk (cmds ranked sel pages : Nat) : Nat :=
  960 + (cmds - 64) + (ranked - 1024 + 3) / 4 + (sel - 256) + (pages - 256)

/-- The entries that the scratch state changed. -/
def changedEntries (s t : State) (p : Nat) : List (Nat × Entry × Entry) :=
  (s.slice p).filterMap fun ix => if s.entryOf ix = t.entryOf ix then none else some (ix, s.entryOf ix, t.entryOf ix)

/-- What a planning comes to: the scratch state, the step, its role set, whether it is a replay, and how many entries were ranked. -/
structure Planned where
  scratch : State
  step : List StepReq
  role : Nat
  replay : Bool
  ranked : Nat := 0

/-- PROMPT entries that the step gives no chunk become QUEUED (R285); a paddock that starts no steps leaves them in their states (R413). -/
def State.unprompt (s : State) (p : Nat) (step : List StepReq) : State :=
  if s.noSteps p then s
  else (s.slice p).foldl (fun u ix =>
    let e := u.entryOf ix
    if e.state == stPrompt && !e.imported && !(step.any fun r => r.ix == ix) then u.putEntry ix { e with state := stQueued } else u) s

/-- The rollbacks of a planning; `sel`: the entries that stand to be selected (R296, R299). -/
def State.rollbacks (s : State) (p : Nat) (sel : List Nat) : State := (s.slice p).foldl (fun u ix => u.rollback p ix (sel.contains ix)) s

/-- Rollbacks, restores and selection (R296, R299, R306). `sel`: the generation candidates whose pages beyond L_SPEC are kept; a selection
that takes another one, in the place of a candidate whose pages cannot be mapped, is made again with that one's kept too. -/
def State.selectStep (s : State) (p maxb cap : Nat) (was : Nat → Nat) (may : List Ranked) : Nat → List Nat → State × Pick
  | 0, sel => State.choose ((s.rollbacks p sel).restore p) p maxb was may { cap := cap }
  | fuel + 1, sel =>
    let x := State.choose ((s.rollbacks p sel).restore p) p maxb was may { cap := cap }
    let more := (x.2.step.filter fun r => !r.prompt && !sel.contains r.ix).map (·.ix)
    if more.isEmpty then x else State.selectStep s p maxb cap was may fuel (sel ++ more)

/-- REPLAY set on the entries of a list and clear on every other (R313). -/
def State.markReplay (s : State) (p : Nat) (on : List Nat) : State :=
  (s.slice p).foldl (fun u ix =>
    let e := u.entryOf ix
    if e.replay = on.contains ix then u else u.putEntry ix { e with replay := on.contains ix }) s

/-- The step planned by the lead or by a paddock alone. -/
def State.planStep (s : State) (p : Nat) : Planned :=
  let k := s.pdkOf p
  let replay := k.running && k.replay && k.stop == 0
  let t := if k.running && !k.replay && k.stop == 0 then k.step.foldl (fun u r => u.applyResult p r) s
    else if k.running then s.dropStepRecs p else s
  let t := (s.slice p).foldl (fun u ix => u.settleEntry p ix) t
  let all := t.ranked p
  let backlog := ((all.filter fun c => !c.gen).map fun c => let e := t.entryOf c.ix; e.lPrompt - e.lCommit).sum
  let x := t.balance p backlog (!replay)
  let t := x.1
  if replay then
    let step := if s.noSteps p then [] else k.step.filter fun r => (t.entryOf r.ix).live && (t.entryOf r.ix).state != stPaused
    ⟨((t.markReplay p (step.map (·.ix))).restore p).evict p step, step, x.2, true, all.length⟩
  else
    let t := t.markReplay p []
    let rich (ix : Nat) : Bool := decide (budget (s.rd Reg.TNT_BUDGET 0 (t.entryOf ix).tenant) > 0)
    let t := (all.filter fun c => !rich c.ix).foldl (fun u c => u.bump Reg.TNT_SKIP_COUNT 1 0 (u.entryOf c.ix).tenant) t
    let may := if s.noSteps p then [] else all.filter fun c => rich c.ix
    let maxb := ((s.bandHi p x.2).getLast?).getD 0
    let y := t.selectStep p maxb (s.chunk p * (s.promptStalls p x.2).length) (fun ix => (s.entryOf ix).state) may may.length
      (((may.filter (·.gen)).take maxb).map (·.ix))
    ⟨((y.1.unprompt p y.2.step).evict p y.2.step), y.2.step, x.2, false, all.length⟩

/-- Charges of a step, by tenant (R293). -/
def stepCharges (s : State) (step : List StepReq) : List (Nat × Nat) :=
  step.foldl (fun l r =>
    let t := (s.entryOf r.ix).tenant
    if l.any fun x => x.1 == t then l.map fun x => if x.1 = t then (t, x.2 + r.qrows) else x else l ++ [(t, r.qrows)]) []

/-- The plan made of a scratch state: page tables, page counts and PDK_HINGE_MCLK are written, entries wait for the commit. -/
def State.makePlan (s : State) (p : Nat) (x : Planned) (cmds : List (List Byte)) : State :=
  let t := x.scratch
  let k := t.pdkOf p
  let gens := (x.step.filter fun r => !r.prompt).length
  let plan : Plan := {
    entries := changedEntries s t p, step := x.step, band := s.bandOf p x.role gens, roleset := x.role, replay := x.replay,
    charges := if x.replay then [] else stepCharges t x.step, cmds := cmds, res := k.res }
  let free := (t.freePages p false).length
  let tierFree := (t.freePages p true).length
  let pend := mappedPages s t p false
  let tierPend := mappedPages s t p true
  let mclk := planMclk cmds.length x.ranked x.step.length (pend + tierPend)
  let t := { t with ledger := s.ledger }
  let t := t.putPdk p { k with plan := some plan, due := false, planTb := s.tb, waitFrom := none, waited := false, cmds := [] }
  let t := (t.setFld Reg.PDK_PG_FREE free 0 p).setFld Reg.PDK_PG_PEND pend 0 p
  let t := (t.setFld Reg.PDK_TIER_FREE tierFree 0 p).setFld Reg.PDK_TIER_PEND tierPend 0 p
  let t := t.wr Reg.PDK_HINGE_MCLK mclk 0 p
  t.wr Reg.PDK_HINGE_MAX (max mclk (t.rd Reg.PDK_HINGE_MAX 0 p)) 0 p

/-- HINGE_PLAN. The tables it writes wait for the channels of the paddock. -/
def execHingePlan (p : Paddock) (s : State) : Host.Outcome State Fault Refusal :=
  let k := s.pdkOf p
  if (s.follower p && k.stop == 0) || !s.hingeMay p || !s.paddockReady (s.firstStall p) then .next s
  else if s.hingeWaits p then done s (s.putPdk p { k with waitFrom := some (k.waitFrom.getD s.tb) })
  else done s (s.makePlan p (s.planStep p) k.cmds)

/-- HINGE_TICK: a 1 ms boundary of TB wants a hinge of an idle or stopped paddock. -/
def execHingeTick (p : Paddock) (t : Dword) (s : State) : Host.Outcome State Fault Refusal :=
  let k := s.pdkOf p
  if s.pdkOn p && t.toNat % 1000000 = 0 && (!k.running || k.stop != 0) then done s ((s.atTb t).wantHinge p) else .next s

/-! ### Commit (R291, R314) -/

/-- An entry as the commit leaves it: the shadow, with what records changed meanwhile and the request flags that commands set during the
planning, which are ORed in (R291). `ops`: the commands that arrived during it and name the entry. -/
def mergeEntry (old new cur : Entry) (ops : List Nat) : Entry :=
  let flag (o n c : Bool) (op : Nat) : Bool := n || (c && !o) || ops.contains op
  -- records queued before planning and issued since are gone; records the plan queued follow
  let added := new.recs.drop old.recs.length
  { new with
    cancelReq := flag old.cancelReq new.cancelReq cur.cancelReq 2, pauseReq := flag old.pauseReq new.pauseReq cur.pauseReq 3,
    resumeReq := flag old.resumeReq new.resumeReq cur.resumeReq 4, importDone := flag old.importDone new.importDone cur.importDone 5,
    ttlReq := cur.ttlReq, lastTok := if cur.importDone && !old.importDone then cur.lastTok else new.lastTok,
    ringHead := cur.ringHead, tLast := cur.tLast, tbtLate := cur.tbtLate, tbtMiss := cur.tbtMiss, ttftMiss := cur.ttftMiss,
    tailSeen := cur.tailSeen, issuedTo := cur.issuedTo, closed := cur.closed, silent := cur.silent, first := cur.first, version := cur.version,
    recs := if new.recs.take old.recs.length = old.recs then cur.recs ++ added else new.recs,
    copy := match cur.copy with | some c => if c.ready && cur.copy != old.copy then some c else new.copy | none => new.copy }

/-- The entries of a plan as the commit makes them visible. -/
def State.shadow (s : State) (p : Nat) (pl : Plan) : State :=
  let late := (s.pdkOf p).cmds
  pl.entries.foldl (fun u x =>
    let ops := (late.filter fun c => byteAt c 0 != 1 && leAt c 4 2 == x.1).map fun c => byteAt c 0
    let m := mergeEntry x.2.1 x.2.2 (u.entryOf x.1) ops
    u.putEntry x.1 (if x.2.2.state == stPaused && x.2.1.state != stPaused then { m with tExpire := s.tb + BitVec.ofNat 64 (1000000000 * m.ttl) } else m)) s

/-- The check of the books that a commit would leave: which of them fails (R314). The last: a charge that TNT_BUDGET and TNT_LIFE cannot both
take in full. -/
def State.badBook (s : State) (p : Nat) (charges : List (Nat × Nat)) : Option Nat :=
  let held (tier : Bool) : Nat := ((s.slice p).map fun ix => ((s.entryOf ix).allPages.filter fun h => h.tier == tier).length).sum
  if (s.freePages p false).length + held false ≠ s.fld Reg.PDK_PG_TOTAL_TOTAL 0 p then some 0
  else if (s.freePages p true).length + held true ≠ s.tierTotal p then some 1
  else if ((List.range 8).map fun k => s.stateCount p k).sum ≠ (s.slice p).length then some 2
  else if charges.any fun c =>
      decide (budget (s.rd Reg.TNT_BUDGET 0 c.1) - c.2 < -(2 ^ 31)) || decide (bits (s.rd Reg.TNT_LIFE 0 c.1) 47 0 + c.2 ≥ 2 ^ 48) then some 3
  else none

/-- The message that starts a stall on a step (R354). -/
def State.stepWord (s : State) (p : Nat) (pl : Plan) : Dword :=
  BitVec.ofNat 64 (bits (s.rd Reg.PDK_STEP 0 p) 31 0 + pl.band * 2 ^ 32 + pl.roleset * 2 ^ 36 + (if pl.replay then 2 ^ 38 else 0))

/-- Tenants charged (R293). A follower holds no budgets (R416). -/
def State.charge (s : State) (l : List (Nat × Nat)) : State :=
  l.foldl (fun u c =>
    (u.wr Reg.TNT_BUDGET (budgetBits (budget (u.rd Reg.TNT_BUDGET 0 c.1) - c.2)) 0 c.1).wr Reg.TNT_LIFE (u.rd Reg.TNT_LIFE 0 c.1 + c.2) 0 c.1) s

/-- The commit, but for what goes over Dartin. The books are checked before it; where one fails the commit still takes place and the paddock
stops (notes/assumptions/33.md). -/
def State.commit (s : State) (p : Nat) (pl : Plan) : State :=
  let t := s.shadow p pl
  let bad := t.badBook p (if s.follower p then [] else pl.charges)
  let t := pl.entries.foldl (fun u x =>
    if x.2.1.state != stWaitPg && x.2.2.state == stWaitPg then u.bump Reg.PDK_WAITPG_CNT_COUNT 1 0 p else u) t
  let t := (t.slice p).foldl (fun u ix => if (u.entryOf ix).live then u.judgeGap ix else u) t
  let t := if s.follower p then t else t.charge pl.charges
  let t := { t with atsFault := t.atsFault.filter fun x => !((t.slice p).contains x.1) }
  let t := t.wr Reg.PDK_STEP (t.rd Reg.PDK_STEP 0 p + 1) 0 p
  let t := t.wr Reg.PDK_HINGE_TB t.tb.toNat 0 p
  let t := (t.setFld Reg.PDK_PG_PEND 0 0 p).setFld Reg.PDK_TIER_PEND 0 0 p
  let t := (t.setFld Reg.PDK_PG_FREE (t.freePages p false).length 0 p).setFld Reg.PDK_TIER_FREE (t.freePages p true).length 0 p
  let t := match bad with
    | none => t
    | some b =>
      let u := (((t.setFlag Reg.PDK_STATUS_BOOK_ERR 0 p).setFlag Reg.LDG_STATUS_BOOK_ERR).fault 0x0C 6 p b).stopPdk p 0x21
      (u.putPdk p { u.pdkOf p with bookBad := true }).setFld Reg.PDK_CTRL_OPEN 0 0 p
  let t := (t.makeTables p pl.roleset pl.step).hingeTables p
  let k := t.pdkOf p
  let go := !pl.step.isEmpty && !t.noSteps p
  let t := t.putPdk p { k with
    plan := none, running := go, step := if go then pl.step else [], ended := [], lastRes := k.res, res := [], replay := false, abandon := false,
    abandonAt := none, aborts := if pl.replay then k.aborts else 0, resets := if pl.replay then k.resets else 0, rounds := [] }
  let t := ((t.setFld Reg.PDK_STATUS_ROLESET pl.roleset 0 p).setFld Reg.PDK_STATUS_BAND pl.band 0 p).setFld Reg.PDK_STATUS_REPLAY
    (if go && pl.replay then 1 else 0) 0 p
  let prompts := t.promptStalls p pl.roleset
  let t := if go then
      (t.pdkStalls p).foldl (fun u st =>
        let u := { u with stepMsgs := SMap.set u.stepMsgs [] st (SMap.get u.stepMsgs [] st ++ [t.stepWord p pl]) }
        u.setFld Reg.STL_INFO_ROLE (if prompts.contains st then 1 else 0) st) t
    else t
  t.abortEnd p

end Sys2Proof.Machine
end

