-- ==== Sys2Proof/Machine/Power.lean ====
section
/-! DEFINITION. Heat, power, supply sag, droop and the fault log (17_reliability_power_thermal.md R449 to R472; 08_memory_system.md R208,
R209; 19_package_and_electrical.md R494 to R498). -/
namespace Sys2Proof.Machine

/-! ### Pins (R496, R497) -/

/-- THROTTLE_N is low: a stall runs at half clock or the cap level is above 0. -/
def State.throttleLow (s : State) : Bool :=
  (List.range 16).any (fun st => s.flag Reg.STL_TEMP_HALF 0 st) || s.fld Reg.PWR_STATUS_LEVEL != 0

/-- SMB_ALERT# is low. -/
def State.alertLow (s : State) : Bool := s.board.tripLow || s.throttleLow

/-- The output pins whose level changed between two states go out on the bus. -/
def pins (s t : State) : State :=
  let say (u : State) (name : String) (a b : Bool) : State := if a == b then u else u.emit (.pin name (!b))
  let t := say t "THERMTRIP_N" s.board.tripLow t.board.tripLow
  let t := say t "PD_READY_N" s.board.pdReadyLow t.board.pdReadyLow
  let t := say t "THROTTLE_N" s.throttleLow t.throttleLow
  say t "SMB_ALERT_N" s.alertLow t.alertLow

/-! ### Cap level, throttle and trip (R463 to R468) -/

/-- The cap level of the device and of every stall it has. -/
def State.setLevel (s : State) (n : Nat) : State :=
  (List.range s.nStall).foldl (fun u st => u.setFld Reg.STL_TEMP_LEVEL n 0 st) (s.setFld Reg.PWR_STATUS_LEVEL n)

/-- A raise of the cap level, counted, and recorded where it was 0. -/
def State.raiseLevel (s : State) (n : Nat) : State :=
  if s.fld Reg.PWR_STATUS_LEVEL ≥ n then s
  else
    let t := (s.setLevel n).bump Reg.PWR_CAP_CNT_COUNT 1
    if s.fld Reg.PWR_STATUS_LEVEL = 0 then (t.setFlag Reg.PWR_STATUS_CAP_EV).fault 0x12 0 0 (s.fld Reg.PWR_STATUS_AVG) else t

/-- A unit reads its trip temperature (R468, R494): `src` 1 stack, 2 stall, 3 ostler island. -/
def State.trip (s : State) (src index temp : Nat) : State :=
  if s.flag Reg.THERM_STATUS_TRIP then s
  else
    let t := ((s.setFlag Reg.THERM_STATUS_TRIP).setFld Reg.THERM_STATUS_SRC src).setFld Reg.THERM_STATUS_INDEX index
    let t := (t.setFld Reg.THERM_STATUS_TEMP temp).setLevel 4
    let kind := if src = 1 then 9 else if src = 2 then 1 else 0
    let t := t.fault 0x11 kind index (src + index * 2 ^ 8 + temp * 2 ^ 16)
    let t := (List.range 16).foldl (fun u p => u.stopPdk p 0x26) t
    { t with board := { t.board with tripLow := true, tripTb := s.tb, pdReadyLow := t.board.pdReadyLow || t.board.downTb.isSome, downTb := none } }

/-- STACK_TEMP_SAMPLE: the highest of the five sensors (R208). -/
def execStackTempSample (stack : Fin 8) (temps : List Byte) (s : State) : Host.Outcome State Fault Refusal :=
  if stack.val ≥ s.nStack then .next s
  else
    let k := stack.val
    let c := (temps.take 5).foldl (fun m x => max m x.toNat) 0
    let t := (s.setFld Reg.STK_TEMP_TEMP c 0 k).wr Reg.STK_TEMP_MAX (max c (s.rd Reg.STK_TEMP_MAX 0 k)) 0 k
    let t := if c ≥ 85 then t.setFlag Reg.STK_TEMP_HOT 0 k else if c ≤ 82 then t.setFld Reg.STK_TEMP_HOT 0 0 k else t
    let t := if c ≥ 95 then
        (if s.flag Reg.STK_TEMP_THROTTLE 0 k then t else (t.setFlag Reg.STK_TEMP_THROTTLE 0 k).fault 0x10 9 k c)
      else if c ≤ 92 then t.setFld Reg.STK_TEMP_THROTTLE 0 0 k else t
    let t := (stallsOf k).foldl (fun u st => u.setHalf st) t
    let t := if c ≥ 105 then t.trip 1 k c else t
    done s (pins s t)

/-- STALL_TEMP_SAMPLE: throttle at 115 °C, lowered at 110 °C, trip at 125 °C (R466, R467). -/
def execStallTempSample (st : Stall) (temp : Byte) (s : State) : Host.Outcome State Fault Refusal :=
  if st.val ≥ s.nStall then .next s
  else
    let c := temp.toNat
    let t := s.setFld Reg.STL_TEMP_TEMP c 0 st
    let t := if c ≥ 115 then
        (if s.flag Reg.STL_TEMP_SELF_HOT 0 st then t else (t.setFlag Reg.STL_TEMP_SELF_HOT 0 st).fault 0x10 1 st c)
      else if c ≤ 110 then t.setFld Reg.STL_TEMP_SELF_HOT 0 0 st else t
    let t := t.setHalf st
    let t := if c ≥ 125 then t.trip 2 st c else t
    done s (pins s t)

/-- OSTLER_TEMP_SAMPLE: trip at 125 °C. -/
def execOstlerTempSample (temp : Byte) (s : State) : Host.Outcome State Fault Refusal :=
  if temp.toNat ≥ 125 then done s (pins s (s.trip 3 0 temp.toNat)) else .next s

/-! ### Power (R462 to R464) -/

/-- The package power limit. -/
def State.powerLimit (s : State) : Nat := min s.board.pwrLimit (s.fld Reg.PWR_CTRL_LIMIT)

/-- POWER_EVAL: one evaluation of R463, with the averages over the last 1 ms and the last 50 µs. -/
def execPowerEval (avg last : BitVec 16) (s : State) : Host.Outcome State Fault Refusal :=
  let lim := s.powerLimit
  let e := s.board.energy + last.toNat
  let t := (s.setFld Reg.PWR_STATUS_AVG avg.toNat).wr Reg.PWR_ENERGY (e / 20)
  let low := decide (avg.toNat * 100 < lim * 95) && decide (last.toNat * 100 < lim * 95)
  let calm := if low then s.board.calm + 1 else 0
  let t := { t with board := { t.board with energy := e, calm := calm } }
  let lvl := s.fld Reg.PWR_STATUS_LEVEL
  let t :=
    if s.flag Reg.THERM_STATUS_TRIP then t
    else if avg.toNat > lim && last.toNat > lim then t.raiseLevel (min 4 (lvl + 1))
    else if calm ≥ 10 && lvl > 0 then { t.setLevel (lvl - 1) with board := { t.board with calm := 0 } }
    else t
  done s (pins s t)

/-- FAST_LIMIT: level 4 at once (R464). -/
def execFastLimit (s : State) : Host.Outcome State Fault Refusal :=
  done s (pins s ((s.raiseLevel 4).setFlag Reg.PWR_STATUS_FAST))

/-- A write of PWR_CTRL.LIMIT outside 200 W to PWR_LIMIT is ignored. -/
def State.pwrLimitWrite (s : State) (v : Nat) : State :=
  if 200 ≤ v ∧ v ≤ s.board.pwrLimit then s.setFld Reg.PWR_CTRL_LIMIT v else s
/-- PWR_LIMIT_WRITE. -/
def execPwrLimitWrite (v : BitVec 12) (s : State) : Host.Outcome State Fault Refusal := done s (s.pwrLimitWrite v.toNat)

/-! ### Regulators (R498) -/

/-- A command to the regulator of rail `r`, at 0x40 + r. -/
def State.pmbus (s : State) (r : Nat) (c : PmbusCmd) : State := s.emit (.pmbus (0x40 + r) c)

/-- A regulator that does not answer is logged once. -/
def State.railSilent (s : State) (r : Nat) : State :=
  if s.board.silentRails.contains r then s
  else { s with board := { s.board with silentRails := s.board.silentRails ++ [r] } }.fault 0x14 8 r 0xFFFF

/-- PMBUS_POLL: a rail's voltage and current; the RAIL register of a regulator that does not answer keeps its value. -/
def execPmbusPoll (rail : Fin 9) (answer : Option (BitVec 16 × BitVec 16)) (s : State) : Host.Outcome State Fault Refusal :=
  let t := (s.pmbus rail .readVout).pmbus rail .readIout
  done s (match answer with
    | some (mv, cur) => (t.setFld Reg.RAIL_MV mv.toNat 0 rail).setFld Reg.RAIL_CURR cur.toNat 0 rail
    | none => t.railSilent rail)

/-- PMB_ALERT: STATUS_WORD of every rail; a word that is not zero is a warning or fault, entered in the log and then cleared at its regulator
(notes/assumptions/61.md); no word is a regulator that does not answer. -/
def execPmbAlert (words : List (Option (BitVec 16))) (s : State) : Host.Outcome State Fault Refusal :=
  done s ((List.range 9).foldl (fun u r =>
    let v := u.pmbus r .statusWord
    match (words[r]?).getD none with
    | some w => if w = 0 then v else (v.fault 0x14 8 r w.toNat).pmbus r .clearFaults
    | none => v.railSilent r) s)

/-! ### Supply sag and droop (R469 to R471) -/

/-- SUPPLY_SAG: pending flash writes are abandoned. -/
def execSupplySag (aux bod : Bool) (s : State) : Host.Outcome State Fault Refusal :=
  if !aux && !bod then .next s
  else
    let t := (s.setIf aux Reg.SAG_STATUS_AUX_LOW).setIf bod Reg.SAG_STATUS_BOD
    let t := (t.setFlag Reg.SAG_STATUS_SAG_EV).setFlag Reg.SAG_STATUS_FLASH_ABANDON
    let t := t.fault 0x13 0 0 (b2n aux 0 + b2n bod 1)
    let t := if t.board.persist.isEmpty then t
      else { t.setFlag Reg.FLT_STATUS_PERSIST_CUT with
          board := { t.board with persist := [], persistGone := t.board.persistGone + t.board.persist.length } }
    done s t

/-- SAG_CLEAR: list and repair-table entries are written again. -/
def execSagClear (s : State) : Host.Outcome State Fault Refusal :=
  let t := (s.setFld Reg.SAG_STATUS_AUX_LOW 0).setFld Reg.SAG_STATUS_BOD 0
  done s { t with
    mapList := t.mapList ++ t.mapRetry.filter (fun x => !t.mapList.contains x), mapRetry := [],
    repairTable := t.repairTable ++ t.repairRetry, repairRetry := [] }

/-- DROOP_TRIP of island `i`: 0 to 15 stalls, 16 management, 17 to 24 base dies. -/
def execDroopTrip (i : Fin 25) (s : State) : Host.Outcome State Fault Refusal :=
  let fitted := if i.val < 16 then decide (i.val < s.nStall) else i.val == 16 || decide (i.val - 17 < s.nStack)
  if fitted then done s (s.bump Reg.DROOP_CNT_COUNT 1 0 i) else .next s

/-! ### The fault log and its persistent copy (R451 to R456) -/

/-- The 32 bytes of an entry. -/
def FltEvent.bytes (e : FltEvent) (persist : Bool) : List Byte :=
  let b := leBytes e.tb.toNat 8 ++ leBytes e.serial 4 ++ leBytes e.code 2 ++ leBytes (e.kind + b2n e.marked 4 + b2n persist 5) 1 ++ leBytes 0 1 ++
    leBytes e.index 4 ++ leBytes e.detail.toNat 8
  b ++ leBytes (crc32c b) 4

def State.fltUsed (s : State) : Nat := (BitVec.ofNat 32 (s.rd Reg.FLT_HEAD) - BitVec.ofNat 32 (s.rd Reg.FLT_TAIL)).toNat
def State.syncFull (s : State) : State := s.setFld Reg.FLT_STATUS_FULL (if s.fltUsed = 1024 then 1 else 0)

/-- Entries of the log kept for the persistent copy so far this boot: copied, waiting for their page, or abandoned. -/
def State.persistUsed (s : State) : Nat := s.fld Reg.FLT_PERSIST_CNT_COUNT + s.board.persist.length + s.board.persistGone

/-- FAULT_APPEND: the oldest event of the queue is appended, or dropped where the log is full. -/
def execFaultAppend (s : State) : Host.Outcome State Fault Refusal :=
  match s.fltQueue with
  | [] => .next s
  | e :: rest =>
    let t := { s with fltQueue := rest }
    if t.fltUsed ≥ 1024 then done s ((t.bump Reg.FLT_DROP_CNT_COUNT 1).setFlag Reg.FLT_STATUS_DROPPED)
    else
      let copy := decide (t.persistUsed < 256) && !t.flag Reg.FLT_STATUS_PERSIST_DONE
      let b := e.bytes copy
      let t := { t with fltLog := SMap.set t.fltLog [] (t.rd Reg.FLT_HEAD % 1024) b }
      let t := if copy then { t with board := { t.board with
        persist := t.board.persist ++ [b], persistTb := if t.board.persist.isEmpty then t.tb else t.board.persistTb } } else t
      done s (((t.count Reg.FLT_HEAD_COUNT 1).setFlag Reg.FLT_STATUS_NEW).syncFull)

/-- A write of FLT_TAIL (R454). -/
def State.fltTailWrite (s : State) (v : Word) : State :=
  if (v - BitVec.ofNat 32 (s.rd Reg.FLT_TAIL)).toNat ≤ s.fltUsed then (s.wr Reg.FLT_TAIL v.toNat).syncFull
  else s.setFlag Reg.FLT_STATUS_TAIL_BAD
/-- FLT_TAIL_WRITE. -/
def execFltTailWrite (v : Word) (s : State) : Host.Outcome State Fault Refusal := done s (s.fltTailWrite v)

/-- Flash offset of the boot record in hand (R455). -/
def State.bootRecord (s : State) : Nat := 0x3910000 + s.board.bootCount % 64 * 16384

/-- Entries that the page in hand still takes: a page holds 8 (R455). -/
def State.pageRoom (s : State) : Nat := 8 - s.fld Reg.FLT_PERSIST_CNT_COUNT % 8

/-- Waiting entries programmed after those already copied, no further than their page. -/
def State.persistPage (s : State) : State :=
  let n := s.fld Reg.FLT_PERSIST_CNT_COUNT
  let page := s.board.persist.take s.pageRoom
  let t := s.putBytes (flashKey (s.bootRecord + 4096 + 32 * n)) page.flatten
  let t := { t with board := { t.board with persist := t.board.persist.drop s.pageRoom, persistTb := t.tb } }
  (t.setFld Reg.FLT_PERSIST_CNT_COUNT (n + page.length)).setIf (decide (n + page.length + s.board.persistGone ≥ 256))
    Reg.FLT_STATUS_PERSIST_DONE

/-- PERSIST_PAGE_PROGRAM: a page that is full, one 100 ms after its first entry, or what waits from 1 ms after THERMTRIP_N fell (R494). -/
def execPersistPageProgram (t : Dword) (s : State) : Host.Outcome State Fault Refusal :=
  let n := s.board.persist.length
  let b := s.board
  if n = 0 || s.sagNow then .next s
  else if n ≥ s.pageRoom || decide (t.toNat ≥ b.persistTb.toNat + 100000000) || (b.tripLow && decide (t.toNat ≥ b.tripTb.toNat + 1000000)) then
    done s ((s.atTb t).persistPage)
  else .next s

/-- A new boot record: its sectors erased, its header written (R455; the order of the header's fields, notes/assumptions/36.md). Begun in a
sag it is abandoned whole: nothing is erased or written, and no entry of this boot is copied (R469, R499). -/
def State.newBootRecord (s : State) : State :=
  if s.sagNow then
    let t := { s with board := { s.board with persist := [], persistGone := 256 } }
    ((t.setFld Reg.FLT_PERSIST_CNT_COUNT 0).setFld Reg.FLT_STATUS_PERSIST_DONE 0).setFlag Reg.FLT_STATUS_PERSIST_CUT
  else
  let t := { s with board := { s.board with bootCount := s.board.bootCount + 1, persist := [], persistGone := 0 } }
  let t := t.putBytes (flashKey t.bootRecord) (List.replicate 16384 0xFF#8)
  let h := leBytes 0x47544C46 4 ++ leBytes t.board.bootCount 4 ++ leBytes (t.rd Reg.RESET_CAUSE % 16) 4 ++ leBytes 0 4 ++
    leBytes (t.rd Reg.TACK_COMPAT) 8 ++ leBytes (t.rd Reg.TACK_IMAGE_ID) 8 ++ List.replicate 28 0
  let t := t.putBytes (flashKey t.bootRecord) (h ++ leBytes (crc32c h) 4)
  ((t.setFld Reg.FLT_PERSIST_CNT_COUNT 0).setFld Reg.FLT_STATUS_PERSIST_DONE 0).setFld Reg.FLT_STATUS_PERSIST_CUT 0

end Sys2Proof.Machine
end

