-- ==== Sys2Proof/Machine/HostPort.lean ====
section
/-! DEFINITION. The host port: direct queues and apertures, function-level resets, VF Enable and configuration requests
(14_host_interface.md R368 to R373, R378, R379, R386 to R388). -/
namespace Sys2Proof.Machine

/-! ### Direct queues (R378, R379) -/

/-- A record offset that no record can have is a rejection under R353 with DSP_REJ_OP 0. -/
def State.rejectOffset (s : State) (st : Nat) : State :=
  let w : WinCmd := {
    seq := BitVec.ofNat 32 (s.rd Reg.DSP_SEQ st), op := 0, waits := [], relEn := false, rel := 0, relStall := 0, record := [], viaDq := true }
  (s.count Reg.DSP_SEQ_SEQ 1 st).reject st w

/-- STL_DBELL. -/
def State.stlDbell (s : State) (st : Nat) (v : Word) : State := { s with dqTail := SMap.set s.dqTail 0 st v }
def execStlDbell (st : Stall) (tail : Word) (s : State) : Host.Outcome State Fault Refusal :=
  if s.stallUp st then done s (s.stlDbell st tail) else .next s

/-- DIRECT_QUEUE_TAKE: the offset at STL_DQ_HEAD is read from the ring and its record enters the window. -/
def execDirectQueueTake (st : Stall) (s : State) : Host.Outcome State Fault Refusal :=
  let n := BitVec.ofNat 32 (s.rd Reg.STL_DQ_HEAD st)
  let ahead := (SMap.get s.dqTail 0 st - n).toNat
  if s.stallUp st && s.flag Reg.STL_DQ_CTRL_EN st && !s.flag Reg.SCC_CTRL_RUN st && decide (0 < ahead) && decide (ahead < 2 ^ 31)
      && !s.windowFull st then
    let at_ := 64 * s.fld Reg.STL_DQ_CTRL_BASE st + 4 * (n.toNat % 2 ^ s.fld Reg.STL_DQ_CTRL_LOG2 st)
    let off := leAt (s.stbRead st at_ 4) 0 4
    let len := recordBytes (s.stbRead st off 16)
    let t := s.count Reg.STL_DQ_HEAD_HEAD 1 st
    if off % 64 = 0 ∧ off < stbSize ∧ off + len ≤ stbSize then done s (t.accept st (s.stbRead st off len) true)
    else done s (t.rejectOffset st)
  else .next s

/-! ### Apertures (R372) -/

/-- The function answers memory requests (R368, R386). -/
def State.fnAnswers (s : State) (fn : Nat) : Bool := !(s.fnOf fn).d3 && !(s.fnOf fn).flr

/-- The view and the device address of a BAR2 offset. -/
def State.aperture (s : State) (off : Nat) : Option (Bool × Nat) :=
  let w := off / 2 ^ 32
  if w < 16 ∧ s.flag Reg.APT_WIN_EN 0 w then
    some (s.flag Reg.APT_WIN_VIEW 0 w, s.fld Reg.APT_WIN_BASE 0 w * 2 ^ 32 + off % 2 ^ 32)
  else none

/-- APERTURE_WRITE: a failed write is discarded. It waits for the channels of its lines (notes/assumptions/71.md). -/
def execApertureWrite (off : BitVec 40) (data : List Byte) (s : State) : Host.Outcome State Fault Refusal :=
  if !s.fnAnswers 0 then done s ((s.aerErr 0 aerUnsupported).emit (.unsupported 0))
  else match s.aperture off.toNat with
    | none => .next s
    | some (view, a) =>
      if !s.spanReady true view a data.length then .next s else
      match s.devWrite view a data (data.length + 1) with
      | none => .next s
      | some t => done s (t.spanServed true view a data.length)

/-- APERTURE_READ: Completer Abort where it fails, EP where a line is poisoned. It waits for the channels of its lines
(notes/assumptions/71.md). -/
def execApertureRead (off : BitVec 40) (len : Nat) (s : State) : Host.Outcome State Fault Refusal :=
  if !s.fnAnswers 0 then done s ((s.aerErr 0 aerUnsupported).emit (.unsupported 0))
  else match s.aperture off.toNat with
    | none => done s ((s.aerErr 0 aerAborted).emit (.memError (.fn 0) off.toNat))
    | some (view, a) =>
      if !s.spanReady false view a len then .next s else
      match s.devRead view a len (len + 1) with
      | none => done s ((s.aerErr 0 aerAborted).emit (.memError (.fn 0) off.toNat))
      | some (t, l, p) => done s ((t.spanServed false view a len).emit (.memValue (.fn 0) l p))

/-! ### MSI-X enable and masks (R385) -/

/-- Pending vectors that may go out are sent. -/
def State.msixFlush (s : State) (fn : Nat) : State :=
  (List.range 256).foldl (fun u v =>
    if SMap.get u.msixPend false (fn * 256 + v) && u.msixOn fn v then
      { u.emit (.msix fn v) with msixPend := SMap.set u.msixPend false (fn * 256 + v) false }
    else u) s

def State.msixReset (s : State) (fn : Nat) : State :=
  let keep {α : Type} (l : SMap α) (n : Nat) : SMap α := l.filter fun x => !(decide (n * fn ≤ x.1) && decide (x.1 < n * (fn + 1)))
  { s with msixTab := keep s.msixTab 1024, msixPend := keep s.msixPend 256, msixUnmasked := keep s.msixUnmasked 256,
           msixEn := SMap.set s.msixEn false fn false, msixFnMask := SMap.set s.msixFnMask false fn false }

/-! ### Function-level reset (R386 to R388) -/

/-- The entries a function submitted are all FREE or DONE. -/
def State.fnQuiet (s : State) (fn : Nat) : Bool :=
  s.ledger.all fun x => x.2.fn != fn || x.2.state == stFree || x.2.state == stDone

/-- A drain of function-level resets ends when the entries are gone; enables held meanwhile take effect (R377, R388). -/
def State.flrSettle (s : State) : State :=
  let gone (fn : Nat) : Bool := (s.fnOf fn).flr && s.fnQuiet fn
  let t := (s.fns.filter fun x => x.2.flr && gone x.1).foldl (fun u x =>
    (u.putFn x.1 { u.fnOf x.1 with flr := false }).fnDrained x.1) s
  if t.flag Reg.HIF_NUMVF_DRAINING && !(t.fns.any fun x => x.1 != 0 && x.2.flr) then
    let u := t.setFld Reg.HIF_NUMVF_DRAINING 0
    if u.flag Reg.HIF_NUMVF_PENDING_ENABLE then (u.setFld Reg.HIF_NUMVF_PENDING_ENABLE 0).setFlag Reg.HIF_NUMVF_VF_EN else u
  else t

/-- The host-space walks of a function halt with XLATE_FAULT, each at the line it has come to. -/
def State.haltHostWalks (s : State) (fn : Nat) : State :=
  (List.range 128).foldl (fun u i =>
    let st := i / 8
    let c := i % 8
    let d := u.dmaOf st c
    let at_ := if u.walking st c then (u.hostLine fn st c false).or (u.hostLine fn st c true) else none
    match d.waitPage, at_ with
    | some (f, _), _ =>
      if f = fn then (u.putDma st c { d with waitPage := none }).haltAt st c codeXlate (u.rd Reg.DMA_CH_FAULT_ADDR st c) else u
    | none, some a => u.haltAt st c codeXlate a
    | none, none => u) s

/-- R386 on one function, in its order. A closing record that was held counts as issued. Commands fetched and not yet completed are dropped
with the rings (notes/assumptions/70.md). -/
def State.fnReset (s : State) (fn : Nat) : State :=
  let t := { s with
    pageReqs := s.pageReqs.filter (fun r => r.fn != fn), atc := s.atc.filter (fun e => e.fn != fn),
    xlReqs := s.xlReqs.filter (fun x => x.1 != fn) }
  let t := t.ledger.foldl (fun u x =>
    if x.2.fn != fn || x.2.state == stFree || x.2.state == stDone then u
    else
      let e := u.entryOf x.1
      u.putEntry x.1 { e with
        cancelReq := e.cancelReq || e.link.isNone, closed := e.closed || e.recs.any fun r => r.held && r.closing,
        recs := e.recs.filter fun r => !r.held, silent := true }) t
  let t := (List.range 16).foldl (fun u p =>
    if u.pdkOn p && fn != 0 && bits (leAt (u.sect p) 32 2) 8 0 == fn then u.abortAll p else u) t
  let t := t.haltHostWalks fn
  let t := t.clrSpan (Reg.FN_CTRL.key 0 fn) (Reg.FN_CTRL.key 0 (fn + 1))
  let t := t.msixReset fn
  (t.putFn fn { flr := true }).setFlag Reg.FN_STATUS_DRAINING 0 fn

/-- VF_FLR; the physical function has a row of its own. -/
def execVfFlr (k : Fn) (s : State) : Host.Outcome State Fault Refusal :=
  if k.val = 0 then .next s else done s (s.fnReset k).flrSettle

/-- VFs 1 to 256 reset. -/
def State.vfsReset (s : State) : State := (List.range 256).foldl (fun u i => u.fnReset (i + 1)) s

/-- R387. -/
def State.pfReset (s : State) : State :=
  let t := s.vfsReset.fnReset 0
  let t := t.setIf (s.flag Reg.HIF_NUMVF_VF_EN) Reg.HIF_NUMVF_DRAINING
  let t := (t.setFld Reg.HIF_NUMVF_VF_EN 0).setFld Reg.HIF_NUMVF_PENDING_ENABLE 0
  let t := (List.range 16).foldl (fun u w => u.setFld Reg.APT_WIN_EN 0 0 w) t
  let t := (List.range 16).foldl (fun u st => u.setFld Reg.STL_DQ_CTRL_EN 0 st) t
  let t := (List.range 36).foldl (fun u i => u.clr Reg.PF_IRQ_MAP 0 i) t
  (List.range 16).foldl (fun u p => u.abortAll p) t
/-- PF_FLR. -/
def execPfFlr (s : State) : Host.Outcome State Fault Refusal := done s s.pfReset.flrSettle

/-- VF_ENABLE_CLEAR: every VF is reset; a held enable is cancelled. -/
def State.vfClear (s : State) : State :=
  let t := s.setFld Reg.HIF_NUMVF_PENDING_ENABLE 0
  if s.flag Reg.HIF_NUMVF_VF_EN then
    (((t.setFld Reg.HIF_NUMVF_VF_EN 0).setFlag Reg.HIF_NUMVF_DRAINING).vfsReset).flrSettle
  else t
def execVfEnableClear (s : State) : Host.Outcome State Fault Refusal := done s s.vfClear

/-- VF_ENABLE_SET: held while a drain runs. -/
def State.vfSet (s : State) : State :=
  if s.flag Reg.HIF_NUMVF_DRAINING then s.setFlag Reg.HIF_NUMVF_PENDING_ENABLE else s.setFlag Reg.HIF_NUMVF_VF_EN
def execVfEnableSet (s : State) : Host.Outcome State Fault Refusal := done s s.vfSet

/-! ### Configuration requests (R368) -/

/-- The function exists: the physical function, or a VF that VF Enable and NumVFs give. -/
def State.fnExists (s : State) (fn : Nat) : Bool :=
  fn == 0 || (s.flag Reg.HIF_NUMVF_VF_EN && decide (fn ≤ s.fld Reg.HIF_NUMVF_NUMVF))

/-- What a configuration read gives (R368, R385): the rate by the code of HIF_STATUS, 6 for 64 GT/s, the tags in bits; the SR-IOV capability lies
in the physical function alone. A capability that is there without a value of its own reads 1. -/
def State.cfgRead (s : State) (fn : Nat) (item : CfgItem) : Option Nat :=
  let f := s.fnOf fn
  let pf (v : Nat) : Option Nat := if fn = 0 then some v else none
  match item with
  | .maxPayload => some f.maxPayload
  | .maxReadRequest => some f.maxReadRequest
  | .completionTimeout => some f.cplRange
  | .ari => some 1
  | .totalVfs => pf 256
  | .firstVfOffset => pf 1
  | .vfStride => pf 1
  | .numVfs => pf (s.fld Reg.HIF_NUMVF_NUMVF)
  | .vfEnable => pf (s.fld Reg.HIF_NUMVF_VF_EN)
  | .msixVectors => some (if fn = 0 then 256 else 7)
  | .msixEnable => some (b2n (SMap.get s.msixEn false fn) 0)
  | .smallestTranslationUnit => some 4096
  | .atsEnable => some (b2n f.ats 0)
  | .priEnable => some (b2n f.pri 0)
  | .pageRequestAllocation => some f.prAlloc
  | .aer => some 1
  | .aerStatus => some (SMap.get s.aer 0 fn)
  | .msixFunctionMask => some (b2n (SMap.get s.msixFnMask false fn) 0)
  | .maxLinkSpeed => some 6
  | .maxLinkWidth => some 16
  | .linkSpeed => some (s.fld Reg.HIF_STATUS_SPEED)
  | .linkWidth => some (s.fld Reg.HIF_STATUS_WIDTH)
  | .tagBits => some (if s.flag Reg.HIF_STATUS_FLIT then 14 else 10)
  | .functionLevelReset => some 1
  | .powerState => some (if f.d3 then 3 else 0)
  | .noSoftReset => some 1
  | .absent => none

/-- What a configuration request does; a size that the table of R368 does not list changes nothing (notes/assumptions/48.md). -/
def State.cfgWrite (s : State) (fn : Nat) (w : CfgReq) : State :=
  let f := s.fnOf fn
  match w with
  | .read item => s.emit (.configValue fn item (s.cfgRead fn item))
  | .maxPayload n => if [128, 256, 512].contains n.toNat then s.putFn fn { f with maxPayload := n.toNat } else s
  | .maxReadRequest n =>
    if [128, 256, 512, 1024, 2048, 4096].contains n.toNat then s.putFn fn { f with maxReadRequest := n.toNat } else s
  | .completionTimeout r => if r.toNat ≤ 4 then s.putFn fn { f with cplRange := r.toNat } else s
  | .ats on =>
    let t := if on && !f.ats then { s with atc := s.atc.filter fun e => e.fn != fn } else s
    t.putFn fn { f with ats := on }
  | .pri on => s.putFn fn { f with pri := on, priStop := if on && !f.pri then false else f.priStop }
  | .prAlloc n => s.putFn fn { f with prAlloc := n.toNat }
  | .powerState d3 => s.putFn fn { f with d3 := d3 }
  | .msix on => State.msixFlush { s with msixEn := SMap.set s.msixEn false fn on } fn
  | .msixMask on => State.msixFlush { s with msixFnMask := SMap.set s.msixFnMask false fn on } fn
  | .aerClear b => { s with aer := SMap.set s.aer 0 fn (SMap.get s.aer 0 fn ^^^ (SMap.get s.aer 0 fn &&& b.toNat)) }
  | .numVfs n =>
    if fn = 0 && !s.flag Reg.HIF_NUMVF_VF_EN && !s.flag Reg.HIF_NUMVF_DRAINING && decide (n.toNat ≤ 256) then
      s.setFld Reg.HIF_NUMVF_NUMVF n.toNat
    else s
  | .vfEnable on => if fn = 0 then (if on then s.vfSet else s.vfClear) else s
  | .flr => if fn = 0 then s.pfReset.flrSettle else (s.fnReset fn).flrSettle

/-- Time of the boot in TB at which configuration requests are answered normally and the device block can be read (R440). -/
def bootAnswers : Nat := 60000000

/-- CONFIGURATION_REQUEST: nothing answers in cold reset; Request Retry Status in the boot's first 60 ms (R440) and while the function's
reset runs (R386). -/
def execConfigurationRequest (fn : Fn) (w : CfgReq) (s : State) : Host.Outcome State Fault Refusal :=
  if s.board.cold then .next s
  else if s.board.bootDue && decide (s.tb.toNat < bootAnswers) then done s (s.emit (.configRetry fn))
  else if !s.fnExists fn then done s ((s.aerErr 0 aerUnsupported).emit (.unsupported fn))
  else if (s.fnOf fn).flr then done s (s.emit (.configRetry fn))
  else done s (s.cfgWrite fn w)

end Sys2Proof.Machine
end

