-- ==== Sys2Proof/Machine/Dartin.lean ====
section
/-! DEFINITION. The Dartin link: flits, ports, routes and link replay (15_dartin_link.md R391 to R405). -/
namespace Sys2Proof.Machine

/-! ### Flits (R394, R395) -/

def tIdle : Nat := 0
def tCollData : Nat := 1
def tCollVote : Nat := 2
def tCollDecide : Nat := 3
def tHinge : Nat := 4
def tLedgerCmd : Nat := 5
def tLedgerCpl : Nat := 6
def tImportWr : Nat := 7
def tImportAck : Nat := 8
def tImportReady : Nat := 9
def tPing : Nat := 10
def tPong : Nat := 11

/-- The VL that a TYPE requires. -/
def typeVl (t : Nat) : Nat := if t = 1 then 1 else if t = 7 then 2 else if t = 10 ∨ t = 11 then 3 else 0

def fType (f : List Byte) : Nat := bits (byteAt f 0) 3 0
def fVl (f : List Byte) : Nat := bits (byteAt f 0) 5 4
def fNak (f : List Byte) : Bool := bit (byteAt f 0) 6
def fTtl (f : List Byte) : Nat := bits (byteAt f 1) 3 0
def fSeq (f : List Byte) : Nat := leAt f 2 2
def fAck (f : List Byte) : Nat := leAt f 4 2
def fDst (f : List Byte) : Nat := leAt f 10 2
def fSrc (f : List Byte) : Nat := leAt f 12 2
def fLines (f : List Byte) : Nat := bits (byteAt f 14) 1 0
def fPayload (f : List Byte) : List Byte := (f.drop 60).take 192

def padTo (n : Nat) (l : List Byte) : List Byte := (l ++ List.replicate n 0).take n

/-- A flit as its source makes it, its link fields empty; TTL is 15 (notes/assumptions/40.md). -/
def mkFlit (type dst src lines : Nat) (fields payload : List Byte) : List Byte :=
  leBytes (type + 16 * typeVl type) 1 ++ leBytes 15 1 ++ List.replicate 8 0 ++ leBytes dst 2 ++ leBytes src 2 ++ leBytes lines 1 ++ [0] ++
  padTo 44 fields ++ padTo 192 payload ++ List.replicate 4 0

/-- The link fields and the CRC put into a flit. -/
def stampFlit (f : List Byte) (nak : Bool) (seq ack : Nat) (credits : List Nat) : List Byte :=
  let body := leBytes (byteAt f 0 % 64 + b2n nak 6) 1 ++ (f.drop 1).take 1 ++ leBytes seq 2 ++ leBytes ack 2 ++
    credits.map (BitVec.ofNat 8) ++ (f.drop 10).take 242
  body ++ leBytes (crc32c body) 4

def flitGood (f : List Byte) : Bool := f.length == 256 && crc32c (f.take 252) == leAt f 252 4

/-- Serial order of SEQ over 16 bits. -/
def seqLe (a b : Nat) : Bool := decide ((b + 65536 - a % 65536) % 65536 < 32768)

/-! ### Events (R422) -/

/-- A W1C bit of the Dartin registers that is set raises event 0x16. -/
def State.drtEvent (s : State) (f : Fld) (u : Nat) (kind index detail : Nat) : State :=
  if s.flag f 0 u then s else (s.setFlag f 0 u).fault 0x16 kind index detail

/-- Flits lost, dropped or discarded. -/
def State.drtLost (s : State) (n : Nat) (f : Fld) (b : Nat) : State :=
  if n = 0 then s else (s.bump Reg.DRT_LOST_CNT_COUNT n).drtEvent f 0 0 0 b

/-! ### Ports (R393, R398 to R401) -/

def State.portOf (s : State) (k : Nat) : DrtPort := SMap.get s.ports {} k
def State.putPort (s : State) (k : Nat) (p : DrtPort) : State := { s with ports := SMap.set s.ports {} k p }
def pDown : Nat := 0
def pTraining : Nat := 1
def pUp : Nat := 2
def pFailed : Nat := 3
def State.portState (s : State) (k : Nat) : Nat := s.fld Reg.DRT_PORT_STATUS_STATE 0 k
def State.portUp (s : State) (k : Nat) : Bool := s.portState k == pUp
def State.did (s : State) : Nat := s.fld Reg.DRT_ID_DID

def vlCap (vl : Nat) : Nat := if vl = 0 then 64 else if vl = 1 then 512 else if vl = 2 then 256 else 16
def credFld (vl : Nat) : Fld :=
  if vl = 0 then Reg.DRT_PORT_CRED_VL0 else if vl = 1 then Reg.DRT_PORT_CRED_VL1 else if vl = 2 then Reg.DRT_PORT_CRED_VL2
  else Reg.DRT_PORT_CRED_VL3
def State.cred (s : State) (k vl : Nat) : Nat := s.fld (credFld vl) 0 k

/-- A slot of a receive buffer has been freed: its credit is to be returned (R400). -/
def State.owe (s : State) (k vl : Nat) : State :=
  let p := s.portOf k
  s.putPort k { p with owed := SMap.set p.owed 0 vl (SMap.get p.owed 0 vl + 1) }

/-- The turn of a weighted round robin 8 : 4 : 1 among VL1, VL2 and VL3: 13 places. -/
def turnVl (t : Nat) : Nat := if t < 8 then 1 else if t < 12 then 2 else 3

/-- The lane that sends next, and the turn after it (R401). -/
def State.nextLane (s : State) (k : Nat) : Option (Nat × Nat) :=
  let p := s.portOf k
  let ready (vl : Nat) : Bool := decide (0 < s.cred k vl) && p.tx.any fun x => fVl x.2 == vl
  if ready 0 then some (0, p.turn)
  else ((List.range 13).find? fun i => ready (turnVl ((p.turn + i) % 13))).map fun i => (turnVl ((p.turn + i) % 13), (p.turn + i + 1) % 13)

/-- The first flit of a lane, and the others. -/
def takeLane (vl : Nat) : List (Option Nat × List Byte) → Option ((Option Nat × List Byte) × List (Option Nat × List Byte))
  | [] => none
  | x :: r => if fVl x.2 = vl then some (x, r) else (takeLane vl r).map fun y => (y.1, x :: y.2)

/-- The credits that the next flit returns. -/
def DrtPort.returns (p : DrtPort) : List Nat := (List.range 4).map fun vl => min 255 (SMap.get p.owed 0 vl)
def DrtPort.afterReturn (p : DrtPort) : SMap Nat :=
  (List.range 4).foldl (fun m vl => SMap.set m 0 vl (SMap.get p.owed 0 vl - min 255 (SMap.get p.owed 0 vl))) p.owed

/-- One waiting flit is sent, where one may go: it takes a SEQ and a credit and enters the replay buffer (R397, R400). While a NAK asks for a
replay no new flit goes (R397). -/
def State.sendOne (s : State) (k : Nat) : Option State :=
  let p := s.portOf k
  if !s.portUp k || p.nakFrom.isSome || decide (p.sent.length ≥ 512) then none
  else match s.nextLane k with
    | none => none
    | some (vl, turn) =>
      match takeLane vl p.tx with
      | none => none
      | some (x, rest) =>
        let f := stampFlit x.2 false p.txSeq p.rxSeq p.returns
        let t := s.putPort k { p with
          txSeq := (p.txSeq + 1) % 65536, sent := p.sent ++ [(p.txSeq, f)], tx := rest, owed := p.afterReturn, turn := turn }
        let t := (t.setFld (credFld vl) (s.cred k vl - 1) 0 k).wr Reg.DRT_PORT_TX (t.rd Reg.DRT_PORT_TX 0 k + 1) 0 k
        let t := t.emit (.flit k f)
        some (match x.1 with | some o => t.owe o vl | none => t)

def State.pump (s : State) (k : Nat) : Nat → State
  | 0 => s
  | n + 1 => match s.sendOne k with | some t => State.pump t k n | none => s

/-- Everything that may go out of a port goes. -/
def State.pumpAll (s : State) (k : Nat) : State := s.pump k (s.portOf k).tx.length

/-- An IDLE flit, of the layout of every flit (R394) and with no type fields (R395): from this device to the port's peer, its SEQ zero
(notes/assumptions/40.md). -/
def State.sendIdle (s : State) (k : Nat) (nak : Bool) : State :=
  if !s.portUp k then s
  else
    let p := s.portOf k
    let f := stampFlit (mkFlit tIdle (s.fld Reg.DRT_PORT_STATUS_PEER_DID 0 k) s.did 0 [] []) nak 0 p.rxSeq p.returns
    (s.putPort k { p with owed := p.afterReturn }).emit (.flit k f)

/-- IDLE_FLIT: the port sends an IDLE flit, which carries its ACK and the credits it owes (notes/assumptions/40.md). -/
def execIdleFlit (k : Port) (s : State) : Host.Outcome State Fault Refusal := done s (s.sendIdle k false)

/-! ### Routes (R403, R405) -/

/-- The route byte of a DID: that of the tack image in force. -/
def State.routeByte (s : State) (d : Nat) : Nat := byteAt s.tackDevice (4480 + d)

/-- The primary route of a DID: its PRIMARY port, while that is up and no fall has diverted its traffic (R405). -/
def State.routePrimary (s : State) (d : Nat) : Option Nat :=
  let r := s.routeByte d
  let pri := bits r 2 0
  if bit r 7 && s.portUp pri && !(s.portOf pri).diverted then some pri else none

/-- The port a flit for a DID leaves by: PRIMARY, or ALT while PRIMARY is down or not reverted (R405); none where it has no route or no port
of it may carry it. -/
def State.routePort (s : State) (d : Nat) : Option Nat :=
  let r := s.routeByte d
  match s.routePrimary d with
  | some k => some k
  | none => if bit r 7 && bit r 6 && s.portUp (bits r 5 3) then some (bits r 5 3) else none

/-- A flit leaves by a port, or is discarded with UNREACH. -/
def State.sendOn (s : State) (port : Option Nat) (origin : Option Nat) (f : List Byte) : State :=
  match port with
  | some k => (s.putPort k { s.portOf k with tx := (s.portOf k).tx ++ [(origin, f)] }).pumpAll k
  | none =>
    let t := s.drtLost 1 Reg.DRT_STATUS_UNREACH 2
    match origin with | some o => t.owe o (fVl f) | none => t

/-- A flit leaves by its route. -/
def State.sendVia (s : State) (origin : Option Nat) (f : List Byte) : State := s.sendOn (s.routePort (fDst f)) origin f

/-- A flit of this device. -/
def State.send (s : State) (type dst lines : Nat) (fields payload : List Byte) : State :=
  s.sendVia none (mkFlit type dst s.did lines fields payload)

/-! ### Receiving (R396, R397, R403) -/

/-- The link fields of a good flit: ACK frees the replay buffer, CREDIT returns credits, NAK asks for a replay. -/
def State.linkFields (s : State) (k : Nat) (f : List Byte) : State :=
  let p := s.portOf k
  let held := p.sent.filter fun x => !seqLe x.1 (fAck f)
  let t := s.putPort k { p with
    sent := held, resends := if held.length < p.sent.length then 0 else p.resends,
    nakFrom := if fNak f then some (fAck f) else p.nakFrom }
  let t := (List.range 4).foldl (fun u vl => u.setFld (credFld vl) (min (vlCap vl) (u.cred k vl + byteAt f (6 + vl))) 0 k) t
  if fNak f then t.bump Reg.DRT_PORT_REPLAY_COUNT 1 0 k else t

/-- A flit accepted: kept for this device, forwarded, or discarded. -/
def State.acceptFlit (s : State) (k : Nat) (f : List Byte) : State :=
  if fType f ≥ 12 || fVl f != typeVl (fType f) then (s.drtLost 1 Reg.DRT_STATUS_BAD_FLIT 3).owe k (fVl f)
  else if fDst f = s.did then s.putPort k { s.portOf k with rx := (s.portOf k).rx ++ [f] }
  else if fTtl f ≤ 1 then (s.drtLost 1 Reg.DRT_STATUS_TRANSIT_DROP 1).owe k (fVl f)
  else s.sendVia (some k) (f.set 1 (BitVec.ofNat 8 (fTtl f - 1)))

/-- A flit received: a bad one is answered with NAK; one out of order is discarded without a NAK. -/
def State.receive (s : State) (k : Nat) (flit : List Byte) (fec : Bool) (corrected : Nat) : State :=
  let t := s.bump Reg.DRT_PORT_CE_COUNT corrected 0 k
  if !fec || !flitGood flit then t.sendIdle k true
  else
    let t := t.putPort k { t.portOf k with lastGood := s.tb }
    if fType flit = tIdle then (t.linkFields k flit).pumpAll k
    else if fSeq flit ≠ ((t.portOf k).rxSeq + 1) % 65536 then t
    else
      let t := t.putPort k { t.portOf k with rxSeq := fSeq flit }
      let t := t.wr Reg.DRT_PORT_RX (t.rd Reg.DRT_PORT_RX 0 k + 1) 0 k
      ((t.linkFields k flit).acceptFlit k flit).pumpAll k

/-- NAK: held flits from ACK + 1 are sent again, in order, and then the new flits that wait. -/
def execNak (k : Port) (s : State) : Host.Outcome State Fault Refusal :=
  let p := s.portOf k
  match p.nakFrom with
  | none => .next s
  | some a =>
    if !s.portUp k then .next s
    else
      let again := p.sent.filter fun x => !seqLe x.1 a
      let t := s.putPort k { p with nakFrom := none, resends := if again.isEmpty then p.resends else p.resends + 1 }
      done s ((again.foldl (fun u x => (u.emit (.flit k x.2)).wr Reg.DRT_PORT_TX (u.rd Reg.DRT_PORT_TX 0 k + 1) 0 k) t).pumpAll k)

/-! ### Local delivery -/

/-- The flits that may leave their buffers next: of each lane the oldest from each source, for flits of one lane from one device never
overtake each other (R403). -/
def rxHeads : List (List Byte) → List (Nat × Nat) → List (List Byte)
  | [], _ => []
  | f :: r, seen => if seen.contains (fVl f, fSrc f) then rxHeads r seen else f :: rxHeads r ((fVl f, fSrc f) :: seen)

/-- The first of those flits that meets a condition leaves its buffer. -/
def State.takeRx (s : State) (k : Nat) (c : List Byte → Bool) : Option (List Byte × State) :=
  let p := s.portOf k
  match (rxHeads p.rx []).find? c with
  | none => none
  | some f => some (f, (s.putPort k { p with rx := p.rx.erase f }).owe k (fVl f))

/-- PING: answered with a PONG (R395). -/
def execPing (k : Port) (s : State) : Host.Outcome State Fault Refusal :=
  match s.takeRx k fun f => fType f == tPing with
  | none => .next s
  | some (f, t) => done s (t.send tPong (fSrc f) 0 (List.replicate 8 0 ++ leBytes t.tb.toNat 8) [])

/-- PONG: the answer arrives. -/
def execPong (k : Port) (s : State) : Host.Outcome State Fault Refusal :=
  match s.takeRx k fun f => fType f == tPong with
  | none => .next s
  | some (_, t) => done s t

/-! ### Collective abort and broken groups (R411 to R413) -/

def State.putRound (s : State) (p : Nat) (r : Round) : State :=
  let k := s.pdkOf p
  s.putPdk p { k with rounds := k.rounds.map fun x => if x.st = r.st && x.idx = r.idx then r else x }

/-- The group is broken: the paddock starts no further step. -/
def State.breakGroup (s : State) (p : Nat) : State := (s.setFlag Reg.COLL_STATUS_BROKEN 0 p).stopPdk p 0x23

/-- COLL_DECIDE_MAX: the longest time from opening to decision. -/
def State.decideTime (s : State) (p : Nat) (r : Round) : State :=
  s.setFld Reg.COLL_DECIDE_MAX_NS (max (s.fld Reg.COLL_DECIDE_MAX_NS 0 p) (min (s.tb.toNat - r.openTb.toNat) (2 ^ 32 - 1))) 0 p

/-- A round ends at this member with OUT unchanged: DONE_LATCH is released. -/
def State.endRound (s : State) (p : Nat) (r : Round) : State :=
  (s.putRound p { r with done := true }).setLatch r.st (byteAt r.desc 2) true

/-- An abort at this member: status, count and event; the step is marked for replay (R411, R412), and the rounds of the epoch from `from_` on
are abandoned: those open end, those still to open end as they open. -/
def State.noteAbort (s : State) (p from_ reason missing : Nat) : State :=
  let t := s.bump Reg.COLL_ABORT_CNT_COUNT 1 0 p
  let t := if t.flag Reg.COLL_STATUS_ABORT 0 p then t
    else ((t.setFlag Reg.COLL_STATUS_ABORT 0 p).setFld Reg.COLL_STATUS_REASON reason 0 p).setFld Reg.COLL_STATUS_MISSING missing 0 p
  let t := t.fault 0x0B 6 p (reason + missing * 2 ^ 8 + s.fld Reg.COLL_EPOCH_EPOCH 0 p * 2 ^ 32)
  let k := t.pdkOf p
  let n := if k.abandonAt.isSome then k.aborts else k.aborts + 1
  let t := t.putPdk p { k with abandonAt := some (min from_ (k.abandonAt.getD from_)), replay := true, aborts := n }
  let t := (k.rounds.filter fun x => !x.done && decide (from_ ≤ x.idx)).foldl (fun u x => u.endRound p x) t
  if reason = 3 || n ≥ 3 then t.breakGroup p else t

/-- A round aborts at this member: OUT unchanged, DONE_LATCH released, the later rounds abandoned. -/
def State.abortRound (s : State) (p : Nat) (r : Round) (reason missing : Nat) : State :=
  ((s.endRound p r).decideTime p r).noteAbort p (r.idx + 1) reason missing

def State.groupNo (s : State) (p : Nat) : Nat := leAt (s.sect p) 256 2
/-- The paddock of a group. -/
def State.pdkOfGroup (s : State) (g : Nat) : Option Nat :=
  (List.range 16).find? fun p => s.pdkOn p && s.groupSize p != 0 && s.groupNo p == g
/-- Other ranks of a group. -/
def State.peers (s : State) (p : Nat) : List Nat := (List.range (s.groupSize p)).filter fun r => r != s.groupRank p

/-- G, K, N and E of a collective flit. -/
def State.collFields (s : State) (p n : Nat) : List Byte :=
  leBytes (s.groupNo p) 2 ++ leBytes (s.groupRank p) 1 ++ leBytes n 1 ++ leBytes (s.fld Reg.COLL_EPOCH_EPOCH 0 p) 4

/-- The lead tells every member a decision. -/
def State.sendDecide (s : State) (p n decision reason missing : Nat) : State :=
  (s.peers p).foldl (fun u r =>
    u.send tCollDecide (s.groupDid p r) 0 (s.collFields p n ++ leBytes decision 1 ++ leBytes reason 1 ++ leBytes missing 1) []) s

/-- The lead aborts a round. -/
def State.leadAbort (s : State) (p : Nat) (r : Round) (reason missing : Nat) : State :=
  (s.sendDecide p r.idx 1 reason missing).abortRound p r reason missing

/-- REASON LINK: a member's route is UNREACH while a round is open (R410). -/
def State.linkAborts (s : State) : State :=
  (List.range 16).foldl (fun u p =>
    if u.pdkOn p && u.groupSize p != 0 && u.groupRank p == 0 then
      match (u.peers p).find? fun r => (u.routePort (u.groupDid p r)).isNone with
      | none => u
      | some m => ((u.pdkOf p).rounds.filter fun r => !r.done).foldl (fun v r => v.leadAbort p r 2 m) u
    else u) s

/-! ### Ports going down and coming up (R393, R398, R405) -/

/-- STATE of a port that falls is DOWN. -/
def State.portDrop (s : State) (k : Nat) : State :=
  ((s.setFld Reg.DRT_PORT_STATUS_STATE pDown 0 k).setFlag Reg.DRT_PORT_STATUS_DOWN_EV 0 k).fault 0x09 5 k (s.fld Reg.DRT_PORT_STATUS_RETRAINS 0 k)

/-- Of a port that has fallen, the replay buffer and both ends' receive buffers are discarded; flits waiting move to the ALT port of their
routes, or are discarded. -/
def State.portEmpty (s : State) (k : Nat) : State :=
  let p := s.portOf k
  let t := { s with ports := s.ports.map fun (x : Nat × DrtPort) => (x.1, { x.2 with tx := x.2.tx.filter fun y => y.1 != some k }) }
  let t := t.putPort k { turn := p.turn, downTb := s.tb, diverted := true }
  let t := t.drtLost p.sent.length Reg.DRT_STATUS_LOST 0
  p.tx.foldl (fun u x =>
    if (u.routePort (fDst x.2)).isSome then u.sendVia x.1 x.2
    else
      let v := u.drtLost 1 Reg.DRT_STATUS_LOST 0
      match x.1 with | some o => v.owe o (fVl x.2) | none => v) t

/-- Those of a list of ports that are UP fall, all at once. -/
def State.portsFall (s : State) (l : List Nat) : State :=
  let up := l.filter s.portUp
  if up.isEmpty then s
  else (up.foldl State.portEmpty (up.foldl State.portDrop s)).linkAborts
def State.portFall (s : State) (k : Nat) : State := s.portsFall [k]

/-- PORT_DOWN: sixteen resends of one SEQ, or no good flit for 4 µs. -/
def execPortDown (k : Port) (t : Dword) (s : State) : Host.Outcome State Fault Refusal :=
  let p := s.portOf k
  if s.portUp k && (decide (p.resends ≥ 16) || decide (t.toNat ≥ p.lastGood.toNat + 4000)) then done s ((s.atTb t).portFall k) else .next s

/-- REFCLK_DRT runs and the tack image enables the port. -/
def State.portMay (s : State) (k : Nat) : Bool := s.board.refDrt && !s.maintenance && bit (byteAt s.tackDevice 4) k

/-- PORT_RETRAIN: at once, after 1 s and after 10 s. -/
def execPortRetrain (k : Port) (t : Dword) (s : State) : Host.Outcome State Fault Refusal :=
  let p := s.portOf k
  let wait := if p.tries = 0 then 0 else if p.tries = 1 then 10 ^ 9 else 10 ^ 10
  if s.portState k = pDown && s.portMay k && p.tries < 3 && !s.flag Reg.DRT_PORT_STATUS_MISWIRED 0 k
      && decide (t.toNat ≥ p.downTb.toNat + wait) then
    let u := (s.atTb t).putPort k { p with tries := p.tries + 1 }
    done s ((u.setFld Reg.DRT_PORT_STATUS_STATE pTraining 0 k).bump Reg.DRT_PORT_STATUS_RETRAINS 1 0 k)
  else .next s

/-- Expected peer of a port (R427). -/
def State.peerDid (s : State) (k : Nat) : Nat := leAt s.tackDevice (16 + 2 * k) 2

/-- PORT_TRAIN_DONE: the port is up where its peer is the one expected; both ends start with full credits and send PING. -/
def execPortTrainDone (k : Port) (ok : Bool) (peer : BitVec 16) (s : State) : Host.Outcome State Fault Refusal :=
  if s.portState k ≠ pTraining || !s.portMay k then .next s
  else
    let p := s.portOf k
    if !ok then
      if p.tries ≥ 3 then done s ((s.setFld Reg.DRT_PORT_STATUS_STATE pFailed 0 k).fault 0x0A 5 k 0)
      else done s ((s.setFld Reg.DRT_PORT_STATUS_STATE pDown 0 k).putPort k (if p.tries = 0 then { p with downTb := s.tb } else p))
    else
      let t := s.setFld Reg.DRT_PORT_STATUS_PEER_DID peer.toNat 0 k
      if peer.toNat ≠ s.peerDid k then
        done s ((t.setFld Reg.DRT_PORT_STATUS_STATE pDown 0 k).setFlag Reg.DRT_PORT_STATUS_MISWIRED 0 k)
      else
        let t := ((t.setFld Reg.DRT_PORT_STATUS_STATE pUp 0 k).setFld Reg.DRT_PORT_STATUS_MISWIRED 0 0 k).clr Reg.DRT_PORT_CRED 0 k
        let f := mkFlit tPing peer.toNat s.did 0 (List.replicate 8 0 ++ leBytes s.tb.toNat 8) []
        done s ((t.putPort k { turn := p.turn, diverted := p.diverted, lastGood := s.tb, tx := [(none, f)] }).pumpAll k)

/-- REVERT: routes return to the PRIMARY ports that are up. -/
def State.revert (s : State) : State :=
  { s with ports := s.ports.map fun (x : Nat × DrtPort) => (x.1, if s.portUp x.1 then { x.2 with diverted := false } else x.2) }
def execRevert (s : State) : Host.Outcome State Fault Refusal := done s s.revert

end Sys2Proof.Machine
end

