-- ==== Sys2Proof/Machine/Group.lean ====
section
/-! DEFINITION. Collective rounds, the hinge across a group, ledger commands over Dartin, import and export of KV pages
(15_dartin_link.md R406 to R421), and the hinge commit. -/
namespace Sys2Proof.Machine

/-! ### Collective rounds (R407 to R411) -/

/-- A collective descriptor. -/
structure CollDesc where
  scatter : Bool
  trig : Nat
  done : Nat
  chunk : Nat
  src : Nat
  stage : Nat
  out : Nat
  deadline : Nat
deriving DecidableEq, Repr

def parseColl (b : List Byte) : CollDesc :=
  ⟨bit (byteAt b 0) 0, byteAt b 1, byteAt b 2, leAt b 4 4, leAt b 8 4, leAt b 12 4, leAt b 16 4, leAt b 20 2⟩

/-- Its fields are in range and STAGE overlaps neither SRC nor OUT. -/
def collOk (g : Nat) (b : List Byte) : Bool :=
  let d := parseColl b
  let apart (a n c m : Nat) : Bool := decide (a + n ≤ c) || decide (c + m ≤ a)
  decide (byteAt b 0 < 2) && byteAt b 3 == 0 && allZero (b.drop 22) &&
  decide (d.chunk % 64 = 0) && decide (64 ≤ d.chunk) && decide (d.chunk ≤ 2 ^ 22) &&
  decide (d.src % 64 = 0) && decide (d.stage % 64 = 0) && decide (d.out % 64 = 0) &&
  decide (d.src + (if d.scatter then g * d.chunk else d.chunk) ≤ stbSize) && decide (d.stage + g * d.chunk ≤ stbSize) &&
  decide (d.out + g * d.chunk ≤ stbSize) && (d.deadline == 0 || (decide (2 ≤ d.deadline) && decide (d.deadline ≤ 200))) &&
  apart d.stage (g * d.chunk) d.src (if d.scatter then g * d.chunk else d.chunk) && apart d.stage (g * d.chunk) d.out (g * d.chunk)

/-- DEADLINE_US of a round, in TB. -/
def State.roundDeadline (s : State) (p : Nat) (r : Round) : Nat :=
  let d := (parseColl r.desc).deadline
  let g := byteAt (s.sect p) 260
  1000 * (if d ≠ 0 then d else if g ≠ 0 then g else 20)

/-- Copies lines within an STB, their poison with them. -/
def State.stbCopy (s : State) (st src dst n : Nat) : State :=
  (List.range (n / 64)).foldl (fun u i =>
    u.stbStore st (dst + 64 * i) (fullCells (u.stbRead st (src + 64 * i) 64)) (u.linePoison st ((src + 64 * i) / 64))) s

/-- COMMIT at this member: STAGE is copied to OUT, then DONE_LATCH is released. -/
def State.commitRound (s : State) (p : Nat) (r : Round) : State :=
  let d := parseColl r.desc
  (((s.putRound p { r with done := true }).stbCopy r.st d.stage d.out (s.groupSize p * d.chunk)).setLatch r.st d.done true).decideTime p r

def State.roundOf (s : State) (p st idx : Nat) : Option Round :=
  (s.pdkOf p).rounds.find? fun r => r.st == st && r.idx == idx
/-- The round of a flit: the first stall in ring order that has round `n` open without a decision (notes/assumptions/41.md). -/
def State.openRound (s : State) (p n : Nat) : Option Round :=
  ((s.pdkStalls p).filterMap fun st => s.roundOf p st n).find? fun r => !r.done

/-- The lead holds a vote; with those of all members within the deadline it commits. -/
def State.addVote (s : State) (p : Nat) (r : Round) (rank : Nat) : State :=
  let r := { r with votes := if r.votes.contains rank then r.votes else r.votes ++ [rank] }
  let t := s.putRound p r
  if r.votes.length = s.groupSize p && decide (s.tb.toNat ≤ r.openTb.toNat + s.roundDeadline p r) then
    (t.sendDecide p r.idx 0 0 0).commitRound p r
  else t

/-- A member votes once it has read SRC and its STAGE is full. -/
def State.tryVote (s : State) (p st idx : Nat) : State :=
  match s.roundOf p st idx with
  | none => s
  | some r =>
    if r.voted || r.done || decide (64 * r.got.length < (s.groupSize p - 1) * (parseColl r.desc).chunk) then s
    else
      let r := { r with voted := true }
      let t := s.putRound p r
      if s.groupRank p = 0 then t.addVote p r 0
      else t.send tCollVote (s.groupDid p 0) 0 (s.collFields p idx) []

/-- COLL_DATA flits of `n` bytes of the STB from `off`, for offset `at_` of a peer's STAGE. -/
def State.sendData (s : State) (p st idx dst off at_ n : Nat) : State :=
  (List.range ((n + 191) / 192)).foldl (fun u i =>
    let k := min 192 (n - 192 * i)
    u.send tCollData dst (k / 64) (s.collFields p idx ++ leBytes (at_ + 192 * i) 4) (s.stbRead st (off + 192 * i) k)) s

/-- A descriptor is the next of the table that stands at `base`, and its STAGE overlaps the STAGE of no round already open (R407, R408). The
table's place is that of the first descriptor ever opened from it (notes/assumptions/41.md). -/
def tableGoesOn (g : Nat) (base : Option Nat) (place : Nat) (b : List Byte) (before : List Round) : Bool :=
  (match base with | none => before.isEmpty | some a => place == a + 64 * before.length) &&
  before.all fun r =>
    let d := parseColl b
    let e := parseColl r.desc
    decide (d.stage + g * d.chunk ≤ e.stage) || decide (e.stage + g * e.chunk ≤ d.stage)

/-- Where a stall's collective table for the band of the step stands, once known. -/
def State.collBase (s : State) (p st : Nat) : Option Nat :=
  match SMap.get (s.pdkOf p).collAt 0 (16 * st + s.fld Reg.PDK_STATUS_BAND 0 p) with | 0 => none | n + 1 => some n

/-- ROUND_OPEN: the next round of the stall's table opens once TRIG_LATCH is released; its data goes to the other members. A round that an
abort of the epoch abandons only releases its DONE_LATCH. -/
def execRoundOpen (st : Stall) (place : BitVec 24) (s : State) : Host.Outcome State Fault Refusal :=
  match s.paddockOf st with
  | none => .next s
  | some p =>
    let k := s.pdkOf p
    let g := s.groupSize p
    let b := s.stbRead st place.toNat 64
    let d := parseColl b
    let before := k.rounds.filter fun r => r.st == st.val
    if g = 0 || !k.running || place.toNat % 64 ≠ 0 || !collOk g b || !tableGoesOn g (s.collBase p st) place.toNat b before || !s.latch st d.trig then .next s
    else
      let idx := before.length
      let gone := match k.abandonAt with | some n => decide (n ≤ idx) | none => false
      let r : Round := ⟨st, idx, b, s.tb, [], false, [], gone⟩
      let t := s.putPdk p { k with
        rounds := k.rounds ++ [r],
        collAt := SMap.set k.collAt 0 (16 * st.val + s.fld Reg.PDK_STATUS_BAND 0 p) (place.toNat - 64 * idx + 1) }
      if gone then done s (t.setLatch st d.done true)
      else
        let me := s.groupRank p
        let own := if d.scatter then d.src + me * d.chunk else d.src
        let t := t.stbCopy st own (d.stage + me * d.chunk) d.chunk
        let t := (s.peers p).foldl (fun u j =>
          u.sendData p st idx (s.groupDid p j) (if d.scatter then d.src + j * d.chunk else d.src) (me * d.chunk) d.chunk) t
        done s (t.tryVote p st idx).linkAborts

/-- A collective flit: its paddock, whether its epoch is behind, its round. -/
def collRound (f : List Byte) : Nat := byteAt f 19
def collEpoch (f : List Byte) : Nat := leAt f 20 4
def State.epochOf (s : State) (p : Nat) : Nat := s.fld Reg.COLL_EPOCH_EPOCH 0 p
/-- The round is decided: of an epoch behind, or with every stall of the paddock having decided it. -/
def State.late (s : State) (p : Nat) (f : List Byte) : Bool :=
  let back := (BitVec.ofNat 32 (s.epochOf p) - BitVec.ofNat 32 (collEpoch f)).toNat
  (back != 0 && decide (back < 2 ^ 31)) ||
    (back == 0 && (s.pdkStalls p).all fun st => match s.roundOf p st (collRound f) with | some r => r.done | none => false)

/-- COLL_DATA: written to STAGE where its round is open, discarded where it is decided; otherwise it waits in its buffer. -/
def execCollData (k : Port) (s : State) : Host.Outcome State Fault Refusal :=
  let may (f : List Byte) : Bool := fType f == tCollData &&
    match s.pdkOfGroup (leAt f 16 2) with
    | none => true
    | some p => s.late p f || (collEpoch f == s.epochOf p && (s.openRound p (collRound f)).isSome)
  match s.takeRx k may with
  | none => .next s
  | some (f, t) =>
    match t.pdkOfGroup (leAt f 16 2) with
    | none => done s t
    | some p =>
      if t.late p f then done s (t.bump Reg.COLL_LATE_CNT_COUNT 1 0 p)
      else match t.openRound p (collRound f) with
        | none => done s t
        | some r =>
          let d := parseColl r.desc
          let off := leAt f 24 4
          let n := 64 * fLines f
          if off + n > t.groupSize p * d.chunk || off % 64 ≠ 0 then done s t
          else
            let u := t.stbStore r.st (d.stage + off) (fullCells ((fPayload f).take n)) false
            let lines := ((List.range (fLines f)).map fun i => off + 64 * i).filter fun o => !r.got.contains o
            done s ((u.putRound p { r with got := r.got ++ lines }).tryVote p r.st r.idx)

/-- COLL_VOTE: the lead records a vote. -/
def execCollVote (k : Port) (s : State) : Host.Outcome State Fault Refusal :=
  match s.takeRx k fun f => fType f == tCollVote with
  | none => .next s
  | some (f, t) =>
    match t.pdkOfGroup (leAt f 16 2) with
    | none => done s t
    | some p =>
      if t.groupRank p ≠ 0 || collEpoch f ≠ t.epochOf p || byteAt f 24 ≠ 0 then done s t
      else match t.openRound p (collRound f) with
        | none => done s t
        | some r => done s (t.addVote p r (bits (byteAt f 18) 5 0))

/-- The epoch of a flit is still to come at this member. -/
def State.ahead (s : State) (p : Nat) (f : List Byte) : Bool :=
  let on := (BitVec.ofNat 32 (collEpoch f) - BitVec.ofNat 32 (s.epochOf p)).toNat
  on != 0 && decide (on < 2 ^ 31)

/-- COLL_DECIDE: a member commits or aborts. An abort of a round that it has not opened yet is acted on at once: the round ends as it opens.
A decision of an epoch to come waits in its buffer. -/
def execCollDecide (k : Port) (s : State) : Host.Outcome State Fault Refusal :=
  match s.takeRx k fun f => fType f == tCollDecide && (match s.pdkOfGroup (leAt f 16 2) with | some p => !s.ahead p f | none => true) with
  | none => .next s
  | some (f, t) =>
    match t.pdkOfGroup (leAt f 16 2) with
    | none => done s t
    | some p =>
      if collEpoch f ≠ t.epochOf p then done s t
      else match t.openRound p (collRound f) with
        | none =>
          if byteAt f 24 = 0 || t.late p f then done s t
          else done s (t.noteAbort p (collRound f) (byteAt f 25) (bits (byteAt f 26) 5 0))
        | some r =>
          if byteAt f 24 = 0 then done s (t.commitRound p r)
          else done s (t.abortRound p r (byteAt f 25) (bits (byteAt f 26) 5 0))

/-- The first round without a decision whose time has passed. -/
def State.overdue (s : State) (p m : Nat) : Option Round :=
  (s.pdkOf p).rounds.find? fun r => !r.done && decide (s.tb.toNat ≥ r.openTb.toNat + m * s.roundDeadline p r)

/-- ROUND_DEADLINE: the lead aborts a round whose deadline has passed; MISSING is the lowest rank without a vote. -/
def execRoundDeadline (p : Paddock) (t : Dword) (s : State) : Host.Outcome State Fault Refusal :=
  let u := s.atTb t
  if s.groupSize p = 0 || s.groupRank p ≠ 0 then .next s
  else match (s.pdkOf p).rounds.find? fun r => !r.done && decide (u.tb.toNat > r.openTb.toNat + s.roundDeadline p r) with
    | none => .next s
    | some r =>
      let m := ((List.range (s.groupSize p)).find? fun k => !r.votes.contains k).getD 0
      done s (u.leadAbort p r 1 m)

/-- NO_DECISION: a member without a decision after twice the deadline aborts the round itself, and the group is broken. -/
def execNoDecision (p : Paddock) (t : Dword) (s : State) : Host.Outcome State Fault Refusal :=
  if s.groupSize p = 0 || s.groupRank p = 0 then .next s
  else match (s.atTb t).overdue p 2 with
    | none => .next s
    | some r => done s ((s.atTb t).abortRound p r 3 0)

/-! ### The hinge across a group (R408, R415 to R417) -/

/-- The entries that a plan selects, each with its QROWS and whether it is a prompt: those of the step, then the imports whose prompt pages
it maps, with no QROWS (R296, R415). -/
def Plan.selected (pl : Plan) : List (Nat × Nat × Bool) :=
  pl.step.map (fun r => (r.ix, r.qrows, r.prompt)) ++
  (pl.entries.filter fun x => x.2.2.imported && x.2.1.state != stPrompt && x.2.2.state == stPrompt).map fun x => (x.1, 0, true)

/-- The payload of the lead's plan; its layout is not given (notes/assumptions/42.md). -/
def planBytes (pl : Plan) : List Byte :=
  leBytes pl.band 1 ++ leBytes pl.roleset 1 ++ leBytes (if pl.replay then 1 else 0) 1 ++ [0] ++ leBytes pl.cmds.length 2 ++
  leBytes pl.selected.length 2 ++ leBytes pl.res.length 2 ++ [0, 0] ++ pl.cmds.flatMap (padTo 64) ++
  pl.selected.flatMap (fun r => leBytes r.1 2 ++ leBytes r.2.1 2 ++ leBytes (if r.2.2 then 1 else 0) 2) ++
  pl.res.flatMap (fun r => leBytes r.ix 2 ++ leBytes r.a 1 ++ leBytes (if r.stop then 1 else 0) 1)

/-- The lead's HINGE flits to every follower. -/
def State.sendPlan (s : State) (p : Nat) (pl : Plan) : State :=
  let b := planBytes pl
  let n := (b.length + 191) / 192
  (s.peers p).foldl (fun u r =>
    (List.range n).foldl (fun v i =>
      v.send tHinge (s.groupDid p r) 3 (leBytes (s.groupNo p) 2 ++ [0, 0] ++ leBytes (s.epochOf p) 4 ++ leBytes (s.rd Reg.PDK_STEP 0 p) 8 ++
        leBytes i 1 ++ leBytes n 1) ((b.drop (192 * i)).take 192)) u) s

/-- What a plan's payload says. -/
structure LeadPlan where
  band : Nat
  roleset : Nat
  replay : Bool
  cmds : List (List Byte)
  step : List (Nat × Nat × Bool)
  res : List (Nat × Nat × Bool)
deriving DecidableEq, Repr

def parsePlan (b : List Byte) : LeadPlan :=
  let nc := leAt b 4 2
  let ns := leAt b 6 2
  let nr := leAt b 8 2
  let at1 := 12 + 64 * nc
  let at2 := at1 + 6 * ns
  ⟨byteAt b 0, byteAt b 1, byteAt b 2 == 1, (List.range nc).map fun i => (b.drop (12 + 64 * i)).take 64,
    (List.range ns).map fun i => (leAt b (at1 + 6 * i) 2, leAt b (at1 + 6 * i + 2) 2, byteAt b (at1 + 6 * i + 4) == 1),
    (List.range nr).map fun i => (leAt b (at2 + 4 * i) 2, byteAt b (at2 + 4 * i + 2), byteAt b (at2 + 4 * i + 3) == 1)⟩

/-- DIVERGED breaks the group (R417). -/
def State.diverge (s : State) (p : Nat) : State :=
  let t := s.putPdk p { s.pdkOf p with parts := [] }
  (((t.drtEvent Reg.COLL_STATUS_DIVERGED p 6 p t.freeVal.toNat).tick).breakGroup p)

/-- Pages for the lead's selection, in its order; none where a mapping fails (R417). An entry with no QROWS is an import: its prompt pages are
mapped and it computes nothing. -/
def State.forceStep (s : State) (p : Nat) : List (Nat × Nat × Bool) → Option (State × List StepReq)
  | [] => some (s, [])
  | (ix, q, prompt) :: r =>
    let e := s.entryOf ix
    match s.mapAll p ix (if q = 0 then s.wanted p ix 0 e.lPrompt else s.wanted p ix e.lSpec (e.lSpec + q)) with
    | none => none
    | some t =>
      match State.forceStep (t.putEntry ix { t.entryOf ix with state := if prompt then stPrompt else stDecode }) p r with
      | none => none
      | some (u, l) => some (u, if q = 0 then l else ⟨ix, q, prompt, e.lSpec⟩ :: l)

/-- A follower's planning: what the last step did, the commands in order, then the lead's selection (R416). -/
def State.followStep (s : State) (p : Nat) (lp : LeadPlan) : Option Planned :=
  let k := s.pdkOf p
  let t := if k.running && !lp.replay then k.step.foldl (fun u r => u.applyResult p r) s
    else if k.running then s.dropStepRecs p else s
  let t := (s.slice p).foldl (fun u ix => u.settleEntry p ix) t
  let ranked := (t.ranked p).length
  if lp.replay then
    let keep := k.step.filter fun r => lp.step.any fun x => x.1 == r.ix
    some ⟨((t.markReplay p (keep.map (·.ix))).restore p).evict p keep, keep, lp.roleset, true, ranked⟩
  else
    let t := ((t.markReplay p []).rollbacks p ((lp.step.filter fun x => !x.2.2).map (·.1))).restore p
    match t.forceStep p lp.step with
    | none => none
    | some (u, step) =>
      some ⟨(u.unprompt p step).evict p step, step, lp.roleset, false, ranked⟩

/-- An entry whose pages a commit has mapped for an import: IMPORT_READY goes to the DID that submitted it, or to the first import source
(R419). -/
def State.readySends (s : State) (p : Nat) (pl : Plan) : State :=
  pl.entries.foldl (fun u x =>
    let e := u.entryOf x.1
    if e.imported && e.state == stPrompt && x.2.1.state != stPrompt && x.2.2.state == stPrompt then
      match (match e.link with | some d => some d | none => (u.importSources p).head?) with
      | some d => u.send tImportReady d 0 (leBytes x.1 2 ++ List.replicate 6 0 ++ leBytes e.hostTag.toNat 8) []
      | none => u
    else u) s

/-- HINGE_COMMIT: the plan becomes visible; the lead of a group starts the next epoch with the step and sends its plan. -/
def execHingeCommit (p : Paddock) (s : State) : Host.Outcome State Fault Refusal :=
  match (s.pdkOf p).plan with
  | none => .next s
  | some pl =>
    let t := (s.commit p pl).readySends p pl
    let t := if s.groupSize p = 0 || s.follower p then t
      else
        let u := if (t.pdkOf p).running then t.count Reg.COLL_EPOCH_EPOCH 1 0 p else t
        u.sendPlan p pl
    done s t.flrSettle

/-- A follower applies and commits the lead's plan whose flits carry epoch `e` and PDK_STEP `n`. -/
def State.follow (s : State) (p : Nat) (lp : LeadPlan) (e n : Nat) : State :=
  let k := s.pdkOf p
  let own := k.res.map fun r => (r.ix, r.a, r.stop)
  let differs := k.running && !lp.replay && !(own.length == lp.res.length && lp.res.all fun r => own.contains r)
  if differs then s.diverge p
  else
    let t := lp.cmds.foldl (fun u c => (u.cmdApply c 0 none).1) (s.putPdk p { k with parts := [] })
    match t.followStep p lp with
    | none => s.diverge p
    | some x =>
      let u := t.makePlan p x []
      let pl := match (u.pdkOf p).plan with | some pl => { pl with band := lp.band } | none => ⟨[], [], 0, 0, false, [], [], []⟩
      let u := (u.wr Reg.PDK_STEP (n + 2 ^ 64 - 1) 0 p).wr Reg.COLL_EPOCH e 0 p
      ((u.commit p pl).readySends p pl).flrSettle

/-- HINGE: a part of the plan arrives; with the last part the follower applies it, once its own step is over. -/
def execHinge (k : Port) (s : State) : Host.Outcome State Fault Refusal :=
  let may (f : List Byte) : Bool := fType f == tHinge &&
    match s.pdkOfGroup (leAt f 16 2) with
    | none => true
    | some p =>
      let x := s.pdkOf p
      !s.follower p || decide (x.parts.length + 1 < byteAt f 33) || (x.plan.isNone && x.resetTb.isNone && !s.flag Reg.PDK_TACK_WAIT_SHRINK 0 p
        && (!x.running || s.stepOver p || x.abandon) && s.paddockReady (s.firstStall p))
  match s.takeRx k may with
  | none => .next s
  | some (f, t) =>
    match t.pdkOfGroup (leAt f 16 2) with
    | none => done s t
    | some p =>
      if !t.follower p || (t.pdkOf p).stop ≠ 0 then done s t
      else
        let x := t.pdkOf p
        let parts := SMap.set x.parts [] (byteAt f 32) (fPayload f)
        let t := t.putPdk p { x with parts := parts, partsTb := if x.parts.isEmpty then s.tb else x.partsTb }
        if parts.length < byteAt f 33 then done s t
        else done s (t.follow p (parsePlan (parts.flatMap fun y => y.2)) (collEpoch f) (leAt f 24 8))

/-- Parts of the plan that have arrived and wait in a receive buffer for the step to end: all of the plan is there. -/
def State.partsWait (s : State) (p : Nat) : Bool :=
  let l := s.ports.flatMap fun x => x.2.rx.filter fun f => fType f == tHinge && s.pdkOfGroup (leAt f 16 2) == some p
  let k := s.pdkOf p
  l.any fun f => decide (k.parts.length + ((l.map fun g => byteAt g 32).eraseDups.filter fun n => !(k.parts.any fun x => x.1 == n)).length ≥ byteAt f 33)

/-- PLAN_PART_TIMEOUT: a part is missing twice the deadline after the first. -/
def execPlanPartTimeout (p : Paddock) (t : Dword) (s : State) : Host.Outcome State Fault Refusal :=
  let k := s.pdkOf p
  let g := byteAt (s.sect p) 260
  if s.follower p && !k.parts.isEmpty && !s.partsWait p && decide (t.toNat ≥ k.partsTb.toNat + 2000 * (if g ≠ 0 then g else 20)) then
    done s ((s.atTb t).diverge p)
  else .next s

/-! ### Ledger commands over Dartin (R418) -/

/-- The 64 completions kept of each source, the newest last. -/
def keepTag (l : List (Nat × Nat × List Byte)) (src tag : Nat) (c : List Byte) : List (Nat × Nat × List Byte) :=
  let mine := l.filter fun x => x.1 == src
  let l := if mine.length ≥ 64 then (match mine.head? with | some x => l.erase x | none => l) else l
  l ++ [(src, tag, c)]

/-- LEDGER_CMD: checked and applied; a repeated XTAG gets its kept completion again. -/
def execLedgerCmd (k : Port) (s : State) : Host.Outcome State Fault Refusal :=
  match s.takeRx k fun f => fType f == tLedgerCmd with
  | none => .next s
  | some (f, t) =>
    let src := fSrc f
    let tag := leAt f 16 4
    let cmd := (fPayload f).take 64
    match t.xtags.find? fun x => x.1 == src && x.2.1 == tag with
    | some x => done s (t.send tLedgerCpl src 1 (leBytes tag 4) x.2.2)
    | none =>
      let x := t.ledgerCommand cmd 0 (some src)
      let c := cplBytes (BitVec.ofNat 32 tag) x.2.1 false x.2.2 cmd
      done s (({ x.1 with xtags := keepTag x.1.xtags src tag c }).send tLedgerCpl src 1 (leBytes tag 4) c)

/-- LEDGER_CPL: a completion of a remote command arrives; nothing waits on it. -/
def execLedgerCpl (k : Port) (s : State) : Host.Outcome State Fault Refusal :=
  match s.takeRx k fun f => fType f == tLedgerCpl with
  | none => .next s
  | some (_, t) => done s t

/-! ### Import (R420) -/

/-- An IMPORT_WR applied or refused: its status. -/
def State.importWrite (s : State) (f : List Byte) : State × Nat :=
  let ix := leAt f 16 2
  let e := s.entryOf ix
  let p := e.paddock
  let va := leAt f 32 5 % 2 ^ 32 * 64
  if ix ≥ 8192 || e.state ≠ stPrompt || !e.imported || e.importDone || e.hostTag.toNat ≠ leAt f 24 8 then (s, 1)
  else if !(s.importSources p).contains (fSrc f) || decide (bits va 29 16 ≥ (e.lPrompt + 63) / 64) then (s, 2)
  else
    let st := s.firstStall p
    match s.mmuWalk st (bit e.root 0) (e.root / 64 * 64) va with
    | (t, .error _) => (t, 2)
    | (t, .ok pg) =>
      if bit (byteAt f 37) 0 then
        let view := t.flag Reg.ATS_SIDE_BASE_VIEW st
        let a := t.fld Reg.ATS_SIDE_BASE_ADDR st * 64 + 32 * pg.sidx
        if t.mmuAddr st view a = some causeAddr then (t, 2)
        else match t.devWrite view a ((fPayload f).take 32) 2 with
          | some u => (u, 0)
          | none => (t, 2)
      else if va % 65536 + 64 * fLines f > 65536 then (t, 2)
      else
        ((List.range (fLines f)).foldl (fun u i =>
          u.lineWrite (u.pageLine pg (va % 65536 + 64 * i)) (((fPayload f).drop (64 * i)).take 64) false) t, 0)

/-- IMPORT_WR: applied or not, it is acknowledged; the pairs of the acknowledgement repeat the one (notes/assumptions/43.md). It waits for the
channels of the entry's paddock (notes/assumptions/71.md). -/
def execImportWr (k : Port) (s : State) : Host.Outcome State Fault Refusal :=
  let may (f : List Byte) : Bool := fType f == tImportWr && s.paddockReady (s.firstStall (s.entryOf (leAt f 16 2)).paddock)
  match s.takeRx k may with
  | none => .next s
  | some (f, t) =>
    let x := t.importWrite f
    let u := if x.2 = 0 then x.1 else x.1.bump Reg.IMP_REJ_CNT_COUNT 1
    let pair := leBytes (leAt f 40 4) 4 ++ leBytes x.2 4
    done s (u.send tImportAck (fSrc f) 1 ((f.drop 16).take 2 ++ List.replicate 6 0 ++ (f.drop 24).take 8) (List.replicate 8 pair).flatten)

/-! ### Export (R421) -/

/-- Codes of EXP_STATUS. -/
def expOk : Nat := 0
def expNoReady : Nat := 1
def expLost : Nat := 2
def expRefused : Nat := 3
def expBad : Nat := 4

/-- A write of an export travels on the primary route (R421); without one it is lost there with UNREACH (R403). -/
def State.sendWrite (s : State) (f : List Byte) : State := s.sendOn (s.routePrimary (fDst f)) none f

/-- The fields are in their ranges; NLG has none, and an NLG of 0 sends nothing (R6). -/
def expDescOk (b : List Byte) : Bool :=
  decide (leAt b 2 2 < 8192) && decide (leAt b 4 4 < 2 ^ 20) && decide (bits (leAt b 16 8) 5 1 = 0) && decide (bits (leAt b 16 8) 63 48 = 0) &&
  decide (bits (leAt b 24 8) 5 1 = 0) && decide (bits (leAt b 24 8) 63 48 = 0) && decide (1 ≤ leAt b 32 4) && decide (leAt b 32 4 ≤ 2 ^ 20) &&
  allZero (b.drop 37)

def State.syncExp (s : State) : State := s.setFld Reg.EXP_STATUS_QDEPTH s.exp.queue.length

/-- The export in hand ends with a code. -/
def State.expFinish (s : State) (code : Nat) : State :=
  let t := { s with exp := { s.exp with cur := none, writes := [], next := 0, ready := false } }
  let t := t.count Reg.EXP_DONE_CNT_COUNT 1
  if code = 0 then t
  else
    let t := if t.flag Reg.EXP_STATUS_ERR then t else t.setFld Reg.EXP_STATUS_CODE code
    (t.drtEvent Reg.EXP_STATUS_ERR 0 0 0 t.freeVal.toNat).tick

/-- The paddock whose table region holds a root table; its first stall. -/
def State.rootStall (s : State) (view : Bool) (a : Nat) : Option Nat :=
  ((List.range 16).find? fun p => s.pdkOn p && s.inTables p view a).map s.firstStall

/-- Write `n` of an export: its VA, SIDE and lines; none where a walk faults. -/
def State.expBody (s : State) (b : List Byte) (n : Nat) : State × Option (Nat × Bool × List Byte) :=
  let i := n / 343
  let j := n % 343
  let va := i % byteAt b 36 * 2 ^ 30 + i / byteAt b 36 * 2 ^ 16
  let root := leAt b 16 8
  match s.rootStall (bit root 0) (root / 64 * 64) with
  | none => (s, none)
  | some st =>
    match s.mmuWalk st (bit root 0) (root / 64 * 64) va with
    | (t, .error _) => (t, none)
    | (t, .ok pg) =>
      if j < 342 then
        let x := (List.range (min 3 (1024 - 3 * j))).foldl (fun (y : State × List Byte) l =>
          let z := y.1.lineRead (y.1.pageLine pg (64 * (3 * j + l)))
          (z.1, y.2 ++ z.2.1)) (t, [])
        (x.1, some (va + 192 * j, false, x.2))
      else
        let side := leAt b 24 8
        let a := side / 64 * 64 + 32 * pg.sidx
        if t.mmuAddr st (bit side 0) a = some causeAddr then (t, none)
        else match t.devRead (bit side 0) a 32 2 with
          | none => (t, none)
          | some (u, l, _) => (u, some (va, true, l))

def expTotal (b : List Byte) : Nat := (leAt b 32 4 + 63) / 64 * byteAt b 36 * 343

/-- The next write may go at once: its lane on the primary route has credit and none waits before it. -/
def State.expRoom (s : State) (dst : Nat) : Bool :=
  match s.routePrimary dst with
  | none => s.exp.writes.isEmpty
  | some k => decide (0 < s.cred k 2) && decide ((s.portOf k).sent.length < 512) && !(s.portOf k).tx.any fun x => fVl x.2 == 2

/-- The channels that the walk and the pages of an export lie in take requests. -/
def State.expReady (s : State) (b : List Byte) : Bool :=
  match s.rootStall (bit (leAt b 16 8) 0) (leAt b 16 8 / 64 * 64) with | some st => s.paddockReady st | none => true

/-- Writes sent as the link takes them; the end of the export once every one is acknowledged. -/
def State.expPump (s : State) : Nat → State
  | 0 => s
  | fuel + 1 =>
    match s.exp.cur with
    | none => s
    | some b =>
      let dst := leAt b 0 2
      let head := (b.drop 2).take 2 ++ List.replicate 6 0 ++ (b.drop 8).take 8
      if !s.exp.ready then s
      else if s.exp.next ≥ expTotal b then
        if s.exp.writes.isEmpty then
          let cmd := [5, 0, 0, 0] ++ (b.drop 2).take 2 ++ List.replicate 6 0 ++ (b.drop 4).take 4 ++ List.replicate 32 0 ++ (b.drop 8).take 8 ++
            List.replicate 8 0
          (s.send tLedgerCmd dst 1 (leBytes (s.rd Reg.EXP_DONE_CNT) 4) cmd).expFinish expOk
        else s
      else if !s.expRoom dst || !s.expReady b then s
      else match s.expBody b s.exp.next with
        | (t, none) => t.expFinish expBad
        | (t, some (va, side, l)) =>
          let f := mkFlit tImportWr dst s.did ((l.length + 63) / 64)
            (head ++ leBytes (va / 64) 5 ++ leBytes (if side then 1 else 0) 1 ++ [0, 0] ++ leBytes t.exp.next 4) l
          let t := { t with exp := { t.exp with next := t.exp.next + 1, writes := t.exp.writes ++ [(⟨t.exp.next, t.tb, 0, f⟩ : ExpWrite)] } }
          State.expPump (t.sendWrite f) fuel

/-- The next descriptor is taken; an IMPORT_READY that came before it starts it at once. -/
def State.expTake (s : State) : Nat → State
  | 0 => s
  | fuel + 1 =>
    match s.exp.cur, s.exp.queue with
    | none, (view, a) :: rest =>
      if !s.spanReady false view a 64 then s else
      let t := State.syncExp { s with exp := { s.exp with queue := rest } }
      match t.devRead view a 64 2 with
      | none => State.expTake (t.expFinish expBad) fuel
      | some (u, b, _) =>
        if !expDescOk b then State.expTake (u.expFinish expBad) fuel
        else
          let key := (leAt b 0 2, leAt b 2 2, leAt b 8 8)
          let u := { u with exp := { u.exp with
            cur := some b, tb := u.tb, ready := u.exp.readies.contains key, next := 0, writes := [], readies := u.exp.readies.erase key } }
          u.expPump 1024
    | _, _ => s

/-- The engine goes on as far as it can. -/
def State.expRun (s : State) : State := (s.expPump 1024).expTake 17

/-- EXP_PUSH: a push to a full queue is held (R225). -/
def State.expPush (s : State) (v : Nat) : State :=
  if s.exp.queue.length ≥ 16 then s
  else (State.syncExp { s with exp := { s.exp with queue := s.exp.queue ++ [(bit v 0, bits v 47 6 * 64)] } }).expRun
def execExpPush (v : Dword) (s : State) : Host.Outcome State Fault Refusal := done s (s.expPush v.toNat)

/-- FLIT_RECEIVE. -/
def execFlitReceive (k : Port) (flit : List Byte) (fec : Bool) (corrected : Nat) (s : State) : Host.Outcome State Fault Refusal :=
  if s.portUp k then done s (s.receive k flit fec corrected).expRun else .next s

/-- IMPORT_READY: the export in hand starts, or the message is kept for a descriptor to come. -/
def execImportReady (k : Port) (s : State) : Host.Outcome State Fault Refusal :=
  match s.takeRx k fun f => fType f == tImportReady with
  | none => .next s
  | some (f, t) =>
    let key := (fSrc f, leAt f 16 2, leAt f 24 8)
    match t.exp.cur with
    | some b =>
      if (leAt b 0 2, leAt b 2 2, leAt b 8 8) = key then done s (State.expRun { t with exp := { t.exp with ready := true } })
      else done s { t with exp := { t.exp with readies := t.exp.readies ++ [key] } }
    | none => done s { t with exp := { t.exp with readies := t.exp.readies ++ [key] } }

/-- IMPORT_ACK: writes acknowledged; a status other than 0 ends the export. -/
def execImportAck (k : Port) (s : State) : Host.Outcome State Fault Refusal :=
  match s.takeRx k fun f => fType f == tImportAck with
  | none => .next s
  | some (f, t) =>
    match t.exp.cur with
    | none => done s t
    | some b =>
      if leAt f 16 2 ≠ leAt b 2 2 || leAt f 24 8 ≠ leAt b 8 8 then done s t
      else
        let pairs := (List.range (min 24 (8 * fLines f))).map fun i => (leAt (fPayload f) (8 * i) 4, leAt (fPayload f) (8 * i + 4) 4)
        let mine := pairs.filter fun x => t.exp.writes.any fun w => w.wseq == x.1
        if mine.any (fun x => x.2 != 0) then done s (t.expFinish expRefused).expRun
        else
          done s (State.expRun { t with exp := { t.exp with writes := t.exp.writes.filter fun w => !(mine.any fun x => x.1 == w.wseq) } })

/-- EXPORT_RESEND: a write unacknowledged for 100 µs is sent again, up to 8 times. -/
def execExportResend (t : Dword) (s : State) : Host.Outcome State Fault Refusal :=
  match s.exp.cur with
  | none => .next s
  | some _ =>
    let u := s.atTb t
    let late := u.exp.writes.filter fun w => decide (u.tb.toNat ≥ w.tb.toNat + 100000)
    if late.any (fun w => decide (w.resends ≥ 8)) then done s (u.expFinish expLost).expRun
    else
      let again := u.exp.writes.map fun w => if late.contains w then { w with tb := u.tb, resends := w.resends + 1 } else w
      let v := { u with exp := { u.exp with writes := again } }
      done s (late.foldl (fun x w => x.sendWrite w.body) v).expRun

/-- EXPORT_READY_TIMEOUT. -/
def execExportReadyTimeout (t : Dword) (s : State) : Host.Outcome State Fault Refusal :=
  match s.exp.cur with
  | some _ =>
    if !s.exp.ready && decide (t.toNat ≥ s.exp.tb.toNat + 10 ^ 9) then done s ((s.atTb t).expFinish expNoReady).expRun else .next s
  | none => .next s

end Sys2Proof.Machine
end

