-- ==== Sys2Proof/Machine/Reset.lean ====
section
/-! DEFINITION. What a stall reset and a paddock reset do (16_tack_image_and_boot.md R443 to R445, R447; 06_grooms.md R153; 09_streams_and_dma.md
R253; 13_control_core.md R339, R366), and the start of a control core. -/
namespace Sys2Proof.Machine

/-- Entries of a store whose key lies in a span are dropped. -/
def dropSpan {α : Type} (m : SMap α) (lo hi : Nat) : SMap α := m.filter fun e => !(decide (lo ≤ e.1) && decide (e.1 < hi))

/-! ### The stall control core starts and halts (R339, R367, R447) -/

/-- The core starts at SCC_RESET_PC in the mode it is in: supervisor after a reset, and only exception entry and TRET change it (R339). -/
def State.sccStart (s : State) (st : Nat) : State :=
  let c := s.sccOf st
  let t := s.putScc st { c with pc := BitVec.ofNat 64 (4 * s.fld Reg.SCC_RESET_PC_PC st), slot := none, halting := false, heldRun := false }
  (t.setFlag Reg.SCC_CTRL_RUN st).setFlag Reg.SCC_STATUS_RUNNING st

def State.sccHalted (s : State) (st : Nat) : State :=
  let t := (s.setFld Reg.SCC_STATUS_RUNNING 0 st).setFld Reg.SCC_STATUS_WAITING 0 st
  t.putScc st { t.sccOf st with halting := false, heldRun := false, slot := none }

/-- SCC_CTRL.RUN written: a halt waits for the store buffer, and a RUN written before it completes is held. A mapped-out stall accepts
nothing (R474). -/
def State.sccRun (s : State) (st : Nat) (run : Bool) : State :=
  let c := s.sccOf st
  if !s.stallUp st then s
  else if c.halting then (s.putScc st { c with heldRun := run }).setFld Reg.SCC_CTRL_RUN (if run then 1 else 0) st
  else if run then (if s.flag Reg.SCC_STATUS_RUNNING st then s.setFlag Reg.SCC_CTRL_RUN st else s.sccStart st)
  else if !s.flag Reg.SCC_STATUS_RUNNING st then s.setFld Reg.SCC_CTRL_RUN 0 st
  else
    let t := s.setFld Reg.SCC_CTRL_RUN 0 st
    if c.stores.isEmpty then t.sccHalted st else t.putScc st { c with halting := true }
/-- SCC_RUN. -/
def execSccRun (st : Stall) (run : Bool) (s : State) : Host.Outcome State Fault Refusal := done s (s.sccRun st run)

/-! ### Stall reset (R444) -/

/-- Registers of a stall block that a stall reset keeps: those R444 names, every IRQ_EN, the counters that never wrap, those from the tack
image, and the POISON bits, which belong to the STB contents. -/
def keptRegs : List Loc :=
  [Reg.SCC_RESET_PC, Reg.SCC_TEN_BASE, Reg.SCL_FILE, Reg.GPORT_WDOG, Reg.ATS_SIDE_BASE, Reg.HGU_LO, Reg.HGU_INVW, Reg.DMA_CH_CFG,
   Reg.STL_DQ_CTRL, Reg.NUM_IRQ_EN, Reg.DEC_IRQ_EN, Reg.MXE_IRQ_EN, Reg.VXE_IRQ_EN, Reg.ATS_IRQ_EN, Reg.TMB_IRQ_EN, Reg.DMA_CH_IRQ_EN,
   Reg.GPORT_MAP, Reg.SCC_INSN_CNT, Reg.MXE_ISSUE_CNT, Reg.MXE_ROW_CNT, Reg.VXE_ROW_CNT, Reg.ATS_SPAN_CNT, Reg.TMB_TOKEN_CNT,
   Reg.TMB_ROW_CNT, Reg.DMA_CH_BYTES, Reg.STB_POISON]

/-- A key of State.regs is one of a register's. -/
def Loc.holds (r : Loc) (u key : Nat) : Bool :=
  let b := r.base + r.unitStep * u
  decide (b ≤ key) && (if r.step = 0 then key == b else (key - b) % r.step == 0 && decide ((key - b) / r.step < r.count))

def stallBlock (st : Nat) : Nat := 0x300000 + 0x100000 * st

/-- The registers of a stall block at their reset values, but for those kept. -/
def State.resetRegs (s : State) (st : Nat) : State :=
  let mode := s.fld Reg.HGU_CTRL_MODE st
  let info := putBits (s.rd Reg.STL_INFO st) 10 10 0
  let inBlock (k : Nat) : Bool := decide (stallBlock st ≤ k) && decide (k < stallBlock (st + 1))
  let t := { s with regs := s.regs.filter fun e => !inBlock e.1 || keptRegs.any fun r => r.holds st e.1 }
  ((t.wr Reg.STL_INFO info st).setFld Reg.HGU_CTRL_MODE mode st).setFld Reg.GPORT_STATUS_STARTUP (if s.startup then 1 else 0) st

/-- The groom positions of a stall's port. -/
def State.positionsOf (s : State) (st : Nat) : List Nat :=
  (List.range 32).flatMap fun k => match s.slotChan st k with | some q => (List.range 8).map fun g => 8 * q + g | none => []

/-- Flits of a position that are still on their way are lost. -/
def State.dropFlits (s : State) (p : Nat) : State :=
  { s with
    chain := s.chain.filter fun f => f.ctx != p
    xnode := s.xnode.foldl (fun m e => SMap.set m [] e.1 (e.2.filter fun f => f.ctx != p)) s.xnode }

/-- A groom position that stops: no sequence, none waiting, its flits gone. -/
def State.stopGroom (s : State) (p : Nat) : State :=
  let t := (s.putCtx p {}).dropFlits p
  match t.hostOf p with
  | none => t
  | some n => t.putGroom n { t.groom n with run := none, rx := [], recvDone := 0, gmul := none, sat := 0, nan := 0 }

/-- GRM_STATUS of a position that runs nothing and holds no GO. -/
def State.groomIdle (s : State) (p : Nat) : State :=
  ((s.setFld Reg.GRM_STATUS_BUSY 0 p).setFld Reg.GRM_STATUS_PENDING 0 p).setFlag Reg.GRM_STATUS_READY p

/-- A groom at the reset of its stall: stopped, its table store empty (R78, R151, R153), its command register area at the reset values
(R444). -/
def State.resetGroom (s : State) (p : Nat) : State :=
  let lo := Reg.GRM_CTRL.key p 0
  let t := { s with regs := dropSpan s.regs lo (lo + 0x100) }.stopGroom p
  match t.hostOf p with
  | none => t
  | some n => t.putGroom n { t.groom n with tables := [] }

/-- A line read or written by a DMA channel of the stall that no queue has accepted yet. -/
def MemReq.readOf (r : MemReq) (st : Nat) : Bool := r.owner / 8 == st && r.data.isNone

/-- A stall reset, STB contents, IMEM, DMEM and the scale file kept (R444). Writes that a channel queue has accepted stay there (R253).
R104 sets every accumulator element to +0 and also speaks of partly written elements of an abandoned instruction that keep their value: all
are +0 here (notes/assumptions/70.md). -/
def State.resetStall (s : State) (st : Nat) : State :=
  let gone := (List.range 8).flatMap fun c => (s.dmaOf st c).flights
  let t := (s.positionsOf st).foldl (fun u p => u.resetGroom p) s
  let t := t.resetRegs st
  let t := { t with
    acc := dropSpan t.acc (accKey st 0 0 0) (accKey (st + 1) 0 0 0),
    wregs := dropSpan t.wregs (2 * st) (2 * (st + 1)),
    treg := dropSpan t.treg (tregKey st 0 0 0) (tregKey (st + 1) 0 0 0),
    tregPoison := dropSpan t.tregPoison (tregTagKey st 0 0) (tregTagKey (st + 1) 0 0),
    seg := SMap.erase t.seg st,
    tabAt := SMap.erase (SMap.erase t.tabAt (2 * st)) (2 * st + 1),
    tables := dropSpan t.tables (1024 * st) (1024 * (st + 1)),
    dma := dropSpan t.dma (8 * st) (8 * (st + 1)),
    shorts := SMap.erase t.shorts st,
    stepMsgs := SMap.erase t.stepMsgs st,
    dqTail := SMap.erase t.dqTail st,
    chans := t.chans.map fun (x : Nat × ChanCtl) => (x.1, { x.2 with queue := x.2.queue.filter fun r => !r.readOf st }),
    lpQueue := t.lpQueue.map fun (x : Nat × List MemReq) => (x.1, x.2.filter fun r => !r.readOf st) }
  ((t.putDsp st {}).putScc st {}).invSettle gone

/-- Table stores, microprogram stores and groom scale files of a stall emptied (R78, R151, R437). -/
def State.emptyStores (s : State) (st : Nat) : State :=
  let t := { s with tables := dropSpan s.tables (1024 * st) (1024 * (st + 1)) }
  let t := (List.range 32).foldl (fun u w => u.clr Reg.TBL_VALID st w) t
  (t.positionsOf st).foldl (fun u p =>
    match u.hostOf p with
    | none => u
    | some n =>
      let u := u.putBytes (grmProgKey n 0) (List.replicate 0x4000 0)
      u.putGroom n { u.groom n with codeLen := 0, entries := [], tables := [], scale := [] }) t

/-! ### Paddock reset (R445) -/

/-- A paddock reset begins: the hinge stops, every stall is reset, the step in progress is abandoned and marked for replay. One asked for
while one is in progress has no further effect. A reset lead breaks its group. -/
def State.paddockReset (s : State) (p : Nat) : State :=
  let k := s.pdkOf p
  if !s.pdkOn p || k.resetTb.isSome then s
  else
    let l := s.pdkStalls p
    let t := (l.foldl (fun u st => u.resetStall st) s).dropStepRecs p
    let n := if k.running then k.resets + 1 else 0
    let t := t.putPdk p { t.pdkOf p with
      plan := none, cmds := (match k.plan with | some x => x.cmds | none => []) ++ k.cmds, ended := [], res := [], rounds := [],
      waitFrom := none, waited := false, parts := [],
      replay := k.running, abandon := k.running, resets := n, resetTb := some s.tb }
    let t := (t.bump Reg.RESET_CAUSE_PDK_RESETS 1).setFld Reg.PDK_STATUS_WAIT_HOST 0 0 p
    let t := l.foldl (fun u st => u.wr Reg.RESET_PEND (putBits (u.rd Reg.RESET_PEND) st st 1)) t
    let t := { t with atsFault := t.atsFault.filter fun x => !((t.slice p).contains x.1) }
    let t := if n ≥ 3 then t.stopPdk p 0x25 else t
    if t.groupSize p != 0 && t.groupRank p == 0 then t.breakGroup p else t
/-- PADDOCK_RESET. -/
def execPaddockReset (p : Paddock) (s : State) : Host.Outcome State Fault Refusal := done s (s.paddockReset p)

/-- PENDING_ENABLE of RESET_PEND follows what the paddocks hold. -/
def State.syncHeld (s : State) : State :=
  s.setFld Reg.RESET_PEND_PENDING_ENABLE (if s.pdks.any fun x => x.2.heldCmd != 0 then 1 else 0)

/-- RESET_CTRL.PADDOCK written: held while a paddock reset is in progress (R447). -/
def State.paddockResetAsk (s : State) (p : Nat) : State :=
  let k := s.pdkOf p
  if s.pdkOn p && k.resetTb.isSome then (s.putPdk p { k with heldCmd := if k.heldCmd = 0 then 1 else k.heldCmd }).syncHeld
  else s.paddockReset p

/-- A reset of one stall: of a stall in a paddock it is a reset of the paddock; a mapped-out stall accepts nothing (R443, R474). -/
def State.stallReset (s : State) (st : Nat) : State :=
  if !s.stallUp st then s
  else match s.paddockOf st with
    | some p => s.paddockReset p
    | none => s.resetStall st
/-- STALL_RESET. -/
def execStallReset (st : Stall) (s : State) : Host.Outcome State Fault Refusal := done s (s.stallReset st)

end Sys2Proof.Machine
end

