-- ==== Sys2Proof/Machine/Tack.lean ====
section
/-! DEFINITION. The tack image: its layout, its checks, map-out, and building, shrinking and ending paddocks (16_tack_image_and_boot.md
R423 to R437, R442; 07_placement_and_toolchain.md R191). -/
namespace Sys2Proof.Machine

/-! ### Layout (R423, R424) -/

/-- A section of an image. -/
structure TackSect where
  kind : Nat
  pdk : Nat
  id : Nat
  ver : Nat
  /-- Section header and body. -/
  signed : List Byte
  body : List Byte
  pubkey : List Byte
  sig : List Byte
deriving DecidableEq, Repr

/-- The section that a byte string begins with, and the bytes after it. -/
def parseSect (l : List Byte) : Option (TackSect × List Byte) :=
  let n := leAt l 4 4
  let kind := byteAt l 0
  if l.length < 256 || n % 64 != 0 || decide (l.length < 256 + n) then none
  else if !(1 ≤ kind && kind ≤ 3) || decide (byteAt l 1 > 15) || (kind != 3 && byteAt l 1 != 0) then none
  else if !allZero ((l.drop 2).take 2) || !allZero ((l.drop 24).take 40) then none
  else
    let rest := l.drop (64 + n)
    some ({ kind := kind, pdk := byteAt l 1, id := leAt l 8 8, ver := leAt l 16 8, signed := l.take (64 + n), body := (l.drop 64).take n,
            pubkey := rest.take 96, sig := (rest.drop 96).take 96 }, rest.drop 192)

def parseSects : Nat → List Byte → Option (List TackSect)
  | 0, l => if l = [] then some [] else none
  | n + 1, l =>
    match parseSect l with
    | none => none
    | some (x, r) => (parseSects n r).map (x :: ·)

structure TackImage where
  device : TackSect
  compat : TackSect
  paddocks : List TackSect
deriving DecidableEq, Repr

/-- Paddock sections in increasing paddock number. -/
def pdkRising : List TackSect → Bool
  | [] => true
  | x :: r => x.kind == 3 && (match r with | [] => true | y :: _ => decide (x.pdk < y.pdk)) && pdkRising r

/-- The fields of a DEVICE body (R427): its length, its zero bytes and the limits it states. -/
def deviceOk (b : List Byte) : Bool :=
  let x8 := byteAt b 0 == 1
  let zero (i n : Nat) : Bool := allZero ((b.drop i).take n)
  b.length == 70016 && decide (byteAt b 1 ≤ 1) && decide (byteAt b 5 ≤ 3) && zero 10 6 && zero 4448 32
    && decide (leAt b 8 2 ≤ (if x8 then 900 else 480))
    && ((List.range 256).all fun t => !bit (leAt b (352 + 16 * t + 4) 4) 31 && !bit (leAt b (352 + 16 * t + 8) 4) 31 && zero (352 + 16 * t + 12) 4)
    && (byteAt b 0 != 2 || (byteAt b 3 == 0 && zero 80 16 && zero 224 128))

/-- R423 and R424; an image whose DEVICE or COMPAT body breaks its layout fails with them (notes/assumptions/45.md). -/
def parseImage (l : List Byte) : Option TackImage :=
  let len := leAt l 8 4
  let nsect := byteAt l 6
  if leAt l 0 4 != 0x4B434154 || leAt l 4 2 != 1 || decide (nsect < 2) || decide (nsect > 18) || byteAt l 7 != 0 || len % 64 != 0
      || decide (len > 2 ^ 24) || decide (l.length < len) || !allZero ((l.drop 12).take 52) then none
  else
    match parseSects nsect ((l.take len).drop 64) with
    | some (d :: c :: ps) =>
      if d.kind == 1 && c.kind == 2 && pdkRising ps && deviceOk d.body && c.body.length == 64 && allZero (c.body.drop 20)
          && (byteAt d.body 0 != 2 || decide (ps.length ≤ 8)) then some ⟨d, c, ps⟩
      else none
    | _ => none

/-! ### Authenticity (R425, R426) -/

def TackSect.authentic (x : TackSect) (keyHash : List Byte) : Bool :=
  !allZero keyHash && sha384 x.pubkey == keyHash && ecdsaValid x.pubkey x.sig x.signed

def TackImage.authentic (m : TackImage) (keyHash : List Byte) : Bool :=
  (m.device :: m.compat :: m.paddocks).all fun x => x.authentic keyHash && x.id == m.device.id

/-! ### Device stage (R427, R429) -/

def State.sku (s : State) : Nat := if s.part.x8 then 1 else 2
/-- The rows of the built-in table for the firmware and microcode in force. -/
def State.fwRows (s : State) : List (Nat × Nat × Nat × Nat) :=
  s.fwTable.filter fun r => r.1 == s.fld Reg.TACK_COMPAT_FW && r.2.1 == s.fld Reg.TACK_COMPAT_UC

/-- Cause of maintenance mode that an image leads to: 3 SKU, 4 COMPAT_RANGE, 5 UNTESTED, 0 none. -/
def State.deviceStage (s : State) (m : TackImage) : Nat :=
  let c := m.compat.body
  let fw := s.fld Reg.TACK_COMPAT_FW
  let uc := s.fld Reg.TACK_COMPAT_UC
  if byteAt m.device.body 0 ≠ s.sku then 3
  else if fw < leAt c 0 4 || fw > leAt c 4 4 || uc < leAt c 8 4 || uc > leAt c 12 4 then 4
  else if s.fwRows = [] then 5
  else 0

/-! ### Map-out (R428, R442, R459) -/

/-- The resources marked for map-out: the flash list, the marks that a sag keeps from it (R458), the failures of this boot. -/
def State.mapMarks (s : State) : List (Nat × Nat) := s.mapList ++ s.mapRetry ++ s.board.bootBad
def State.listed (s : State) (kind i : Nat) : Bool := s.mapMarks.contains (kind, i)
def State.outStall (s : State) (d : List Byte) (st : Nat) : Bool := bit (leAt d 2 2) st || s.listed 1 st
def State.outChan (s : State) (d : List Byte) (q : Nat) : Bool := bit (byteAt d (64 + q / 8)) (q % 8) || s.listed 2 q
def State.outGroom (s : State) (d : List Byte) (n : Nat) : Bool := bit (byteAt d (96 + n / 8)) (n % 8) || s.listed 3 n
def State.outHalf (s : State) (d : List Byte) (h : Nat) : Bool :=
  bit (byteAt d 5) h || s.mapMarks.any fun x => x.1 == 4 && x.2 / 32 == h

/-- The stall beneath a channel (R21). -/
def beneath (q : Nat) : Nat := q / 16
/-- Healthy near channels of a stall. -/
def healthyNear (out : Nat → Bool) (st : Nat) : Nat := ((List.range 16).filter fun i => !out (16 * st + i)).length

/-- The minimum service set holds under a DEVICE section (R442). -/
def State.minSet (s : State) (d : List Byte) : Bool :=
  (List.range s.nStall).any fun st => !s.outStall d st && decide (healthyNear (s.outChan d) st ≥ 8)

/-- A tack load that covers a stall: it is mapped out or not, and its count starts again. -/
def State.coverStall (s : State) (st : Nat) : State :=
  let o := if s.outStall s.tackDevice st then 1 else 0
  let t := (s.wr Reg.MAP_STALL (putBits (s.rd Reg.MAP_STALL) st st o)).setFld Reg.STL_INFO_MAPPED_OUT o st
  let t := { t with board := { t.board with fatals := t.board.fatals.filter fun x => x.1 != st } }
  (t.wr Reg.MON_STALL_DMG 0 0 st).wr Reg.MAPREQ_STALL (putBits (t.rd Reg.MAPREQ_STALL) st st 0)

/-- A tack load that covers a channel and its grooms. A channel mapped out takes no refresh any more, and its grooms stop (R212). -/
def State.coverChan (s : State) (q : Nat) : State :=
  let o := if s.outChan s.tackDevice q then 1 else 0
  let s := if o = 0 then s else
    ((List.range 8).foldl (fun u g => (u.stopGroom (8 * q + g)).groomIdle (8 * q + g)) s).setFld Reg.CH_STATUS_OWED 0 0 q
  let t := s.wr Reg.MAP_CHANNEL (putBits (s.rd Reg.MAP_CHANNEL 0 (q / 32)) (q % 32) (q % 32) o) 0 (q / 32)
  let t := (t.setFld Reg.CH_STATUS_MAPPED_OUT o 0 q).setFld Reg.CH_STATUS_MAPOUT_REQ 0 0 q
  let t := ((t.wr Reg.CH_CE_CNT 0 0 q).wr Reg.CH_UE_CNT 0 0 q).wr Reg.MON_CH_DMG 0 0 q
  (List.range 8).foldl (fun u g =>
    let n := 8 * q + g
    let u := u.wr Reg.MAP_GROOM (putBits (u.rd Reg.MAP_GROOM 0 (n / 32)) (n % 32) (n % 32) (if s.outGroom s.tackDevice n then 1 else 0)) 0 (n / 32)
    (u.wr Reg.MAPREQ_GROOM (putBits (u.rd Reg.MAPREQ_GROOM 0 (n / 32)) (n % 32) (n % 32) 0) 0 (n / 32)).wr Reg.MON_GRM_FAIL 0 0 n) t

/-- NCH and P0 of the tier that is in force; none where it is absent. -/
def State.tierShape (s : State) : Option (Nat × Nat) := if s.lpNch = 0 then none else some (s.lpNch, s.lpFirst)

/-- The tier: on the X8 the halves without a marked package; on the S4 all or nothing (R223). Its contents stay, with the check symbols made for the lines of
the tier as it was (R218, R444). -/
def State.coverTier (s : State) : State :=
  let out (h : Nat) : Bool := s.outHalf s.tackDevice h
  let halves := if s.part.x8 then b2n (!out 0) 0 + b2n (!out 1) 1 else if out 0 || out 1 then 0 else 1
  let nch := if halves = 3 then 64 else if halves = 0 then 0 else 32
  let t := ((s.setFld Reg.MEM_LP_CFG_HALVES halves).setFld Reg.MEM_LP_CFG_NCH nch).setFld Reg.MAPREQ_LP_REQ 0
  let was := s.tierWas.or s.tierShape
  let t := { t with tierWas := if was = t.tierShape then none else was }
  (List.range (if s.part.x8 then 64 else 32)).foldl (fun u p =>
    ((u.setFld Reg.LP_STATUS_MAPPED_OUT (if bit halves (p / 32) then 0 else 1) 0 p).wr Reg.LP_CE_CNT 0 0 p).wr Reg.LP_UE_CNT 0 0 p) t

/-! ### PADDOCK sections (R431) -/

/-- A slot of a section's slot map: stall, slot, channel, FAR, and its granule codes. -/
structure SlotUse where
  st : Nat
  slot : Nat
  q : Nat
  far : Bool
  gran : List Byte

def sectStalls (b : List Byte) : List Nat := (List.range 16).filter fun st => bit (leAt b 2 2) st
/-- The words of the slot maps: stall, slot, word. -/
def sectWords (b : List Byte) : List (Nat × Nat × Nat) :=
  (sectStalls b).zipIdx.flatMap fun x => (List.range 32).map fun k => (x.1, k, leAt b (512 + 128 * x.2 + 4 * k) 4)
def sectSlots (b : List Byte) : List SlotUse :=
  let first := 512 + 128 * (sectStalls b).length
  ((sectWords b).filter fun x => bit x.2.2 31).zipIdx.map fun x =>
    { st := x.1.1, slot := x.1.2.1, q := bits x.1.2.2 7 0, far := bit x.1.2.2 8, gran := (b.drop (first + 192 * x.2)).take 192 }
def SlotUse.code (u : SlotUse) (g : Nat) : Nat := bits (byteAt u.gran (g / 4)) (2 * (g % 4) + 1) (2 * (g % 4))

/-- Neighbours on a stall ring of `n`. -/
def ringNear (n a b : Nat) : Bool := (a + 1) % n == b || (b + 1) % n == a

/-- The scratch state in which a section's own fields are read by the accessors of the paddock in force. -/
def State.asIf (s : State) (p : Nat) (b : List Byte) : State := { s with tackPdk := SMap.set s.tackPdk [] p b }

/-- FIELD of R433. -/
def State.fieldsOk (s : State) (p : Nat) (b : List Byte) : Bool :=
  let v := s.asIf p b
  let zero (i n : Nat) : Bool := allZero ((b.drop i).take n)
  let stalls := sectStalls b
  let n := stalls.length
  let nslot := ((sectWords b).filter fun x => bit x.2.2 31).length
  let used := 512 + 128 * n + 192 * nslot
  let mask := leAt b 2 2
  byteAt b 0 == p && byteAt b 1 == n && decide (1 ≤ n) && stalls.all (fun st => decide (st < s.nStall))
    && decide (leAt b 4 2 < 8192) && decide (1 ≤ leAt b 6 2) && decide (leAt b 6 2 ≤ 8192) && decide (leAt b 4 2 + leAt b 6 2 ≤ 8192)
    && bits (leAt b 8 8) 5 1 == 0 && bits (leAt b 8 8) 63 48 == 0
    && byteAt b 19 == 0 && byteAt b 23 == 0 && bits (leAt b 24 8) 15 0 == 0 && bits (leAt b 24 8) 63 48 == 0
    && decide (leAt b 32 2 ≤ 256) && decide (byteAt b 34 < 32) && decide (bits (byteAt b 34) 3 2 < v.nRoleset p) && decide (byteAt b 35 ≤ 15)
    && decide (64 ≤ leAt b 36 2) && decide (leAt b 36 2 ≤ 4096) && leAt b 36 2 % 64 == 0
    && decide (1 ≤ leAt b 44 2) && decide (leAt b 44 2 ≤ 256) && zero 46 2 && zero 80 48
    && ((List.range (v.nRoleset p)).all fun r =>
      let x := v.roleset p r
      (leAt x 0 2 &&& mask) == leAt x 0 2 && decide (1 ≤ byteAt x 2) && decide (byteAt x 2 ≤ 8) && decide (1 ≤ byteAt x 3) && allZero ((x.drop 12).take 4))
    && (byteAt b 258 == 0 || (decide (2 ≤ byteAt b 258) && decide (byteAt b 258 ≤ 64)))
    && (byteAt b 260 == 0 || (decide (2 ≤ byteAt b 260) && decide (byteAt b 260 ≤ 200)))
    && decide (byteAt b 259 < 64) && decide (byteAt b 261 ≤ 16) && zero 262 2 && zero 296 88
    && b.length == (used + 63) / 64 * 64 && allZero (b.drop used)
    && (sectWords b).all fun x =>
      bits x.2.2 30 9 == 0 && (!bit x.2.2 31 ||
        (decide (bits x.2.2 7 0 < s.nChan) &&
          (if x.2.1 < 16 then !bit x.2.2 8 && beneath (bits x.2.2 7 0) == x.1
           else bit x.2.2 8 && ringNear s.nStall x.1 (beneath (bits x.2.2 7 0)))))

def noRepeat (l : List Nat) : Bool := l.eraseDups.length == l.length

/-- Two spans of whole lines name a common place, whichever views name them (R187). -/
def State.sharePlace (s : State) (v : Bool) (a n : Nat) (w : Bool) (b m : Nat) : Bool :=
  if v == w then spansMeet a n b m
  else (List.range ((n + 63) / 64)).any fun i =>
    match s.inView v (a + 64 * i) w with | some x => decide (b ≤ x) && decide (x < b + m) | none => false

/-- OVERLAP of R433: something that another paddock in force holds, or a channel in two slots. -/
def State.overlaps (s : State) (p : Nat) (b : List Byte) : Bool :=
  let v := s.asIf p b
  let chans := (sectSlots b).map (·.q)
  let t := v.tableRegion p
  !noRepeat chans ||
  (List.range 16).any fun o =>
    o != p && s.pdkOn o &&
      (let c := s.sect o
       let u := s.tableRegion o
       (sectStalls b).any (fun st => (sectStalls c).contains st) || chans.any (fun q => ((sectSlots c).map (·.q)).contains q)
        || spansMeet (v.ldgBase p) (v.ldgCount p) (s.ldgBase o) (s.ldgCount o)
        || s.sharePlace t.2.1 t.1 t.2.2 u.2.1 u.1 u.2.2
        || spansMeet (leAt b 24 8) (65536 * leAt b 20 3) (leAt c 24 8) (65536 * leAt c 20 3)
        || (v.importSources p).any (fun d => (s.importSources o).contains d))

/-- BANDS of R433 (R192). -/
def bandsOk (l : List Nat) : Bool :=
  match l with
  | [] => false
  | a :: r => decide (1 ≤ a) && decide (a ≤ 1024) && (match r with | [] => true | b :: _ => decide (a < b) && bandsOk r)

/-- The pages that slots give, in ring order of the stalls, then slot, granule and address (R432). -/
def pagesOf (live : List Nat) (slots : List SlotUse) : List PoolPage :=
  let has (h g : Nat) : Bool :=
    live.contains h && (List.range 16).all fun i => slots.any fun u => u.st == h && !u.far && u.q == 16 * h + i && u.code g == 2
  live.zipIdx.flatMap fun x =>
    ((slots.filter fun u => u.st == x.1).flatMap fun u =>
      (List.range 768).flatMap fun g =>
        let c := g * 2 ^ 21
        if u.code g < 2 then []
        else if u.code g = 2 && has (beneath u.q) g then
          (if u.q % 16 = 0 then (List.range 512).map fun j => ⟨x.2, true, u.q, c + 4096 * j⟩ else [])
        else (List.range 32).map fun j => ⟨x.2, false, u.q, c + 65536 * j⟩)

/-- POOL of R433. -/
def State.poolOk (s : State) (b : List Byte) : Bool :=
  let base := leAt b 24 8
  (pagesOf (sectStalls b) (sectSlots b)).length == leAt b 16 3 &&
    (s.lpNch == 0 || leAt b 20 3 == 0 ||
      (decide (tierLine ≤ base) && decide (base + 65536 * leAt b 20 3 ≤ tierLine + s.tierBytes)))

/-- Paddock stage of R429. -/
def State.abiOk (s : State) (b : List Byte) : Bool :=
  let lo := leAt b 40 2
  let hi := leAt b 42 2
  decide (lo ≤ hi) && decide (leAt s.tackCompat 16 2 ≤ lo) && decide (hi ≤ leAt s.tackCompat 18 2)
    && s.fwRows.any fun r => decide (r.2.2.1 ≤ lo) && decide (hi ≤ r.2.2.2)

/-! ### Shrinking (R434) -/

/-- Stalls in the order s + 1, s − 1, s + 2, s − 2 and so on around the ring. -/
def ringOrder (n st : Nat) : List Nat :=
  (List.range n).flatMap fun i => [(st + i + 1) % n, (st + n - (i + 1) % n) % n]

/-- The stall and slot that a slot's channel passes to. -/
def passTo (n : Nat) (live : List Nat) (taken : List (Nat × Nat)) (st q : Nat) : Option (Nat × Nat) :=
  ((ringOrder n st).filter fun x => live.contains x && (x == beneath q || ringNear n x (beneath q))).findSome? fun x =>
    (((List.range 16).map (16 + ·)).find? fun k => !taken.contains (x, k)).map fun k => (x, k)

/-- The slots of lost stalls passed on, one at a time. -/
def passSlots (n : Nat) (live : List Nat) : List SlotUse → List SlotUse → Option (List SlotUse)
  | [], keep => some keep
  | u :: r, keep =>
    match passTo n live (keep.map fun x => (x.st, x.slot)) u.st u.q with
    | none => none
    | some (st, k) => passSlots n live r (keep ++ [{ u with st := st, slot := k, far := true }])

/-- Live stalls of a section and its slots after the shrink at load; none where a slot cannot be placed. -/
def State.shrunk (s : State) (b : List Byte) : Option (List Nat × List SlotUse) :=
  let live := (sectStalls b).filter fun st => s.stallUp st && !(s.mapList ++ s.mapRetry).contains (1, st)
  let all := sectSlots b
  (passSlots s.nStall live (all.filter fun u => !live.contains u.st) (all.filter fun u => live.contains u.st)).map fun l => (live, l)

/-- GROOM_LOSS of R178. -/
def State.groomLoss (s : State) (slots : List SlotUse) : Bool :=
  slots.any fun u => s.chanUp u.q && ((List.range 768).any fun g => u.code g == 1 || u.code g == 3)
    && (List.range 8).all fun g => s.groomOut (8 * u.q + g)

/-- GROUP of R433. -/
def State.groupOk (s : State) (p : Nat) (b : List Byte) : Bool :=
  let v := s.asIf p b
  let g := v.groupSize p
  noRepeat (v.importSources p) &&
    (g == 0 || (decide (2 ≤ g) && decide (g ≤ 64) && decide (v.groupRank p < g) && noRepeat ((List.range g).map fun r => v.groupDid p r)
      && v.groupDid p (v.groupRank p) == s.did))

/-- The checks of R433 in their order: the cause of the first that fails, 0 where none does. -/
def State.sectCause (s : State) (x : TackSect) : Nat :=
  let b := x.body
  let p := x.pdk
  let v := s.asIf p b
  if !x.authentic s.board.keyHash then 1
  else if x.id ≠ s.rd Reg.TACK_IMAGE_ID then 2
  else if !s.fieldsOk p b then 3
  else if s.overlaps p b then 4
  else if (List.range (v.nRoleset p)).any fun r => !bandsOk (v.bandHi p r) then 5
  else if !s.poolOk b then 6
  else if !s.abiOk b then 7
  else match s.shrunk b with
    | none => 8
    | some (live, slots) =>
      if s.groomLoss slots then 9
      else if !live.any fun st => decide (healthyNear (fun q => !s.chanUp q) st ≥ 8) then 10
      else if !s.groupOk p b then 11
      else if s.pdkOn p && !s.allFree p then 12
      else 0

/-! ### Granules (R191) -/

def codeOpen (c : Nat) : Bool := c == 1 || c == 3

/-- A granule takes a code: opened, the data bytes keep what their cells hold; protected, it is zeros with valid check symbols. -/
def State.setGranule (s : State) (q g code : Nat) : State :=
  let old := SMap.get s.granules 0 (768 * q + g)
  let lo := dramKey q (g * 2 ^ 21)
  let t := { s with granules := SMap.set s.granules 0 (768 * q + g) code }
  if codeOpen old = codeOpen code then t
  else if codeOpen code then { t with checks := dropSpan t.checks lo (lo + 2 ^ 21) }
  else { t with mem := dropSpan t.mem lo (lo + 2 ^ 21), checks := dropSpan t.checks lo (lo + 2 ^ 21) }

def State.setGranules (s : State) (q : Nat) (code : Nat → Nat) : State := (List.range 768).foldl (fun u g => u.setGranule q g (code g)) s

/-! ### Slot maps (R21, R176, R181, R212) -/

/-- The word of a slot: VALID 0 for a mapped-out channel; ADOPTED names the mapped-out grooms that have an adopter. -/
def State.slotWord (s : State) (q : Nat) (far : Bool) : Nat :=
  let out := ((List.range 8).map fun g => b2n (s.groomOut (8 * q + g)) g).sum
  if s.chanUp q then q + b2n far 8 + (if out = 255 then 0 else out) * 2 ^ 9 + 2 ^ 31 else 0

/-- The slots of a stall. -/
def State.putSlots (s : State) (st : Nat) (l : List (Nat × Nat × Bool)) : State :=
  l.foldl (fun u x => u.wr Reg.GPORT_MAP (u.slotWord x.2.1 x.2.2) st x.1)
    ((List.range 32).foldl (fun u k => u.wr Reg.GPORT_MAP 0 st k) s)

/-- Channels that paddocks in force hold. -/
def State.heldChans (s : State) : List Nat := (List.range 16).flatMap fun p => if s.pdkOn p then (sectSlots (s.sect p)).map (·.q) else []

/-- The near slots of a stall that its paddock's slot map leaves free. -/
def State.nearFree (s : State) (p st : Nat) : List Nat :=
  let used := (sectSlots (s.sect p)).filter fun u => u.st == st
  (List.range 16).filter fun k => !used.any fun u => u.slot == k

/-- A near channel that no slot map assigns belongs to the stall beneath it (R21, R22): a stall in no paddock shows it in the slot of its
number, one in a paddock in the free near slots in order (notes/assumptions/65.md); a mapped-out stall shows nothing (R16). Granules of the
channels no paddock holds are protected (R432). -/
def State.freeStalls (s : State) : State :=
  let held := s.heldChans
  let t := (List.range s.nStall).foldl (fun u st =>
    let near := (List.range 16).filter fun i => !held.contains (16 * st + i)
    if !u.stallUp st then u.putSlots st []
    else match u.paddockOf st with
      | none => u.putSlots st (near.map fun i => (i, 16 * st + i, false))
      | some p => ((u.nearFree p st).zip near).foldl (fun v x => v.wr Reg.GPORT_MAP (v.slotWord (16 * st + x.2) false) st x.1) u) s
  (List.range s.nChan).foldl (fun u q => if held.contains q then u else u.setGranules q fun _ => 0) t

/-! ### Building and ending a paddock (R431, R432, R437) -/

/-- Registers of a paddock that a load or an end sets; its counters stay. -/
def State.pdkRegs (s : State) (p : Nat) : State :=
  let t := (s.wr Reg.PDK_CTRL 0 0 p).wr Reg.PDK_STATUS (s.rd Reg.PDK_STATUS 0 p &&& 2 ^ 11) 0 p
  let t := ((t.wr Reg.PDK_PG 0 0 p).wr Reg.PDK_TIER 0 0 p).wr Reg.PDK_PG_TOTAL 0 0 p
  let t := ((t.wr Reg.PDK_TIER_TOTAL 0 0 p).wr Reg.COLL_EPOCH 0 0 p).setFld Reg.COLL_STATUS_BROKEN 0 0 p
  t.wr Reg.PDK_TACK 0 0 p

/-- The paddock ceases: its stalls leave it. -/
def State.endPdk (s : State) (p : Nat) : State :=
  let t := (s.pdkStalls p).foldl (fun u st => (u.setFld Reg.STL_INFO_IN_PDK 0 st).setFld Reg.STL_INFO_ROLE 0 st) s
  ({ t with tackPdk := SMap.erase t.tackPdk p, pdks := SMap.erase t.pdks p }).pdkRegs p

/-- A paddock comes into force. Where its side table lies is not in the image: a free value, the same on every stall (R281). -/
def State.buildPdk (s : State) (x : TackSect) (live : List Nat) (slots : List SlotUse) : State :=
  let p := x.pdk
  let b := x.body
  let t := s.pdkRegs p
  let side := t.freeVal.toNat % 2 ^ 48
  let t := { t.tick with tackPdk := SMap.set t.tackPdk [] p b, pdks := SMap.set t.pdks {} p { pool := pagesOf live slots } }
  let t := live.foldl (fun u st =>
    let u := ((u.setFld Reg.STL_INFO_PADDOCK p st).setFld Reg.STL_INFO_IN_PDK 1 st).setFld Reg.STL_INFO_ROLE 0 st
    let u := u.wr Reg.ATS_SIDE_BASE (side / 64 * 64 + side % 2) st
    u.putSlots st ((slots.filter fun y => y.st == st).map fun y => (y.slot, y.q, y.far))) t
  let t := slots.foldl (fun u y => u.setGranules y.q y.code) t
  let role := bits (byteAt b 34) 3 2
  let t := (t.setFld Reg.PDK_CTRL_BAL_EN (bits (byteAt b 34) 4 4) 0 p).setFld Reg.PDK_CTRL_ROLESET role 0 p
  let t := (t.setFld Reg.PDK_STATUS_STATE 1 0 p).setFld Reg.PDK_STATUS_ROLESET role 0 p
  let t := (t.wr Reg.PDK_PG_TOTAL (t.pgTotal p) 0 p).wr Reg.PDK_TIER_TOTAL (t.tierTotal p) 0 p
  let t := (t.setFld Reg.PDK_PG_FREE (t.pgTotal p) 0 p).setFld Reg.PDK_TIER_FREE (t.tierTotal p) 0 p
  let t := (t.setFld Reg.PDK_TACK_SHRUNK (if live.length < (sectStalls b).length then 1 else 0) 0 p).setFld Reg.PDK_TACK_SECT_VER x.ver 0 p
  if t.flag Reg.THERM_STATUS_TRIP then t.stopPdk p 0x26 else t

/-- A section refused: its cause recorded; STATE 4 where no paddock of that number is in force, which is otherwise left as it is. -/
def State.refusePdk (s : State) (p cause : Nat) : State :=
  let t := s.setFld Reg.PDK_TACK_CAUSE cause 0 p
  (if s.pdkOn p then t else t.setFld Reg.PDK_STATUS_STATE 4 0 p).fault 0x0F 6 p cause

/-- A section is checked and, where it passes, built. -/
def State.loadSect (s : State) (x : TackSect) : State :=
  match s.sectCause x, s.shrunk x.body with
  | 0, some (live, slots) => s.buildPdk x live slots
  | c, _ => s.refusePdk x.pdk c

/-! ### Loading an image (R436) -/

def sumBits (n : Nat) (f : Nat → Bool) : Nat := ((List.range n).map fun i => b2n (f i) i).sum

/-- A tack load that covers every resource. -/
def State.coverAll (s : State) : State :=
  ((List.range s.nChan).foldl (fun u q => u.coverChan q) ((List.range s.nStall).foldl (fun u st => u.coverStall st) s)).coverTier

/-- The device's share of an image: map-out, tier, tenants, power limit, DID and ports (R427, R428); with no image in force, only the flash
list and the failures of this boot map out, and the limit is the largest of the SKU (notes/assumptions/46.md). -/
def State.applyDevice (s : State) (d compat : List Byte) : State :=
  let t := State.coverAll { s with tackDevice := d, tackCompat := compat }
  let t := (List.range 256).foldl (fun u k =>
    ((u.wr Reg.TNT_BUDGET (leAt d (352 + 16 * k) 4) 0 k).wr Reg.TNT_REFILL (leAt d (356 + 16 * k) 4) 0 k).wr Reg.TNT_CAP (leAt d (360 + 16 * k) 4) 0 k) t
  let lim := if d = [] then (if s.part.x8 then 900 else 480) else leAt d 8 2
  let t := { t.setFld Reg.PWR_CTRL_LIMIT lim with board := { t.board with pwrLimit := lim } }
  let t := t.setFld Reg.DRT_ID_DID (leAt d 6 2)
  -- every port starts afresh: an enabled one trains (R393); DOWN_EV is sticky (R449), PEER_DID what the peer last reported
  let t := { t with ports := [] }
  (List.range 8).foldl (fun u k =>
    let u := (u.wr Reg.DRT_PORT_STATUS (u.rd Reg.DRT_PORT_STATUS 0 k &&& 0xFFFF0008) 0 k).clr Reg.DRT_PORT_CE 0 k
    let u := u.clr Reg.DRT_PORT_CRED 0 k
    if u.board.refDrt && bit (byteAt d 4) k then u.setFld Reg.DRT_PORT_STATUS_STATE pTraining 0 k else u) t

/-- Every paddock ends, its stalls reset and their stores emptied. -/
def State.dropPdks (s : State) : State :=
  (List.range 16).foldl (fun u p =>
    if u.pdkOn p then (((u.pdkStalls p).foldl (fun v st => (v.emptyStores st).resetStall st) u).endPdk p) else u.wr Reg.PDK_TACK 0 0 p) s

/-- The device's mode: TACK_STATUS and the start-up mode of every stall. -/
def State.setMode (s : State) (state cause src : Nat) : State :=
  let t := ((s.setFld Reg.TACK_STATUS_STATE state).setFld Reg.TACK_STATUS_MAINT_CAUSE cause).setFld Reg.TACK_STATUS_SRC src
  (List.range 16).foldl (fun u st => u.setFld Reg.GPORT_STATUS_STARTUP (if state = 2 then 0 else 1) st) t

/-- The end of a tack load. -/
def State.loadEnd (s : State) (state cause src : Nat) : State :=
  ((s.setMode state cause src).setFld Reg.BOOT_STATUS_PHASE 6).freeStalls

/-- A tack load of an image that passes every check. -/
def State.applyImage (s : State) (m : TackImage) (src : Nat) : State :=
  let t := (s.dropPdks.applyDevice m.device.body m.compat.body).wr Reg.TACK_IMAGE_ID m.device.id
  let t := (t.setMode 2 0 src).wr Reg.BOOT_MS (t.tb.toNat / 1000000)
  (m.paddocks.foldl (fun u x => u.loadSect x) t).loadEnd 2 0 src

/-- Maintenance mode: no paddock, every port DOWN (R430). `m`: the image whose DEVICE and COMPAT sections are in force, where one is. -/
def State.applyMaint (s : State) (m : Option TackImage) (cause src : Nat) : State :=
  let t := match m with
    | some m => (s.dropPdks.applyDevice m.device.body m.compat.body).wr Reg.TACK_IMAGE_ID m.device.id
    | none => (s.dropPdks.applyDevice [] []).wr Reg.TACK_IMAGE_ID 0
  let t := (List.range 8).foldl (fun u k => u.setFld Reg.DRT_PORT_STATUS_STATE pDown 0 k) t
  t.loadEnd 3 cause src

/-! ### A stall lost in service (R435) -/

/-- The slots of a paddock in force. -/
def State.slotsNow (s : State) (p : Nat) : List SlotUse :=
  (s.pdkStalls p).flatMap fun st => (List.range 32).filterMap fun k =>
    (s.slotChan st k).map fun q => { st := st, slot := k, q := q, far := s.flag Reg.GPORT_MAP_FAR st k, gran := [] }

/-- The stall is entered in the flash map-out list; event 0x08 names paddock `p`. -/
def State.stallListed (s : State) (p st : Nat) : State :=
  let t := if s.sagNow then { s with mapRetry := s.mapRetry ++ [(1, st)] }
    else { s with mapList := if s.mapList.contains (1, st) then s.mapList else s.mapList ++ [(1, st)] }
  t.fault 0x08 1 st p

/-- A lost stall: entered in the list, its paddock shrunk at once; the step in progress is replayed. It counts as mapped out (MAP_STALL,
STL_INFO) from the next tack load (R428); a section loaded before that leaves it out too. -/
def State.stallLost (s : State) (p st : Nat) : State :=
  let t := s.stallListed p st
  let slots := t.slotsNow p
  let live := (t.pdkStalls p).filter (· != st)
  let t := (t.resetStall st).sccHalted st
  let t := (t.setFld Reg.STL_INFO_IN_PDK 0 st).setFld Reg.SCC_CTRL_RUN 0 st
  let k := t.pdkOf p
  let t := t.putPdk p { k with replay := k.running, abandon := k.running, ended := [], res := [], rounds := [] }
  let t := if k.running then t.dropStepRecs p else t
  match passSlots s.nStall live (slots.filter fun u => u.st == st) (slots.filter fun u => u.st != st) with
  | none => (t.setFlag Reg.PDK_TACK_SHRUNK 0 p).stopPdk p 0x24
  | some l =>
    let t := (live.foldl (fun u x => u.putSlots x ((l.filter fun y => y.st == x).map fun y => (y.slot, y.q, y.far))) t).freeStalls
    -- a page belongs to the pool of the stall whose slot holds its channel
    let k := t.pdkOf p
    let pos (q : Nat) : Nat := (live.findIdx? fun x => l.any fun y => y.q == q && y.st == x).getD 0
    let t := t.putPdk p { k with pool := k.pool.map fun (g : PoolPage) => { g with pos := pos g.q } }
    (t.setFlag Reg.PDK_TACK_SHRUNK 0 p).setFlag Reg.PDK_TACK_WAIT_SHRINK 0 p

/-! ### The quick self-test (R445) -/

/-- The load held behind a paddock reset is given to the tack commands by the row that ends the reset; see Machine/Boot.lean. -/
def State.selfTest (s : State) (p : Nat) (failed : Nat) : State :=
  let l := s.pdkStalls p
  let t := l.foldl (fun u st => u.wr Reg.RESET_PEND (putBits (u.rd Reg.RESET_PEND) st st 0)) s
  let t := t.putPdk p { t.pdkOf p with resetTb := none }
  let t := (l.filter fun st => bit failed st).foldl (fun u st => u.stallLost p st) t
  ((t.pdkStalls p).foldl (fun u st => u.sccRun st true) t).wantHinge p

end Sys2Proof.Machine
end

