-- ==== Sys2Proof/Machine/Boot.lean ====
section
/-! DEFINITION. Tack commands, flash, cold boot, device reset and power-down (16_tack_image_and_boot.md R426, R430, R435 to R447;
19_package_and_electrical.md R489, R490, R493). -/
namespace Sys2Proof.Machine

/-! ### Flash (R436, R438, R469) -/

/-- Flash offset and size of a slot of region 0 (firmware bundle) or 1 (tack image). -/
def slotBase (region slot : Nat) : Nat :=
  if region = 0 then (if slot = 0 then 0x10000 else 0xC10000) else if slot = 0 then 0x1810000 else 0x2810000
def slotSize (region : Nat) : Nat := if region = 0 then 0xC00000 else 0x1000000

/-- Bytes of the flash; how the directory and the list region hold their contents is not given: free values. -/
def State.flashByte (s : State) (o i : Nat) : Byte :=
  if o < 0x10000 || (0x3810000 ≤ o && o < 0x3910000) then (Config.freeValue (s.free + i)).setWidth 8 else s.byte (flashKey o)

/-- The directory in force: the copy with the higher sequence number. -/
def State.dir (s : State) : DirCopy := if s.board.dirB.seq > s.board.dirA.seq then s.board.dirB else s.board.dirA

/-- A write of the directory rewrites the older copy, with the next sequence number (R438). -/
def State.putDir (s : State) (d : DirCopy) : State :=
  let d := { d with seq := s.dir.seq + 1 }
  { s with board := if s.board.dirB.seq > s.board.dirA.seq then { s.board with dirA := d } else { s.board with dirB := d } }

/-- The slot erased and written. -/
def State.flashSlot (s : State) (region slot : Nat) (l : List Byte) : State :=
  let lo := flashKey (slotBase region slot)
  State.putBytes { s with mem := dropSpan s.mem lo (lo + slotSize region) } lo l

/-! ### Tack commands (R426, R436) -/

/-- The firmware or the boot ROM runs. -/
def State.booted (s : State) : Bool := !s.board.cold && !s.board.bootDue

/-- DEV_ID as the fuses give it (R4). -/
def State.devId (s : State) : Nat := 0x71010000 + (if s.part.x8 then 0x1000 else 0x2000) + (if s.part.b0 then 0x100 else 0)

def State.tackDone (s : State) : State := s.setFlag Reg.TACK_CMD_STATUS_CMD_DONE
def State.tackFail (s : State) (cause : Nat) : State :=
  (s.setFlag Reg.TACK_CMD_STATUS_CMD_ERR).setFld Reg.TACK_CMD_STATUS_CMD_CAUSE cause

def State.stageView (s : State) : Bool := s.flag Reg.TACK_STAGE_VIEW
def State.stageAddr (s : State) : Nat := 64 * s.fld Reg.TACK_STAGE_ADDR
def State.stageLen (s : State) : Nat := s.fld Reg.TACK_STAGE_LEN_LEN

/-- TACK_STAGE and TACK_STAGE_LEN: VIEW, address, length. -/
def State.stage (s : State) : Bool × Nat × Nat := (s.stageView, s.stageAddr, s.stageLen)

/-- The staged bytes at a stage; none where they lie in a hole or are longer than 16 MiB. -/
def State.stagedAt (s : State) (x : Bool × Nat × Nat) : Option (State × List Byte) :=
  if x.2.2 > 2 ^ 24 then none else (s.devRead x.1 x.2.1 x.2.2 (x.2.2 / 64 + 2)).map fun y => (y.1, y.2.1)
def State.staged (s : State) : Option (State × List Byte) := s.stagedAt s.stage

/-- The channels that hold the staged bytes take requests; where they do not, the command waits (R210, R214). -/
def State.stageReady (s : State) (write : Bool) : Bool := s.stageLen > 2 ^ 24 || s.spanReady write s.stageView s.stageAddr s.stageLen

/-- LOAD_IMAGE. An image that would lead to maintenance mode is refused whole; one loaded in maintenance mode of cause NO_KEY or MINSET
does not leave it (R430). -/
def State.loadImage (s : State) : State :=
  if !s.booted then s
  else if s.board.romOnly || !(s.maintenance || s.ledger.all fun x => x.2.state == stFree) then s.tackFail 1
  else match s.staged with
    | none => s.tackFail 2
    | some (t, l) =>
      match parseImage l with
      | none => t.tackFail 3
      | some m =>
        if !m.authentic t.board.keyHash then t.tackFail 3
        else if t.deviceStage m ≠ 0 || !t.minSet m.device.body then t.tackFail 4
        else if t.maintenance && (t.fld Reg.TACK_STATUS_MAINT_CAUSE = 1 || t.fld Reg.TACK_STATUS_MAINT_CAUSE = 6) then
          (t.applyMaint (some m) (t.fld Reg.TACK_STATUS_MAINT_CAUSE) 2).tackDone
        else (t.applyImage m 2).tackDone
/-- LOAD_IMAGE. -/
def execLoadImage (s : State) : Host.Outcome State Fault Refusal := if s.stageReady false then done s s.loadImage else .next s

/-- A LOAD_PADDOCK covers the stalls and channels that the paddock holds before or after it (R459). -/
def State.coverSect (s : State) (x : TackSect) : State :=
  let old := s.sect x.pdk
  let stalls := (sectStalls old ++ sectStalls x.body).eraseDups.filter fun st => decide (st < s.nStall)
  let chans := ((sectSlots old ++ sectSlots x.body).map (·.q)).eraseDups.filter fun q => decide (q < s.nChan)
  chans.foldl (fun u q => u.coverChan q) (stalls.foldl (fun u st => u.coverStall st) s)

/-- A paddock section that a LOAD_PADDOCK has read. -/
def State.loadPdkSect (s : State) (x : TackSect) : State :=
  let p := x.pdk
  let t := s.coverSect x
  match t.sectCause x, t.shrunk x.body with
  | 0, some (live, slots) =>
    let gone := s.pdkStalls p
    let u := gone.foldl (fun u st => (u.resetStall st).emptyStores st) t
    let u := (if u.pdkOn p then u.endPdk p else u).buildPdk x live slots
    ((live.foldl (fun v st => v.emptyStores st) u).freeStalls).tackDone
  | c, _ => (s.refusePdk p c).tackFail (if c = 1 then 3 else 4)

/-- LOAD_PADDOCK of the section at a stage. A reload while the slice is not all FREE is not accepted, with cause BUSY (R433, R436). -/
def State.loadPaddockAt (s : State) (p : Nat) (stage : Bool × Nat × Nat) : State :=
  if s.startup then s.tackFail 1
  else if s.pdkOn p && !s.allFree p then (s.refusePdk p 12).tackFail 1
  else match s.stagedAt stage with
    | none => s.tackFail 2
    | some (t, l) =>
      match parseSect l with
      | some (x, []) => if x.kind = 3 then t.loadPdkSect x else t.tackFail 3
      | _ => t.tackFail 3
/-- LOAD_PADDOCK; held, with the stage that it names, while a paddock reset of the paddock is in progress (R447). -/
def State.loadPaddock (s : State) : State :=
  let p := s.fld Reg.TACK_CMD_PADDOCK
  let k := s.pdkOf p
  if !s.booted then s
  else if s.pdkOn p && k.resetTb.isSome then
    if k.heldCmd = 0 then (s.putPdk p { k with heldCmd := 2, heldStage := s.stage }).syncHeld else s
  else s.loadPaddockAt p s.stage
/-- LOAD_PADDOCK. -/
def execLoadPaddock (s : State) : Host.Outcome State Fault Refusal := if s.stageReady false then done s s.loadPaddock else .next s

/-- UNLOAD_PADDOCK. -/
def State.unloadPaddock (s : State) : State :=
  let p := s.fld Reg.TACK_CMD_PADDOCK
  if !s.booted then s
  else if !s.pdkOn p || !s.allFree p then s.tackFail 1
  else ((s.endPdk p).freeStalls).tackDone
/-- UNLOAD_PADDOCK. -/
def execUnloadPaddock (s : State) : Host.Outcome State Fault Refusal := done s s.unloadPaddock

/-- FLASH_WRITE: TACK_ARG names the slot and the region. The boot ROM alone accepts only a firmware bundle (R439). With no
bytes to write it changes nothing (R6). -/
def State.flashWrite (s : State) : State :=
  let slot := bits (s.fld Reg.TACK_CMD_TACK_ARG) 0 0
  let region := bits (s.fld Reg.TACK_CMD_TACK_ARG) 3 1
  if !s.booted then s
  else if region > 1 || (s.board.romOnly && region != 0) then s.tackFail 1
  else match s.staged with
    | none => s.tackFail 2
    | some (t, l) =>
      if l.length > slotSize region then t.tackFail 2
      else if l.isEmpty then t.tackDone
      else if t.sagNow then t.tackFail 5
      else (t.flashSlot region slot l).tackDone
/-- FLASH_WRITE. -/
def execFlashWrite (s : State) : Host.Outcome State Fault Refusal := if s.stageReady false then done s s.flashWrite else .next s

/-- SLOT_SELECT. -/
def State.slotSelect (s : State) : State :=
  let slot := bits (s.fld Reg.TACK_CMD_TACK_ARG) 0 0
  let region := bits (s.fld Reg.TACK_CMD_TACK_ARG) 3 1
  if !s.booted then s
  else if region > 1 || s.board.romOnly then s.tackFail 1
  else if s.sagNow then s.tackFail 5
  else (s.putDir (if region = 0 then { s.dir with fw := slot } else { s.dir with tack := slot })).tackDone
/-- SLOT_SELECT. -/
def execSlotSelect (s : State) : Host.Outcome State Fault Refusal := done s s.slotSelect

/-- MAPLIST_CLEAR. -/
def State.maplistClear (s : State) : State :=
  if !s.booted then s
  else if !s.maintenance then s.tackFail 1
  else if s.sagNow then s.tackFail 5
  else State.tackDone { s with mapList := [], mapRetry := [] }
/-- MAPLIST_CLEAR. -/
def execMaplistClear (s : State) : Host.Outcome State Fault Refusal := done s s.maplistClear

/-- KEY_PROG. Whether the fuses read back as staged, and what they hold where they do not, is the part's: a free choice and free bytes. -/
def State.keyProg (s : State) : State :=
  if !s.booted then s
  else if !s.maintenance || !allZero s.board.keyHash then s.tackFail 1
  else if s.stageLen ≠ 48 then s.tackFail 2
  else match s.staged with
    | none => s.tackFail 2
    | some (t, l) =>
      let b := t.tick
      if allZero l then t.tackFail 2
      else if t.freeBit then
        (State.tackFail { b with board := { b.board with keyHash := b.freeBytes 48 } } 6).tick 48
      else State.tackDone { b with board := { b.board with keyHash := l } }
/-- KEY_PROG. -/
def execKeyProg (s : State) : Host.Outcome State Fault Refusal := if s.stageReady false then done s s.keyProg else .next s

/-- SHRINK_DONE: the next hinge of the paddock is released. -/
def State.shrinkDone (s : State) : State :=
  let p := s.fld Reg.TACK_CMD_PADDOCK
  if !s.booted then s
  else if !s.flag Reg.PDK_TACK_WAIT_SHRINK 0 p then s.tackFail 1
  else ((s.setFld Reg.PDK_TACK_WAIT_SHRINK 0 0 p).wantHinge p).tackDone
/-- SHRINK_DONE. -/
def execShrinkDone (s : State) : Host.Outcome State Fault Refusal := done s s.shrinkDone

/-- FLASH_READ. The flash does not answer while VDD_AUX is low (R499). -/
def State.flashRead (s : State) : State :=
  let o := 64 * s.fld Reg.TACK_FLASH_OFS_OFFSET
  let n := s.stageLen
  if !s.booted then s
  else if s.board.romOnly then s.tackFail 1
  else if n % 64 ≠ 0 || o + n > 2 ^ 26 || n > 2 ^ 24 then s.tackFail 2
  else if s.flag Reg.SAG_STATUS_AUX_LOW then s.tackFail 5
  else match (s.tick n).devWrite s.stageView s.stageAddr ((List.range n).map fun i => s.flashByte (o + i) i) (n / 64 + 2) with
    | none => s.tackFail 2
    | some t => t.tackDone
/-- FLASH_READ. -/
def execFlashRead (s : State) : Host.Outcome State Fault Refusal := if s.stageReady true then done s s.flashRead else .next s

/-- The command that TACK_CMD names reads or writes its stage, whose channels take no request now (R210, R214). -/
def State.tackWaits (s : State) : Bool :=
  let op := s.fld Reg.TACK_CMD_OP
  ([1, 2, 4, 7].contains op && !s.stageReady false) || (op == 9 && !s.stageReady true)

/-- TACK_CMD.GO. -/
def State.tackGo (s : State) : State :=
  let op := s.fld Reg.TACK_CMD_OP
  if op = 1 then s.loadImage
  else if op = 2 then s.loadPaddock
  else if op = 3 then s.unloadPaddock
  else if op = 4 then s.flashWrite
  else if op = 5 then s.slotSelect
  else if op = 6 then s.maplistClear
  else if op = 7 then s.keyProg
  else if op = 8 then s.shrinkDone
  else if op = 9 then s.flashRead
  else s.tackFail 1

/-- QUICK_SELF_TEST: 200 SCLK after the reset; then a reset or a load held behind it runs. -/
def execQuickSelfTest (p : Paddock) (failed : BitVec 16) (s : State) : Host.Outcome State Fault Refusal :=
  let k := s.pdkOf p
  if k.resetTb.isNone then .next s
  else
    let t := s.selfTest p failed.toNat
    let t := (t.putPdk p { t.pdkOf p with heldCmd := 0 }).syncHeld
    done s (if k.heldCmd = 1 then t.paddockReset p else if k.heldCmd = 2 then t.loadPaddockAt p k.heldStage else t)

/-! ### The image at a boot (R436, R442) -/

/-- The image in a flash slot, where it passes R423 to R425. -/
def State.slotImage (s : State) (slot : Nat) : Option (TackImage × Nat) :=
  let k := flashKey (slotBase 1 slot)
  let len := leAt (s.bytes k 16) 8 4
  if len > 2 ^ 24 then none
  else match parseImage (s.bytes k len) with
    | none => none
    | some m => if m.authentic s.board.keyHash then some (m, slot) else none

/-- The image that a boot takes from flash: that of the slot the directory names, else the other (R436). The flash does not answer while
VDD_AUX is low (R499). -/
def State.flashImage (s : State) : Option (TackImage × Nat) :=
  if s.flag Reg.SAG_STATUS_AUX_LOW then none else (s.slotImage s.dir.tack).or (s.slotImage (1 - s.dir.tack))

/-- A tack load from flash. -/
def State.bootImage (s : State) : State :=
  if allZero s.board.keyHash then s.applyMaint none 1 0
  else match s.flashImage with
    | none => s.applyMaint none 2 0
    | some (m, slot) =>
      let c := s.deviceStage m
      if c = 3 then s.applyMaint none 3 slot
      else if c ≠ 0 then s.applyMaint (some m) c slot
      else if !s.minSet m.device.body then s.applyMaint (some m) 6 slot
      else s.applyImage m slot

/-! ### Device reset (R443, R444) -/

/-- Registers that a device reset keeps: those R444 names, the configuration space and link, the spare lanes, THERM_STATUS, which reports
until power is removed (R468), and the firmware in force. -/
def deviceKept : List Loc :=
  [Reg.RESET_CAUSE, Reg.FLT_HEAD, Reg.FLT_TAIL, Reg.FLT_DROP_CNT, Reg.PWR_ENERGY, Reg.HIF_NUMVF, Reg.CH_LANE, Reg.THERM_STATUS, Reg.TACK_COMPAT]

/-- Everything that a device reset loses is at its reset value; of CH_LANE the spare lanes stay, of SAG_STATUS the two levels. -/
def State.deviceRegs (s : State) : State :=
  let flt := s.rd Reg.FLT_STATUS &&& 0x27
  let link := s.rd Reg.HIF_STATUS &&& 0x3FF
  let sag := s.rd Reg.SAG_STATUS &&& 3
  let t := { s with
    tierWas := s.tierWas.or s.tierShape, regs := s.regs.filter fun e => deviceKept.any fun r => r.holds 0 e.1 }
  let t := ((t.wr Reg.FLT_STATUS flt).wr Reg.HIF_STATUS link).wr Reg.SAG_STATUS sag
  (List.range 256).foldl (fun u q => u.wr Reg.CH_LANE (u.rd Reg.CH_LANE 0 q &&& 0x80) 0 q) t

/-- The memories of the stalls and grooms. -/
def onDie (k : Nat) : Bool := decide (2 ^ 42 ≤ k) && decide (k < 2 ^ 46)

/-- A device reset; the boot ROM alone takes none (R439). Writes that a channel queue has accepted stay there, as at a stall reset (R253). -/
def State.deviceReset (s : State) (cause : Nat) : State :=
  if s.shut || s.board.downTb.isSome || !s.booted || s.board.romOnly then s
  else
    let t := s.pfReset.deviceRegs.setFld Reg.RESET_CAUSE_CAUSE cause
    let t : State := {
      part := s.part, tb := t.tb, regs := t.regs, mem := t.mem.filter (fun c => !onDie c.1), checks := t.checks, corrected := t.corrected,
      hostPoison := t.hostPoison, tierWas := t.tierWas, aer := t.aer,
      chans := (t.chans.map fun (x : Nat × ChanCtl) => (x.1, ({ queue := x.2.queue.filter fun r => r.data.isSome } : ChanCtl))).filter
        fun x => !x.2.queue.isEmpty,
      lpQueue := (t.lpQueue.map fun (x : Nat × List MemReq) => (x.1, x.2.filter fun r => r.data.isSome)).filter fun x => !x.2.isEmpty,
      repairTable := t.repairTable, softRows := t.softRows, fusedRows := t.fusedRows, mapList := t.mapList, mapRetry := t.mapRetry,
      repairRetry := t.repairRetry, fltLog := t.fltLog, fltSerial := t.fltSerial, fltQueue := t.fltQueue, granules := t.granules,
      fwTable := t.fwTable, board := { t.board with persist := [], persistGone := 0, calm := 0, silentRails := [], fatals := [] },
      bus := t.bus, free := t.free, pending := t.pending }
    let t := t.bootImage.newBootRecord
    if t.flag Reg.THERM_STATUS_TRIP then t.setLevel 4 else t
/-- DEVICE_RESET: cause 5 physical function, 6 watchdog, 7 ostler fault. -/
def execDeviceReset (cause : BitVec 4) (s : State) : Host.Outcome State Fault Refusal :=
  if cause = 5 || cause = 6 || cause = 7 then done s (pins s (s.deviceReset cause.toNat)) else .next s

/-- OSTLER_WATCHDOG: 100 ms without service. -/
def execOstlerWatchdog (t : Dword) (s : State) : Host.Outcome State Fault Refusal :=
  done s (pins s ((s.atTb t).deviceReset 6))

/-! ### Cold reset and cold boot (R439 to R441, R444, R489, R490) -/

/-- The part enters cold reset: fuses, flash, the host's memory and the spare lanes that flash brings back stay. THERM_STATUS stays
while THERMTRIP_N is held. -/
def State.coldReset (s : State) (cause : Nat) : State :=
  let lanes := (List.range 256).filter fun q => s.flag Reg.CH_LANE_SPARED 0 q
  let therm := s.rd Reg.THERM_STATUS
  let b := s.board
  let t : State := {
    part := s.part, mem := s.mem.filter (fun c => decide (2 ^ 46 ≤ c.1)), hostPoison := s.hostPoison, repairTable := s.repairTable, fusedRows := s.fusedRows,
    mapList := s.mapList,
    board := {
      pwrgd := b.pwrgd, perst := b.perst, refPcie := b.refPcie, refDrt := b.refDrt, cold := true, bootDue := true,
      tripLow := b.tripLow, pdReadyLow := b.pdReadyLow, keyHash := b.keyHash, dirA := b.dirA, dirB := b.dirB,
      bootCount := b.bootCount, bsr := b.bsr, smbAddr := b.smbAddr, trst := b.trst },
    bus := s.bus, free := s.free, pending := s.pending }
  let t := lanes.foldl (fun u q => u.setFlag Reg.CH_LANE_SPARED 0 q) t
  let t := if b.tripLow then t.wr Reg.THERM_STATUS therm else t
  t.setFld Reg.RESET_CAUSE_CAUSE cause

/-- Cold reset is released; TB counts from 0 and the boot is owed. GPIO[2:0] are sampled (R496): inputs, and so a free
value (notes/assumptions/61.md). -/
def State.coldRelease (s : State) : State :=
  if s.board.cold && s.board.pwrgd && !s.board.perst && s.board.refPcie then
    { s.tick with tb := 0, board := { s.board with cold := false, smbAddr := 0x58 + s.freeVal.toNat % 8 } }
  else s

/-- Repairs of the flash table bound softly, while each bank has free spares. -/
def State.bindRows (s : State) : State :=
  s.repairTable.foldl (fun u r =>
    if u.softRows.contains r || u.sparesLeft r.1 r.2.1 = 0 then u else { u with softRows := u.softRows ++ [r] }) s

/-- The image that the boot will load asks for MEMTEST = FULL, in which a pattern pass finds failing rows; without an image so it is too
(R440; notes/assumptions/64.md). -/
def State.memtestFull (s : State) : Bool :=
  match s.flashImage with
  | some (m, _) => !bit (byteAt m.device.body 1) 0
  | none => true

/-- A failing row is bound to a free spare and added to the repair table; with none left its channel is listed for map-out (R441). A row
already bound takes no second spare (notes/assumptions/64.md). -/
def State.bootRow (s : State) (r : Nat × Nat × Nat) : State :=
  if s.softRows.contains r || s.fusedRows.contains r then s
  else if s.sparesLeft r.1 r.2.1 = 0 then { s with board := { s.board with bootBad := s.board.bootBad ++ [(2, r.1)] } }
  else State.addRepair { s with softRows := s.softRows ++ [r] } r

/-- A failing lane group is steered to the spare; a second one of its channel lists the channel for map-out (R441). -/
def State.bootLane (s : State) (x : Nat × Nat) : State :=
  if s.flag Reg.CH_LANE_SPARED 0 x.1 then { s with board := { s.board with bootBad := s.board.bootBad ++ [(2, x.1)] } }
  else s.setFlag Reg.CH_LANE_SPARED 0 x.1

/-- COLD_BOOT, as one step, while the flash answers (R439): the firmware, the tests with the failures found, and the tack load. Every line is left zero by the fill pass
(R441). What the link trains to is not stated: free values. The test microprogram of R179 is boot-ROM content that no rule gives: what it and
the other tests find are the operands (notes/assumptions/64.md). -/
def execColdBoot (r : BootResults) (s : State) : Host.Outcome State Fault Refusal :=
  if s.board.cold || !s.board.bootDue || s.flag Reg.SAG_STATUS_AUX_LOW then .next s
  else
    let link := 1 + s.freeVal.toNat % 512 * 2
    let t := ({ s.tick with board := { s.board with bootDue := false, romOnly := r.bundle.isNone } }).wr Reg.HIF_STATUS link
    match r.bundle with
    | none => done s t
    | some f =>
      let t := t.wr Reg.TACK_COMPAT (f.fw.toNat + f.uc.toNat * 2 ^ 32)
      let t := { t with
        fwTable := f.rows.map fun (x : FwRow) => (x.fw.toNat, x.uc.toNat, x.abiLo.toNat, x.abiHi.toNat),
        mem := t.mem.filter fun c => decide (2 ^ 42 ≤ c.1) }
      let bad := r.badStalls.map (fun i => (1, i)) ++ r.badChannels.map (fun i => (2, i)) ++ r.badGrooms.map (fun i => (3, i)) ++
        r.badLp.map fun k => (4, 4 * k)
      let t := State.bindRows { t with checks := [], board := { t.board with bootBad := bad } }
      let t := r.badLanes.foldl State.bootLane (if t.memtestFull then r.badRows.foldl State.bootRow t else t)
      let t := ({ t.bootImage with tierWas := none } : State).newBootRecord
      done s (pins s (if t.flag Reg.THERM_STATUS_TRIP then t.setLevel 4 else t))

/-! ### Orderly power-down (R446) -/

/-- The steps after the paddocks have ended theirs, as far as they have come: every core halts, the DMA channels drain, held records go out,
the persistent log is written, POWERDOWN_READY is set. -/
def State.powerSettle (s : State) : State :=
  if s.board.downTb.isNone || s.pdks.any (fun x => x.2.running) then s
  else
    let t := (List.range 16).foldl (fun u st => u.sccRun st false) s
    let t := (List.range 128).foldl (fun u i => if u.flag Reg.DMA_CH_CTRL_EN (i / 8) (i % 8) then u.dmaEnClear (i / 8) (i % 8) else u) t
    let t := t.ledger.foldl (fun u x => if x.2.holds then u.issueAll x.1 x.2.recs.length else u) t
    let t := if t.sagNow then t else (List.range (t.board.persist.length / 8 + 2)).foldl (fun u _ => if u.board.persist.isEmpty then u else u.persistPage) t
    if (List.range 16).any (fun st => t.flag Reg.SCC_STATUS_RUNNING st) || t.dma.any (fun x => !x.2.flights.isEmpty)
        || !t.board.persist.isEmpty then t
    else { t.setFlag Reg.BOOT_STATUS_POWERDOWN_READY with board := { t.board with downTb := none, pdReadyLow := true } }

/-- RESET_CTRL.POWERDOWN or the board controller's request: every paddock clears OPEN and starts no step. Given again, the steps go on
from where they are. -/
def State.powerdown (s : State) : State :=
  if s.shut || !s.booted then s
  else if s.board.downTb.isSome then s.powerSettle
  else
    let t := (List.range 16).foldl (fun u p => if u.pdkOn p then u.pdkOpen p false else u) s
    State.powerSettle { t with board := { t.board with downTb := some t.tb } }
/-- POWERDOWN. -/
def execPowerdown (s : State) : Host.Outcome State Fault Refusal := done s (pins s s.powerdown)

/-- POWERDOWN_STEP_TIMEOUT: 2 ms into a power-down, the steps still running are abandoned. -/
def execPowerdownStepTimeout (t : Dword) (s : State) : Host.Outcome State Fault Refusal :=
  match s.board.downTb with
  | none => .next s
  | some d =>
    if t.toNat < d.toNat + 2000000 then .next s
    else
      let u := (List.range 16).foldl (fun v p =>
        if (v.pdkOf p).running then
          let v := v.dropStepRecs p
          v.putPdk p { v.pdkOf p with running := false, step := [], ended := [], res := [], plan := none, rounds := [], replay := false }
        else v) (s.atTb t)
      done s (pins s u.powerSettle)

end Sys2Proof.Machine
end

