-- ==== Sys2Proof/Machine/Pins.lean ====
section
/-! DEFINITION. Power-good, PERST#, the reference clocks, the SMBus target and the JTAG port (19_package_and_electrical.md R488 to R500). -/
namespace Sys2Proof.Machine

/-! ### Power-good, PERST# and the clocks (R489, R490, R493) -/

/-- PWRGD_RISE. -/
def execPwrgdRise (s : State) : Host.Outcome State Fault Refusal :=
  .next (State.coldRelease { s with board := { s.board with pwrgd := true } })

/-- PWRGD_FALL: a cold reset that releases THERMTRIP_N and PD_READY_N (R494, R495). -/
def execPwrgdFall (s : State) : Host.Outcome State Fault Refusal :=
  if s.board.pwrgd then
    .next (pins s (State.coldReset { s with board := { s.board with pwrgd := false, tripLow := false, pdReadyLow := false } } 1))
  else .next s

/-- PERST_ASSERT. -/
def execPerstAssert (s : State) : Host.Outcome State Fault Refusal :=
  if s.board.perst then .next s
  else
    let t := { s with board := { s.board with perst := true } }
    .next (if s.board.pwrgd then pins s (t.coldReset 2) else t)

/-- PERST_DEASSERT. -/
def execPerstDeassert (s : State) : Host.Outcome State Fault Refusal :=
  .next (State.coldRelease { s with board := { s.board with perst := false } })

/-- REFCLK_PCIE_LOSS: stopped for 10 µs while PWRGD is high. -/
def execRefclkPcieLoss (s : State) : Host.Outcome State Fault Refusal :=
  let t := { s with board := { s.board with refPcie := false } }
  .next (if s.board.pwrgd then pins s (t.coldReset 1) else t)

/-- REFCLK_PCIE_RETURN: 1 ms after the clock returns. -/
def execRefclkPcieReturn (s : State) : Host.Outcome State Fault Refusal :=
  .next (State.coldRelease { s with board := { s.board with refPcie := true } })

/-- REFCLK_DRT_LOSS: every port goes DOWN, all at once. The clock stops whether or not the device runs. -/
def execRefclkDrtLoss (s : State) : Host.Outcome State Fault Refusal :=
  let t := { s with board := { s.board with refDrt := false } }
  let u := (List.range 8).foldl (fun u k => if u.portState k = pTraining then u.setFld Reg.DRT_PORT_STATUS_STATE pDown 0 k else u) t
  done t (u.portsFall (List.range 8))

/-- REFCLK_DRT_RETURN: the schedule of R398 counts from here. -/
def execRefclkDrtReturn (s : State) : Host.Outcome State Fault Refusal :=
  let t := { s with board := { s.board with refDrt := true } }
  done t ((List.range 8).foldl (fun u k =>
    if u.portState k = pDown then u.putPort k { u.portOf k with tries := 0, downTb := u.tb } else u) t)

/-! ### SMBus (R497) -/

/-- The target answers from 0.4 ms after the release of cold reset. -/
def State.smbUp (s : State) : Bool := !s.board.cold && decide (s.tb.toNat ≥ 400000)

/-- A transfer is for this target: the address is that of its straps. -/
def State.smbFor (s : State) (addr : BitVec 7) : Bool := s.smbUp && addr.toNat == s.board.smbAddr

def maxOf (l : List Nat) : Nat := l.foldl max 0

/-- What a command code reads, with its length in bytes; none of a code that is no read of R497, which the target NAKs. The levels of the
GPIO[7:4] inputs are a free value (notes/assumptions/61.md). -/
def State.smbValue (s : State) (code : Nat) : Option (Nat × Nat) :=
  match code with
  | 0x01 => some (bits s.devId 31 16, 2)
  | 0x02 => some (bits s.devId 15 8, 1)
  | 0x10 => some (maxOf ((List.range 8).map fun k => s.fld Reg.STK_TEMP_TEMP 0 k), 1)
  | 0x11 => some (maxOf ((List.range 16).map fun st => s.fld Reg.STL_TEMP_TEMP 0 st), 1)
  | 0x12 => some (s.fld Reg.PWR_STATUS_AVG, 2)
  | 0x20 => some (s.fld Reg.THERM_STATUS_TRIP + b2n s.throttleLow 1 + 4 * s.fld Reg.PWR_STATUS_LEVEL + b2n s.shut 5 + b2n s.maintenance 6, 1)
  | 0x21 => some (s.freeVal.toNat % 16, 1)
  | _ => none

/-- A read transfer at the target's address: its data, or a NAK. Reads answer while power stays, POWERDOWN_READY or not. -/
def State.smbRead (s : State) (code : Nat) : State :=
  s.emit (match s.smbUp, s.smbValue code with
    | true, some x => .smbData (leBytes x.1 x.2)
    | _, _ => .smbNoResponse)

/-- SMB_READ_DEV_ID_HI. -/
def execSmbReadDevIdHi (s : State) : Host.Outcome State Fault Refusal := .next (s.smbRead 0x01)
/-- SMB_READ_DEV_ID_STEP. -/
def execSmbReadDevIdStep (s : State) : Host.Outcome State Fault Refusal := .next (s.smbRead 0x02)
/-- SMB_READ_STACK_TEMP. -/
def execSmbReadStackTemp (s : State) : Host.Outcome State Fault Refusal := .next (s.smbRead 0x10)
/-- SMB_READ_STALL_TEMP. -/
def execSmbReadStallTemp (s : State) : Host.Outcome State Fault Refusal := .next (s.smbRead 0x11)
/-- SMB_READ_POWER. -/
def execSmbReadPower (s : State) : Host.Outcome State Fault Refusal := .next (s.smbRead 0x12)
/-- SMB_READ_STATUS. -/
def execSmbReadStatus (s : State) : Host.Outcome State Fault Refusal := .next (s.smbRead 0x20)
/-- SMB_READ_GPIO: the levels of GPIO[7:4] at the read (R496). -/
def execSmbReadGpio (s : State) : Host.Outcome State Fault Refusal := .next (s.smbRead 0x21).tick
/-- SMB_POWERDOWN_REQUEST, a write transfer: code 0x30 with 0xA5 alone asks for a power-down; a write of another code gets a NAK, and so does
every one at another address (notes/assumptions/61.md). -/
def execSmbPowerdownRequest (v : SmbWrite) (s : State) : Host.Outcome State Fault Refusal :=
  if !s.smbFor v.addr || v.code ≠ 0x30 then .next (s.emit .smbNoResponse)
  else if v.data = 0xA5 then done s (pins s s.powerdown)
  else .next s

/-! ### JTAG (R500) -/

/-- What the selected register shifts out; nothing while TRST# holds the TAP in reset. -/
def State.tapOut (s : State) (v : Nat) : State := if s.board.trst then s else s.emit (.jtagData v)

/-- BYPASS: one bit that captures 0. -/
def execBypass (s : State) : Host.Outcome State Fault Refusal := .next (s.tapOut 0)

/-- IDCODE. -/
def execIdcode (s : State) : Host.Outcome State Fault Refusal :=
  .next (s.tapOut (bits s.devId 11 8 * 2 ^ 28 + 0x7101 * 2 ^ 12 + 0x3B5 * 2 + 1))

/-- Boundary scan is accepted in cold reset with PWRGD high and PERST# low, the TAP not held in reset. -/
def State.scanMay (s : State) : Bool := !s.board.trst && s.board.cold && s.board.pwrgd && s.board.perst

/-- A scan of the boundary register: the levels captured, which nothing here fixes, come out, the register takes what is shifted in, and
`drive`, where the instruction drives pins, goes on them; at any other time the TAP runs BYPASS. -/
def State.scan (s : State) (v : Dword) (drive : List (BoundaryScan × Dword)) : State :=
  if s.scanMay then
    drive.foldl (fun t x => t.emit (.boundary x.1 x.2)) { (s.tick 2).emit (.jtagData s.freeVal.toNat) with board := { s.board with bsr := v } }
  else s.tapOut 0

/-- The level of TRST# changes. -/
def State.withTrst (s : State) (b : Bool) : State := { s with board := { s.board with trst := b } }

/-- SAMPLE_PRELOAD. -/
def execSamplePreload (preload : TapScan) (s : State) : Host.Outcome State Fault Refusal :=
  .next ((s.withTrst preload.trst).scan preload.data [])
/-- EXTEST: the boundary register drives the pins. -/
def execExtest (drive : TapScan) (s : State) : Host.Outcome State Fault Refusal :=
  .next ((s.withTrst drive.trst).scan drive.data [(.extest, drive.data)])
/-- EXTEST_PULSE: the register as it was preloaded pulses the lanes once; what is then shifted in is a free value. -/
def execExtestPulse (s : State) : Host.Outcome State Fault Refusal := .next (s.scan s.tick.freeVal [(.pulse, s.board.bsr)])
/-- EXTEST_TRAIN: it sends a train of pulses on the lanes. -/
def execExtestTrain (s : State) : Host.Outcome State Fault Refusal := .next (s.scan s.tick.freeVal [(.train, s.board.bsr)])

end Sys2Proof.Machine
end

