-- ==== Sys2Proof/Machine/RegAccess.lean ====
section
/-! DEFINITION. Reads and writes of registers and of the windows of register space, by requester (00_scope.md R7 to R12; 11_serving.md R315,
R316; 13_control_core.md R341, R367; 14_host_interface.md R371, R373; 18_register_map.md R474 to R482). -/
namespace Sys2Proof.Machine

/-! ### What lies at an offset -/

/-- A register met by an access: the register, its fields, its unit, its repeat, and the byte of it that the access begins at. -/
structure RegHit where
  loc : Loc
  flds : List Fld
  u : Nat
  i : Nat
  o : Nat

/-- What an access of some size at an offset reaches. -/
inductive Target
  | reg (h : RegHit)
  /-- Byte `o` of a ledger entry, of a fault-log entry. -/
  | ledger (ix o : Nat)
  | flt (n o : Nat)
  | imem (st o : Nat)
  | dmem (st o : Nat)
  /-- A window of the groom port, by offset in the stall block. -/
  | port (st off : Nat)
  /-- Byte `o` of a function's MSI-X table, of its pending-bit array. -/
  | msixTable (fn o : Nat)
  | msixPba (fn o : Nat)
  /-- No register (R11). -/
  | none
  /-- Not naturally aligned (R12). -/
  | bad
  /-- Wider than the register it reaches, or into which it ends (R12). -/
  | wide (h : RegHit)

/-- The register of a table that holds a byte. -/
def hitIn (l : List (Loc × List Fld)) (u off : Nat) : Option RegHit :=
  match l with
  | [] => none
  | (r, f) :: rest =>
    let d := off - r.base
    let i := if r.step = 0 then 0 else d / r.step
    if r.base ≤ off ∧ i < r.count ∧ d - r.step * i < r.bytes then some ⟨r, f, u, i, d - r.step * i⟩ else hitIn rest u off

/-- An access within one register; a wide one that only ends in a register is wider than it. -/
def regTarget (l : List (Loc × List Fld)) (u off size : Nat) : Target :=
  match hitIn l u off with
  | some h => if h.o + size ≤ h.loc.bytes then .reg h else .wide h
  | none => if size = 8 then (match hitIn l u (off + 4) with | some h => .wide h | none => .none) else .none

/-- Half of the ledger that the window shows: LDG_CTRL.WIN_HALF, or for a virtual function its FN_CTRL.WIN_HALF (R371). -/
def State.winHalf (s : State) (fn : Nat) : Nat :=
  if fn = 0 then s.fld Reg.LDG_CTRL_WIN_HALF else s.fld Reg.FN_CTRL_WIN_HALF 0 fn

/-- The registers of the groom port that refuse an access in start-up, as its windows and command areas do (R179). -/
def groomPortRegs : List Loc := [Reg.GPORT_SEL, Reg.GPORT_READY, Reg.GPORT_WDOG]

/-- Offset `o` of the block of stall `st` (R474, R476, R179). -/
def State.stallTarget (s : State) (st o size : Nat) : Target :=
  if st ≥ s.nStall then .none
  else if !s.stallUp st then (if o < 4 then regTarget Reg.stallRegs st (0x300000 + o) size else .none)
  else if 0x40000 ≤ o ∧ o < 0x50000 then .imem st (o - 0x40000)
  else if 0x50000 ≤ o ∧ o < 0x60000 then .dmem st (o - 0x50000)
  else if 0x80000 ≤ o ∧ o < 0x90000 then
    if !s.portOpen st then .none
    else match s.positionOf st ((o - 0x80000) / 256) with
      | some p => regTarget Reg.groomRegs p (0x10000000 + (o - 0x80000) % 256) size
      | none => .none
  else if 0xA0000 ≤ o ∧ o < 0xA6400 then .port st o
  else
    let t := regTarget Reg.stallRegs st (0x300000 + o) size
    let port := match t with | .reg h => groomPortRegs.contains h.loc | .wide h => groomPortRegs.contains h.loc | _ => false
    if port && !s.portOpen st then .none else t

/-- Offset `off` of register space, as a requester whose ledger window is that of function `fn` sees it. -/
def State.spaceTarget (s : State) (fn off size : Nat) : Target :=
  if !([1, 2, 4, 8].contains size) || off % size ≠ 0 then .bad
  else if off ≥ 0x1300000 then .none
  else if off ≥ 0x300000 then s.stallTarget ((off - 0x300000) / 0x100000) ((off - 0x300000) % 0x100000) size
  else if 0x280000 ≤ off then .ledger (4096 * s.winHalf fn + (off - 0x280000) / 128) (off % 128)
  else if 0x110000 ≤ off ∧ off < 0x118000 then .flt ((off - 0x110000) / 32) (off % 32)
  else regTarget Reg.devRegs 0 off size

/-! ### Reading -/

/-- Running commands of a stall, for the BUSY bits. -/
def State.runs (s : State) (st : Nat) (f : WinCmd → Bool) : Nat := if (s.dspOf st).running.any fun w => !w.ok && f w then 1 else 0

/-- A COMBINE, or a VCHAIN with a reduction: RVAL, the eighth sub-field of RED, is present (R132). -/
def reduces (w : WinCmd) : Bool :=
  let n := vchainStages w.record
  w.op == opCombine || (w.op == opVchain && (recDesc w.record (vchainLayout n) (4 + 7 * n + 10)).present)

/-- DEV_CAP (R4). -/
def State.devCap (s : State) : Nat :=
  s.nStall + s.nStack * 2 ^ 8 + (if s.part.x8 then 16 else 8) * 2 ^ 16 + (if s.part.x8 then 2 ^ 24 else 0)

/-- The ready lines of groom port word `w` (R155); a groom index in no slot reads as its reset value, 1. -/
def State.readyWord (s : State) (st w : Nat) : Nat :=
  ((List.range 32).map fun b =>
    match s.positionOf st (32 * w + b) with
    | some p => if s.ready p then 2 ^ b else 0
    | none => 2 ^ b).sum

/-- The paddock exists, or is one that refused to start (R316). -/
def State.pdkShown (s : State) (p : Nat) : Bool := s.pdkOn p || s.fld Reg.PDK_STATUS_STATE 0 p != 0

/-- Bits set in a number below 2³². -/
def popCount (v : Nat) : Nat := ((List.range 32).filter fun b => bit v b).length

/-- How far a boot has come, by the typical times of R440 (notes/assumptions/64.md): BOOT_STATUS.PHASE; TACK_STATUS reads LOADING from 60 ms
on. -/
def State.bootPhase (s : State) : Nat :=
  let t := s.tb.toNat
  if t < 500000 then 0 else if t < 48800000 then 1 else if t < 60000000 then 2 else if t < 80000000 then 3 else if t < 1683500000 then 4 else 5
def State.booting (s : State) : Bool := s.board.bootDue && !s.board.cold

/-- The value of a register: the stored one, or where the register follows other state, what that gives. -/
def State.regView (s : State) (h : RegHit) : Nat :=
  let r := h.loc
  let st := h.u
  let v := s.rd r h.u h.i
  if r = Reg.DEV_ID then s.devId
  else if r = Reg.DEV_CAP then s.devCap
  else if r = Reg.DEV_TB then s.tb.toNat
  else if r = Reg.DRT_ROUTE then s.routeByte h.i
  else if r = Reg.BOOT_STATUS then (if s.booting then s.bootPhase else v)
  else if r = Reg.TACK_STATUS then (if s.booting then b2n (decide (s.tb.toNat ≥ bootAnswers)) 0 else v)
  else if r = Reg.TNT_ACTIVE then s.tenantActive h.i
  else if Reg.PDK_CTRL.base ≤ r.base ∧ r.base < Reg.PDK_CTRL.base + 0x80 then
    if !s.pdkShown h.i then 0
    else if r = Reg.PDK_CNT_A then
      s.stateCount h.i stFree + s.stateCount h.i stQueued * 2 ^ 16 + s.stateCount h.i stPrompt * 2 ^ 32 + s.stateCount h.i stDecode * 2 ^ 48
    else if r = Reg.PDK_CNT_B then
      s.stateCount h.i stWaitPg + s.stateCount h.i stPaused * 2 ^ 16 + s.stateCount h.i stDrain * 2 ^ 32 + s.stateCount h.i stDone * 2 ^ 48
    else if r = Reg.PDK_STATUS then putBits v 9 9 (if s.waitHost h.i then 1 else 0)
    else v
  else if r = Reg.RESET_PEND then if s.scc.any fun x => x.2.heldRun then putBits v 16 16 1 else v
  else if r = Reg.STL_INFO then putBits v 3 0 st
  else if r = Reg.STL_IRQ_SUM then s.irqSum st
  else if r = Reg.MXE_BUSY then
    s.runs st (fun w => (banksOf w).contains 0) + 2 * s.runs st (fun w => (banksOf w).contains 1)
      + 4 * s.runs st (fun w => w.op == opMmul)
  else if r = Reg.VXE_BUSY then
    s.runs st (fun w => w.op == opVchain) + 2 * s.runs st reduces
      + (if (SMap.get s.seg none st).isSome then 4 else 0)
  else if r = Reg.HGU_STATUS then v + 2 * s.runs st (fun w => w.op == opHist)
  else if r = Reg.ATS_BUSY then s.runs st (fun w => w.op == opAttn || w.op == opAttnMerge)
  else if r = Reg.TMB_BUSY then s.runs st (fun w => w.op == opSample)
  else if r = Reg.STB_POISON_LINES then
    ((s.regs.filter fun e => Reg.STB_POISON.holds st e.1).map fun e => popCount e.2.toNat).sum
  else if r = Reg.GRM_TBL then s.grmTbl h.u h.i
  else if r = Reg.GPORT_READY then s.readyWord st h.i
  else v

/-- Bytes `o` to `o + size − 1` of a value. -/
def sliceOf (v o size : Nat) : Nat := bits v (8 * (o + size) - 1) (8 * o)

/-- The requester that R10 keeps a captured half for; a control core is one requester in both its modes. -/
def captureBy (req : Requester) : Requester := match req with | .sccTen st => .sccSup st | r => r

/-- The captured 32 bits at a register offset. -/
def State.capturedAt (s : State) (req : Requester) (k : Nat) : Option Word :=
  (s.captured.find? fun e => e.1 == captureBy req && e.2.1 == k).map fun e => e.2.2
def State.dropCaptured (s : State) (req : Requester) (k : Nat) : State :=
  { s with captured := s.captured.filter fun e => !(e.1 == captureBy req && e.2.1 == k) }
def State.capture (s : State) (req : Requester) (k v : Nat) : State :=
  let t := s.dropCaptured req k
  { t with captured := t.captured ++ [(captureBy req, k, BitVec.ofNat 32 v)] }

/-- One half of a 64-bit register whose captured value is due; the live value where none was captured. -/
def State.takeHalf (s : State) (req : Requester) (k v : Nat) : Nat × State :=
  match s.capturedAt req k with
  | some w => (w.toNat, s.dropCaptured req k)
  | none => (v, s)

/-- A register read of `size` bytes: the value, with what R10 and R315 capture and what an RC field loses (R7). The high half of a register is
captured under its own offset; PDK_CNT_B captured by a read of PDK_CNT_A, as two halves, answers its next read, whole or by halves. -/
def State.readReg (s : State) (req : Requester) (h : RegHit) (size : Nat) : Nat × State :=
  let v := s.regView h
  let k := h.loc.key h.u h.i
  let x : Nat × State :=
    if h.loc = Reg.PDK_CNT_B ∧ h.o = 0 ∧ (s.capturedAt req k).isSome then
      let lo := s.takeHalf req k (v % 2 ^ 32)
      let due := (s.capturedAt req (k + 4)).isSome
      if size = 8 then
        let hi := lo.2.takeHalf req (k + 4) (v / 2 ^ 32)
        (if due then lo.1 + hi.1 * 2 ^ 32 else v, hi.2)
      else (sliceOf lo.1 0 size, if size = 4 && !due then lo.2.capture req (k + 4) (v / 2 ^ 32) else lo.2)
    else if h.loc.bytes = 8 ∧ size = 4 then
      if h.o = 0 then (v % 2 ^ 32, s.capture req (k + 4) (v / 2 ^ 32)) else s.takeHalf req (k + 4) (v / 2 ^ 32)
    else (sliceOf v h.o size, s)
  let t := if h.loc = Reg.PDK_CNT_A ∧ h.o = 0 ∧ size ≥ 4 then
      let b := s.regView { h with loc := Reg.PDK_CNT_B }
      let kb := Reg.PDK_CNT_B.key h.u h.i
      (x.2.capture req kb (b % 2 ^ 32)).capture req (kb + 4) (b / 2 ^ 32)
    else x.2
  (x.1, h.flds.foldl (fun u f =>
    if f.acc = .rc ∧ f.lo < 8 * (h.o + size) ∧ 8 * h.o ≤ f.hi then u.setFld f 0 h.u h.i else u) t)

/-- Word `w` of an MSI-X table: word 3 of an entry holds its mask bit. -/
def State.msixWord (s : State) (fn w : Nat) : Nat :=
  if w % 4 = 3 then (if SMap.get s.msixUnmasked false (256 * fn + w / 4) then 0 else 1)
  else (SMap.get s.msixTab 0 (1024 * fn + w)).toNat

/-- A read of a target; none is the error response of R12. -/
def State.readTarget (s : State) (req : Requester) (t : Target) (size : Nat) : Option (Nat × State) :=
  match t with
  | .reg h => some (s.readReg req h size)
  | .ledger ix o => some (leAt ((List.range size).map fun i => s.ledgerByte ix (o + i)) 0 size, s)
  | .flt n o => some (leAt ((SMap.get s.fltLog [] n).drop o) 0 size, s)
  | .imem st o => some (leAt (s.bytes (imemKey st o) size) 0 size, s)
  | .dmem st o => some (leAt (s.bytes (dmemKey st o) size) 0 size, s)
  | .port st off => some (sliceOf (s.windowRead st (off / 8 * 8) 8) (off % 8) size, s)
  | .msixTable fn o => some (sliceOf (s.msixWord fn (o / 8 * 2) + s.msixWord fn (o / 8 * 2 + 1) * 2 ^ 32) (o % 8) size, s)
  | .msixPba fn o =>
    some (((List.range (8 * size)).map fun b => if SMap.get s.msixPend false (256 * fn + 8 * o + b) then 2 ^ b else 0).sum, s)
  | .none => some (0, s)
  | .bad => none
  | .wide _ => none

/-! ### Writing -/

/-- A field after a write of value `v` whose bits `m` are written (R7). A W1S bit is a command: the write carries it out at once, the bit is
not kept and reads 0 (notes/assumptions/70.md, DESIGN CHOICE). -/
def State.writeFld (s : State) (h : RegHit) (v m : Nat) (f : Fld) : State :=
  let c := s.fld f h.u h.i
  let nv := bits v f.hi f.lo
  let nm := bits m f.hi f.lo
  let all := 2 ^ (f.hi + 1 - f.lo) - 1
  match f.acc with
  | .rw => s.setFld f ((c &&& (all ^^^ nm)) ||| (nv &&& nm)) h.u h.i
  | .w1c => s.setFld f (c &&& (all ^^^ (nv &&& nm))) h.u h.i
  | _ => s

/-- Every field of the register but those of a list. -/
def State.writeFlds (s : State) (h : RegHit) (v m : Nat) (skip : List Fld) : State :=
  (h.flds.filter fun f => !skip.contains f).foldl (fun u f => u.writeFld h v m f) s

/-- The value that a RW field would take. -/
def State.wouldBe (s : State) (h : RegHit) (v m : Nat) (f : Fld) : Nat := (s.writeFld h v m f).fld f h.u h.i

/-- A command of MEM_REPAIR_CMD (R214). -/
def State.repairGo (s : State) (req : Requester) : State :=
  let op := s.fld Reg.MEM_REPAIR_CMD_OP
  if op = 1 then s.softRow req
  else if op = 2 then s.fuseRow req
  else if op = 3 then s.spareLane req
  else if op = 4 then s.query req
  else s.refuseRepair

/-- RESET_CTRL with its key: resets of stalls, of a paddock, of the device, and the power-down (R443, R446). -/
def State.resetCtrl (s : State) (v : Nat) : State :=
  let t := (List.range s.nStall).foldl (fun u st => if bit v st then u.stallReset st else u) s
  let t := if bit v 20 then t.paddockResetAsk (t.fld Reg.RESET_CTRL_PDK) else t
  let t := if bit v 21 then t.deviceReset 5 else t
  if bit v 22 then t.powerdown else t

/-- DSP_CTRL: SKIP, then FLUSH (R353). A FLUSH by the microcode of a stall in a paddock stops the paddock (R443). -/
def State.dspCtrl (s : State) (req : Requester) (st v : Nat) : State :=
  let t := if bit v 0 then s.skip st else s
  if bit v 1 then
    let u := t.flush st
    match req, u.paddockOf st with
    | .sccSup _, some p => u.stopPdk p 0x22
    | _, _ => u
  else t

/-- GRM_CTRL: ABORT first, then GO with its ENTRY and SEQ (R152, R153). None: the GO is held in the port. -/
def State.grmCtrl (s : State) (st gi : Nat) (h : RegHit) (v m : Nat) : Option State :=
  let t := if bit v 1 then s.groomAbort st gi else s
  if bit v 0 then t.groomGo st gi (t.wouldBe h v m Reg.GRM_CTRL_ENTRY) (t.wouldBe h v m Reg.GRM_CTRL_SEQ)
  else some (t.writeFlds h v m [])

/-- A write that is held: the ABORT of a GRM_CTRL write takes effect before its GO is held (R153). -/
def State.heldWrite (s : State) (gi : Nat) (h : RegHit) (v : Nat) : State :=
  if h.loc = Reg.GRM_CTRL && bit v 1 then s.groomAbort (s.stallOf h.u) gi else s

/-- The position mask of DMA_CH_SPOS and DMA_CH_DPOS: BLOCK, and OFFSET in whole lines (R254). -/
def posBits : Nat := (2 ^ 56 - 2 ^ 22) + (2 ^ 16 - 1)

/-- A write of a register: value `v`, written bits `m`. None: the write is held where it is (R152, R225). The registers whose writes do
more than their access codes say, or do less, come first. -/
def State.writeReg (s : State) (req : Requester) (gi : Nat) (h : RegHit) (v m : Nat) : Option State :=
  let r := h.loc
  let st := h.u
  let plain := s.writeFlds h v m []
  if r = Reg.HGU_CTRL then some (if bit v 2 then plain.hguClear st else plain)
  else if r = Reg.MEM_SCRUB_HRS then some (if s.wouldBe h v m Reg.MEM_SCRUB_HRS_HOURS = 0 then s else plain)
  else if r = Reg.MEM_REPAIR_CMD then some (if bit v 3 then plain.repairGo req else plain)
  else if r = Reg.DMA_CH_CTRL then
    let t := if bit v 1 then s.dmaAbort st h.i else s
    let t := if bit m 0 then (if bit v 0 then t.dmaEnSet st h.i else t.dmaEnClear st h.i) else t
    some (if bit v 2 then t.dmaResume st h.i else t)
  else if r = Reg.DMA_CH_PUSH then (if (s.dmaOf st h.i).queue.length ≥ 16 then none else some (s.descPush st h.i v))
  else if r = Reg.DMA_CH_CFG then
    let n := s.wouldBe h v m Reg.DMA_CH_CFG_OUTSTANDING
    some (if n = 0 || n > 256 then s else plain)
  else if r = Reg.DMA_CH_SPOS ∨ r = Reg.DMA_CH_DPOS then
    if s.chState st h.i = stHalted || s.chState st h.i = stStopped then some (plain.wr r (plain.rd r st h.i &&& posBits) st h.i) else some s
  else if r = Reg.PDK_CTRL then
    if !s.pdkOn h.i then some s
    else
      let t := s.writeFlds h v m [Reg.PDK_CTRL_OPEN]
      let t := if bit v 1 then t.abortAll h.i else t
      let now := t.flag Reg.PDK_CTRL_OPEN 0 h.i
      let t := if bit m 0 && (bit v 0 != now || t.fld Reg.PDK_STATUS_STATE 0 h.i == 3) then t.pdkOpen h.i (bit v 0) else t
      some (t.wantHinge h.i)
  else if r = Reg.SCC_CTRL then some (if bit m 0 then s.sccRun st (bit v 0) else s)
  else if r = Reg.SCC_MBOX then some (plain.putScc st { plain.sccOf st with mboxPending := true })
  else if r = Reg.DSP_CTRL then some (s.dspCtrl req st v)
  else if r = Reg.FN_CTRL then
    if bit m 0 && bit v 0 && !s.flag Reg.FN_CTRL_EN 0 h.i && !s.flag Reg.FN_STATUS_DRAINING 0 h.i && !s.fnCfgOk h.i then
      -- refused: nothing but LQ_BAD changes (R6, R374)
      some (s.fnEnSet h.i)
    else
    let t := s.writeFlds h v m [Reg.FN_CTRL_EN]
    some (if bit m 0 then (if bit v 0 then t.fnEnSet h.i else t.fnEnClear h.i) else t)
  else if r = Reg.FN_LQ_CFG ∨ r = Reg.FN_LQ_BASE ∨ r = Reg.FN_CQ_BASE then
    some (if s.flag Reg.FN_CTRL_EN 0 h.i || s.flag Reg.FN_STATUS_DRAINING 0 h.i then s else plain)
  else if r = Reg.FN_LQ_DBELL then some (s.lqDbell h.i (BitVec.ofNat 32 v))
  else if r = Reg.FN_CQ_DBELL then some (s.cqDbell h.i (BitVec.ofNat 32 v))
  else if r = Reg.FN_IRQ_MAP then
    some (s.writeFlds h v m (h.flds.filter fun f => h.i != 0 && decide (s.wouldBe h v m f ≥ 7)))
  else if r = Reg.STL_DQ_CTRL then
    -- a write that would put a ring of a size out of range in force changes nothing (R6, R390)
    let n := plain.fld Reg.STL_DQ_CTRL_LOG2 st
    some (if (2 ≤ n ∧ n ≤ 14) ∨ plain.flag Reg.STL_DQ_CTRL_EN st = false then plain else s)
  else if r = Reg.STL_DBELL then some (s.stlDbell st (BitVec.ofNat 32 v))
  else if r = Reg.DRT_CTRL then some (if bit v 0 then s.revert else s)
  else if r = Reg.EXP_PUSH then (if s.exp.queue.length ≥ 16 then none else some (s.expPush v))
  else if r = Reg.TACK_CMD then (if !bit v 12 then some plain else if plain.tackWaits then none else some plain.tackGo)
  else if r = Reg.RESET_CTRL then some (if bits v 31 24 = 0x5A then plain.resetCtrl v else s)
  else if r = Reg.FLT_TAIL then some (s.fltTailWrite (BitVec.ofNat 32 (s.wouldBe h v m Reg.FLT_TAIL_COUNT)))
  else if r = Reg.PWR_CTRL then some (s.pwrLimitWrite (s.wouldBe h v m Reg.PWR_CTRL_LIMIT))
  else if r = Reg.GRM_CTRL then s.grmCtrl (s.stallOf h.u) gi h v m
  else some plain

/-- One word of an MSI-X table written; unmasking a vector sends its pending message (R385). -/
def State.msixWordWrite (s : State) (fn w v : Nat) : State :=
  if w % 4 = 3 then State.msixFlush { s with msixUnmasked := SMap.set s.msixUnmasked false (256 * fn + w / 4) (!bit v 0) } fn
  else { s with msixTab := SMap.set s.msixTab 0 (1024 * fn + w) (BitVec.ofNat 32 v) }

/-- A write of `size` bytes to a target. -/
inductive WriteEnd
  | ok (t : State)
  /-- The write waits as it is; what it has done already. -/
  | held (t : State)
  | error

/-- Value and written bits of an access that begins at byte `o` of a register. -/
def regWriteArgs (o size v : Nat) : Nat × Nat := (v % 2 ^ (8 * size) * 2 ^ (8 * o), (2 ^ (8 * size) - 1) * 2 ^ (8 * o))

/-- A narrow write into the scale window takes the rest of its 32-bit word as it stands. -/
def State.portWrite (s : State) (st off size v : Nat) : State :=
  if off ≥ 0xA6000 ∧ size < 4 then
    s.windowWrite st (off / 4 * 4) 4 (putBits (s.windowRead st (off / 4 * 4) 4) (8 * (off % 4 + size) - 1) (8 * (off % 4)) v)
  else s.windowWrite st off size (v % 2 ^ (8 * size))

def State.writeTarget (s : State) (req : Requester) (gi : Nat) (t : Target) (size v : Nat) : WriteEnd :=
  match t with
  | .reg h =>
    let a := regWriteArgs h.o size v
    match s.writeReg req gi h a.1 a.2 with | some t => .ok t | none => .held (s.heldWrite gi h a.1)
  | .imem st o => .ok (if s.flag Reg.SCC_CTRL_RUN st then s else s.putBytes (imemKey st o) (leBytes v size))
  | .dmem st o => .ok (if s.flag Reg.SCC_CTRL_RUN st then s else s.putBytes (dmemKey st o) (leBytes v size))
  | .port st off => .ok (s.portWrite st off size v)
  | .msixTable fn o =>
    if size < 4 then .ok (s.msixWordWrite fn (o / 4) (putBits (s.msixWord fn (o / 4)) (8 * (o % 4 + size) - 1) (8 * (o % 4)) v))
    else
      let t := s.msixWordWrite fn (o / 4) (v % 2 ^ 32)
      .ok (if size = 8 then t.msixWordWrite fn (o / 4 + 1) (v / 2 ^ 32) else t)
  | .bad => .error
  | .wide _ => .error
  | _ => .ok s

/-! ### Who reaches what (R315, R341, R367, R371, R479) -/

/-- Status and counter registers that a tenant program reads and writes, the registers of its DMA channels, and those of the groom port. -/
def tenantRegs : List Loc :=
  [Reg.NUM_STATUS, Reg.NUM_SAT_CNT, Reg.NUM_NAN_CNT, Reg.HGU_STATUS, Reg.HGU_NAN_CNT, Reg.DEC_STATUS, Reg.DEC_DMG_CNT,
   Reg.MXE_STATUS, Reg.MXE_BUSY, Reg.MXE_REJ_CNT, Reg.MXE_ISSUE_CNT, Reg.MXE_ROW_CNT,
   Reg.VXE_STATUS, Reg.VXE_BUSY, Reg.VXE_REJ_CNT, Reg.VXE_ROW_CNT,
   Reg.ATS_STATUS, Reg.ATS_BUSY, Reg.ATS_EMPTY_CNT, Reg.ATS_INF_CNT, Reg.ATS_NAN_CNT, Reg.ATS_FAULT_CNT, Reg.ATS_SPAN_CNT,
   Reg.TMB_STATUS, Reg.TMB_BUSY, Reg.TMB_NAN_CNT, Reg.TMB_EMPTY_CNT, Reg.TMB_POISON_CNT, Reg.TMB_PARAM_CNT, Reg.TMB_HELD_CNT,
   Reg.TMB_TOKEN_CNT, Reg.TMB_ROW_CNT, Reg.SHORT_STATUS, Reg.DMA_STATUS,
   Reg.DMA_CH_CTRL, Reg.DMA_CH_PUSH, Reg.DMA_CH_CFG, Reg.DMA_CH_STATUS, Reg.DMA_CH_SPOS, Reg.DMA_CH_DPOS, Reg.DMA_CH_FAULT_ADDR,
   Reg.DMA_CH_SLOTS, Reg.DMA_CH_DONE_CNT, Reg.DMA_CH_DONE_TAG, Reg.DMA_CH_BYTES, Reg.DMA_CH_IRQ_EN,
   Reg.GRM_CTRL, Reg.GRM_ARG, Reg.GRM_STATUS, Reg.GRM_RET, Reg.GPORT_SEL, Reg.GPORT_READY, Reg.GPORT_STATUS]

/-- The registers of R367. -/
def sccTable : List Loc :=
  [Reg.SCC_CTRL, Reg.SCC_STATUS, Reg.SCC_RESET_PC, Reg.SCC_TEN_BASE, Reg.SCC_VIOL_ADDR, Reg.SCC_VIOL_CNT, Reg.SCC_FATAL, Reg.SCC_MBOX,
   Reg.DSP_CTRL, Reg.DSP_STATUS, Reg.DSP_SEQ, Reg.DSP_REJ_SEQ, Reg.DSP_REJ_OP, Reg.LATCH_STATE, Reg.SCC_INSN_CNT]

/-- The direct-queue registers, which only the physical function and the ostler reach (R390). -/
def dqTable : List Loc := [Reg.STL_DQ_CTRL, Reg.STL_DBELL, Reg.STL_DQ_HEAD, Reg.STL_DQ_DONE]

/-- What a control core or a DMA channel of stall `st` may reach; a misaligned access is an error wherever it goes (R12). -/
def unitMay (req : Requester) (st off : Nat) (t : Target) (write : Bool) : Bool :=
  let own := decide (0x300000 + 0x100000 * st ≤ off) && decide (off < 0x400000 + 0x100000 * st)
  let dev (h : RegHit) : Bool := h.loc == Reg.DEV_ID || h.loc == Reg.DEV_CAP || h.loc == Reg.DEV_TB
  let sup (h : RegHit) : Bool := !dqTable.contains h.loc &&
    (!sccTable.contains h.loc || !write || h.loc == Reg.DSP_CTRL || h.loc == Reg.SCC_STATUS)
  match req, t with
  | .fn _, _ => true
  | .ostler, _ => true
  | _, .bad => true
  | .sccSup _, _ =>
    if !own then !write && (match t with | .reg h => dev h | .wide h => dev h | _ => false)
    else (match t with
      | .reg h => sup h
      | .wide h => sup h
      | .imem _ _ => false
      | .dmem _ _ => false
      | _ => true)
  | .sccTen _, _ =>
    own && (match t with
      | .reg h => tenantRegs.contains h.loc
      | .wide h => tenantRegs.contains h.loc
      | .port _ o => decide (0xA4000 ≤ o) && decide (o < 0xA6000)
      | _ => false)
  | .dma _, _ =>
    own && (match t with
      | .reg h => h.loc == Reg.SCL_FILE
      | .wide h => h.loc == Reg.SCL_FILE
      | .port _ o => decide (0xA4000 ≤ o)
      | _ => false)

/-- The violation that a virtual function's refused access records (R373, R389). -/
def State.vfViolation (s : State) (fn off : Nat) : State :=
  let t := if s.flag Reg.FN_STATUS_VIOL 0 fn then s else s.setFld Reg.FN_VIOL_ADDR_OFFSET off 0 fn
  ((t.bump Reg.FN_VIOL_CNT_COUNT 1 0 fn).bump Reg.HIF_VIOL_CNT_COUNT 1).fnErr fn Reg.FN_STATUS_VIOL

/-- The violation that a tenant program's refused access records (R341); `addr` is the address it gave. -/
def State.tenViolation (s : State) (st addr : Nat) : State :=
  let t := if s.flag Reg.SCC_STATUS_VIOL st then s else s.wr Reg.SCC_VIOL_ADDR addr st
  (t.bump Reg.SCC_VIOL_CNT_COUNT 1 st).setFlag Reg.SCC_STATUS_VIOL st

/-- What a requester's access reaches, and whether it is refused and recorded as a violation. `off` is an offset in the requester's BAR0,
for a unit of the part in register space. -/
def State.access (s : State) (req : Requester) (off size : Nat) (write : Bool) : Target × Bool :=
  match req with
  | .ostler => (s.spaceTarget 0 off size, false)
  | .fn f =>
    if f.val = 0 then
      if 0x1800000 ≤ off ∧ off < 0x1801000 then (if off % size = 0 then .msixTable 0 (off - 0x1800000) else .bad, false)
      else if 0x1808000 ≤ off ∧ off < 0x1808020 then (if off % size = 0 then .msixPba 0 (off - 0x1808000) else .bad, false)
      else (s.spaceTarget 0 off size, false)
    else if off < 0x100000 then
      let t := s.spaceTarget f.val (0x200000 + off) size
      let own (h : RegHit) : Bool :=
        [Reg.TNT_BUDGET, Reg.TNT_REFILL, Reg.TNT_CAP, Reg.TNT_ACTIVE, Reg.TNT_LIFE, Reg.TNT_SKIP].contains h.loc && h.i == f.val - 1
      let ok := match t with
        | .ledger ix _ => !write && (s.entryOf ix).tenant == f.val - 1
        | .reg h => !write && own h
        | .wide h => !write && own h
        | .bad => true
        | _ => false
      if ok then (t, false) else (.none, true)
    else if off < 0x100100 then (s.spaceTarget 0 (0x50000 + 256 * f.val + (off - 0x100000)) size, false)
    else if 0x180000 ≤ off ∧ off < 0x180070 then (if off % size = 0 then .msixTable f.val (off - 0x180000) else .bad, false)
    else if 0x181000 ≤ off ∧ off < 0x181008 then (if off % size = 0 then .msixPba f.val (off - 0x181000) else .bad, false)
    else (.none, false)
  | .sccSup st =>
    let t := s.spaceTarget 0 off size
    if unitMay req st off t write then (t, false) else (.none, false)
  | .sccTen st =>
    let t := s.spaceTarget 0 off size
    if unitMay req st off t write then (t, false) else (.none, true)
  | .dma st =>
    let t := s.spaceTarget 0 off size
    if unitMay req st off t write then (t, false) else (.none, false)

def regSpace : Nat := 0x011000000000

/-- Records a refused access. -/
def State.violation (s : State) (req : Requester) (off : Nat) : State :=
  match req with
  | .fn f => s.vfViolation f off
  | .sccTen st => s.tenViolation st (regSpace + off)
  | _ => s

/-- GI of the groom command area that an offset of a stall block lies in. -/
def giOfOff (off : Nat) : Nat := (off - 0x300000) % 0x100000 / 256 % 256

/-- A register read: the value and the state after it, none for an error response. -/
def State.regReadAt (s : State) (req : Requester) (off size : Nat) : Option (Nat × State) :=
  let a := s.access req off size false
  (if a.2 then s.violation req off else s).readTarget req a.1 size

/-- A register write. -/
def State.regWriteAt (s : State) (req : Requester) (off size v : Nat) : WriteEnd :=
  let a := s.access req off size true
  (if a.2 then s.violation req off else s).writeTarget req (giOfOff off) a.1 size v

/-- A requester whose access reaches the part: a function that exists and answers, once the part has booted (R368, R440); the ostler, out of
cold reset; the units of the part. -/
def State.reaches (s : State) (req : Requester) : Bool :=
  match req with
  | .fn f => s.booted && s.fnExists f && s.fnAnswers f
  | .ostler => !s.board.cold
  | _ => true

/-- A read that a boot answers before it has ended: the PF's of the device block from 60 ms on (R440). -/
def State.bootReads (s : State) (req : Requester) (off : Nat) : Bool :=
  match req with
  | .fn f => f.val == 0 && s.booting && decide (s.tb.toNat ≥ bootAnswers) && decide (off < 0x100000)
  | _ => false

/-- REG_WRITE. A posted write to a function that does not answer is dropped; one that is held is tried again. -/
def execRegWrite (req : Requester) (off : BitVec 32) (size : Nat) (v : Dword) (s : State) : Host.Outcome State Fault Refusal :=
  if !s.reaches req then .next s
  else match s.regWriteAt req off.toNat size v.toNat with
    | .ok t => done s (pins s t)
    | .held t => done s t
    | .error => .next (s.emit (.regError req off.toNat))

/-- REG_READ: the value goes to the requester. With POWERDOWN_READY set nothing else changes (R446). -/
def execRegRead (req : Requester) (off : BitVec 32) (size : Nat) (s : State) : Host.Outcome State Fault Refusal :=
  if !s.reaches req && !s.bootReads req off.toNat then
    .next (match req with | .fn f => (s.aerErr f aerUnsupported).emit (.unsupported f) | _ => s.emit (.regError req off.toNat))
  else match s.regReadAt req off.toNat size with
    | some x => .next ((if s.shut then s else x.2).emit (.regValue req off.toNat (BitVec.ofNat 64 x.1)))
    | none => .next (s.emit (.regError req off.toNat))

end Sys2Proof.Machine
end

