-- ==== Sys2Proof/Machine/Scc.lean ====
section
/-! DEFINITION. The stall control core (13_control_core.md R338 to R346, R350, R354 to R366): its addresses, its loops and delay slots, its
exceptions and interrupts, its store buffer. Its instructions are in Machine/SccInsns.lean. -/
namespace Sys2Proof.Machine

/-! ### General registers and the requester -/

/-- x0 reads as zero (R338). -/
def State.xreg (s : State) (st : Nat) (r : XReg) : Dword := if r.val = 0 then 0 else SMap.get (s.sccOf st).gpr 0 r.val
/-- Writes to x0 are discarded. -/
def State.setX (s : State) (st : Nat) (r : XReg) (v : Dword) : State :=
  if r.val = 0 then s else s.putScc st { s.sccOf st with gpr := SMap.set (s.sccOf st).gpr 0 r.val v }

/-- Supervisor mode. -/
def State.sup (s : State) (st : Nat) : Bool := s.flag Reg.SCC_STATUS_MODE st
def sccReq (st : Stall) (sup : Bool) : Requester := if sup then .sccSup st else .sccTen st

/-! ### Addresses (R340) -/

/-- What a 64-bit address of the core names. -/
inductive SccPlace
  | dmem (o : Nat)
  | dev (view : Bool) (a : Nat)
  | bad

def sccPlace (addr : Dword) : SccPlace :=
  let a := addr.toNat
  if 2 ^ 63 ≤ a then (if a - 2 ^ 63 < 0x10000 then .dmem (a - 2 ^ 63) else .bad)
  else if a % 2 ^ 62 / 2 ^ 48 ≠ 0 then .bad
  else .dev (bit a 62) (a % 2 ^ 48)

/-- Offsets of DMEM in the reach of the mode. -/
def State.dmemMay (s : State) (st o : Nat) : Bool := s.sup st || decide (4 * s.fld Reg.SCC_TEN_BASE_DBASE st ≤ o)

/-- What an access of the core reaches: DMEM, a register, memory; a register that a tenant program may not reach; nothing. -/
inductive SccReach
  | dmem (o : Nat)
  | reg (off : Nat)
  | mem (view : Bool) (a : Nat)
  | forbidden (off : Nat)
  | bad

def State.sccReach (s : State) (st : Stall) (addr : Dword) (size : Nat) (write : Bool) : SccReach :=
  match sccPlace addr with
  | .bad => .bad
  | .dmem o => if s.dmemMay st o then .dmem o else .bad
  | .dev view a =>
    match s.place view (a / 64 * 64) with
    | .reg _ =>
      let off := a - regSpace
      let x := s.access (sccReq st (s.sup st)) off size write
      if x.2 then .forbidden off else match x.1 with | .bad => .bad | .wide _ => .bad | _ => .reg off
    | .stb t _ => if (if s.sup st then s.samePaddock st t else t == st.val) then .mem view a else .bad
    | .dram _ _ => if s.sup st || s.inRegions st view a then .mem view a else .bad
    | .tier _ _ => if s.sup st || s.inRegions st view a then .mem view a else .bad
    | _ => .bad

/-! ### Hardware loops (R342, R344 to R346) -/

/-- The bank of the mode. -/
def Scc.loops (c : Scc) (sup : Bool) : SMap LoopSet := if sup then c.loopsSup else c.loopsTen
def Scc.putLoops (c : Scc) (sup : Bool) (b : SMap LoopSet) : Scc := if sup then { c with loopsSup := b } else { c with loopsTen := b }

/-- `p` is the last instruction of an active loop. -/
def lastOfLoop (b : SMap LoopSet) (p : Dword) : Bool :=
  (List.range 3).any fun n => let l := SMap.get b {} n; l.count != 0 && l.last == p

/-- The loop-back of R345 at address `p`, over the loops listed: the next PC and the bank. -/
def loopBack (p : Dword) : List Nat → SMap LoopSet → Dword × SMap LoopSet
  | [], b => (p + 4, b)
  | n :: r, b =>
    let l := SMap.get b {} n
    if l.count ≠ 0 ∧ l.last = p then
      if l.count.toNat > 1 then (l.start, SMap.set b {} n { l with count := l.count - 1 })
      else loopBack p r (SMap.set b {} n { l with count := 0 })
    else loopBack p r b

/-- A taken branch ends the active loops whose body does not hold its target. -/
def endLoops (b : SMap LoopSet) (target : Dword) : SMap LoopSet :=
  (List.range 3).foldl (fun u n =>
    let l := SMap.get u {} n
    if l.count ≠ 0 ∧ ¬(l.start.toNat ≤ target.toNat ∧ target.toNat ≤ l.last.toNat) then SMap.set u {} n { l with count := 0 } else u) b

/-! ### Exceptions (R358 to R362, R364, R366) -/

def excIllegal : Nat := 1
def excPriv : Nat := 2
def excFetch : Nat := 3
def excMisalign : Nat := 4
def excAccess : Nat := 5
def excPoison : Nat := 6
def excTrap : Nat := 7
def excBreak : Nat := 8
def excReject : Nat := 0x10
def excEngine : Nat := 0x11
def excTimer : Nat := 0x12
def excOstler : Nat := 0x13

/-- IE as last written, in force or not yet (R363). -/
def Scc.ieNow (c : Scc) : Bool := match c.ieLater with | some (v, _) => v | none => c.ie

/-- Exception entry, the store buffer empty (R360). -/
def State.sccEnter (s : State) (st : Nat) (cause info : Nat) (pc : Dword) (inSlot : Bool) : State :=
  let c := s.sccOf st
  let t := s.putScc st {
    c with
    prevSup := s.sup st, prevIe := c.ieNow, ie := false, ieLater := none, inTrap := true, inSlot := inSlot,
    trapPc := pc, trapCause := BitVec.ofNat 64 cause, trapInfo := BitVec.ofNat 64 info,
    pc := c.trapEntry, slot := none, afterTret := false, shortWait := none }
  (t.setFlag Reg.SCC_STATUS_MODE st).setFld Reg.SCC_STATUS_WAITING 0 st

/-- A fatal halt: logged, and at the third within 1 s a stall of a paddock is lost (R361, R435, R452). -/
def State.sccFatal (s : State) (st cause : Nat) (pc : Dword) : State :=
  let t := ((s.sccHalted st).setFlag Reg.SCC_STATUS_FATAL st).wr Reg.SCC_FATAL (cause + pc.toNat % 2 ^ 16 * 2 ^ 16) st
  let t := t.fault 0x07 1 st (t.rd Reg.SCC_FATAL st)
  let near := (t.board.fatals.filter fun x => x.1 == st && decide (t.tb.toNat < x.2.toNat + 1000000000)).length
  let t := { t with board := { t.board with fatals := t.board.fatals ++ [(st, t.tb)] } }
  match t.paddockOf st with
  | some p => if near ≥ 2 then t.stallLost p st else t
  | none => if near ≥ 2 then (t.stallListed (t.fld Reg.STL_INFO_PADDOCK st) st).resetStall st else t

/-- A synchronous exception of the instruction at the PC; one in a delay slot belongs to its branch (R364). With IN_TRAP set it is fatal.
`t` is what the access that failed left behind; nothing happens while the store buffer drains. -/
def State.sccRaise (s t : State) (st cause info : Nat) : State :=
  let c := s.sccOf st
  if !c.stores.isEmpty then s
  else
    let at_ : Dword × Bool := match c.slot with | some x => (x.branchPc, true) | none => (c.pc, false)
    if c.inTrap then t.sccFatal st cause at_.1 else t.sccEnter st cause info at_.1 at_.2

/-- The interrupts that are pending and whose bit of INT_MASK, by cause code, is 1: the lowest, with its TRAP_INFO (R358, R363). -/
def State.sccPending (s : State) (st : Nat) : Option (Nat × Nat) :=
  let c := s.sccOf st
  let on (k : Nat) : Bool := bit c.intMask.toNat k
  if c.rejPending && on excReject then some (excReject, s.rd Reg.DSP_REJ_SEQ st)
  else if s.irqSum st != 0 && on excEngine then some (excEngine, 0)
  else if decide (c.tbAlarm.toNat ≤ s.tb.toNat) && on excTimer then some (excTimer, s.tb.toNat)
  else if c.mboxPending && on excOstler then some (excOstler, 0)
  else none

/-- The core executes: its stall is there, it runs and is not halting. -/
def State.sccRuns (s : State) (st : Nat) : Bool :=
  s.stallUp st && s.flag Reg.SCC_STATUS_RUNNING st && !(s.sccOf st).halting

/-- The interrupt of INTERRUPT_TAKE, at a boundary that R363 allows. A rejection and a mailbox message are pending until taken. -/
def State.sccInterrupt (s : State) (st : Nat) : State :=
  let c := s.sccOf st
  if !s.sccRuns st || !c.ie || c.inTrap || c.slot.isSome || c.afterTret || !c.stores.isEmpty then s
  else match s.sccPending st with
    | none => s
    | some (cause, info) =>
      let c := { c with rejPending := c.rejPending && cause != excReject, mboxPending := c.mboxPending && cause != excOstler }
      (s.putScc st c).sccEnter st cause info c.pc false

/-! ### One instruction -/

/-- How an instruction ends. -/
inductive SccEnd
  /-- It completes; R345 gives the next PC. -/
  | next (t : State)
  /-- It completes at another next PC (a LOOP of no passes). -/
  | skip (t : State) (pc : Dword)
  /-- A branch or jump completes: taken to a target, or not; its delay slot comes next. -/
  | branch (t : State) (target : Option Dword)
  /-- It waits (R363). -/
  | wait (t : State)
  /-- It is held at issue. -/
  | hold
  | trap (t : State) (cause info : Nat)
  /-- TRET. -/
  | ret

/-- What R343 asks about an instruction: `ctl` may stand in no delay slot and end no active loop, `slotted` has a delay slot, `bad` is an
encoding that is not listed, `priv` belongs to supervisor mode. -/
structure SccKind where
  ctl : Bool := false
  slotted : Bool := false
  bad : Bool := false
  priv : Bool := false

def kPlain : SccKind := {}
def kBranch : SccKind := { ctl := true, slotted := true }
def kCtl : SccKind := { ctl := true }
def kPriv : SccKind := { priv := true }

/-- An IE written by SYSW comes one boundary nearer (R363). -/
def Scc.ieStep (c : Scc) : Scc :=
  match c.ieLater with
  | some (v, n) => if n ≤ 1 then { c with ie := v, ieLater := none } else { c with ieLater := some (v, n - 1) }
  | none => c

/-- What completing an instruction does to the core beside its PC. -/
def Scc.counted (c : Scc) : Scc := { c.ieStep with afterTret := false, shortWait := none }

/-- An instruction has completed: counted, the wait over. -/
def State.sccCount (s : State) (st : Nat) : State :=
  ((s.putScc st (s.sccOf st).counted).count Reg.SCC_INSN_CNT_COUNT 1 st).setFld Reg.SCC_STATUS_WAITING 0 st

/-- The next PC after an instruction that is no branch, and the bank: the target of the branch before it, or as R345 says. -/
def Scc.nextPc (c : Scc) (sup : Bool) : Dword × SMap LoopSet :=
  match c.slot with
  | some ⟨_, some tgt⟩ => (tgt, endLoops (c.loops sup) tgt)
  | _ => loopBack c.pc [2, 1, 0] (c.loops sup)

def Scc.advance (c : Scc) (sup : Bool) : Scc := { c with pc := (c.nextPc sup).1, slot := none }.putLoops sup (c.nextPc sup).2

def State.sccAdvance (s : State) (st : Nat) : State := s.putScc st ((s.sccOf st).advance (s.sup st))

/-- TRET, the store buffer empty (R362). -/
def State.sccTret (s : State) (st : Nat) : State :=
  let t := s.sccCount st
  let c := t.sccOf st
  (t.putScc st { c with ie := c.prevIe, ieLater := none, inTrap := false, pc := c.trapPc, slot := none, afterTret := true }).setFld
    Reg.SCC_STATUS_MODE (if c.prevSup then 1 else 0) st

/-- The word fetched at the PC. -/
def State.sccWord (s : State) (st : Nat) : Nat := leAt (s.bytes (imemKey st (s.sccOf st).pc.toNat) 4) 0 4

/-- The PC can be fetched from (R340, R358). -/
def State.sccFetch (s : State) (st : Nat) : Bool :=
  let pc := (s.sccOf st).pc.toNat
  pc % 4 == 0 && decide (pc < 0x10000) && (s.sup st || decide (4 * s.fld Reg.SCC_TEN_BASE_IBASE st ≤ pc))

/-- R343 forbids the instruction where it stands. -/
def State.sccIllegal (s : State) (st : Nat) (k : SccKind) : Bool :=
  let c := s.sccOf st
  let b := c.loops (s.sup st)
  k.bad || (k.ctl && (c.slot.isSome || lastOfLoop b c.pc)) || (k.slotted && lastOfLoop b (c.pc + 4))

/-- An instruction's end carried out on the core. -/
def State.sccFinish (s : State) (st : Nat) (e : SccEnd) : State :=
  match e with
  | .next t => (t.sccCount st).sccAdvance st
  | .skip t pc => let u := t.sccCount st; u.putScc st { u.sccOf st with pc := pc, slot := none }
  | .branch t target =>
    let u := t.sccCount st
    let c := u.sccOf st
    u.putScc st { c with pc := c.pc + 4, slot := some ⟨c.pc, target⟩ }
  | .wait t => t.setFlag Reg.SCC_STATUS_WAITING st
  | .hold => s
  | .trap t cause info => s.sccRaise t st cause info
  | .ret => if (s.sccOf st).stores.isEmpty then s.sccTret st else s

/-- The instruction at the PC, its encoding's word for TRAP_INFO: the checks of R358 in the order of their codes, then its body. -/
def State.sccInsn (s : State) (st : Nat) (k : SccKind) (word : Nat) (body : State → SccEnd) : State :=
  if !s.sccRuns st then s
  else if !s.sccFetch st then s.sccRaise s st excFetch (s.sccOf st).pc.toNat
  else if s.sccIllegal st k then s.sccRaise s st excIllegal word
  else if k.priv && !s.sup st then s.sccRaise s st excPriv word
  else s.sccFinish st (body s)

/-- A row that gives one instruction. -/
def State.sccRow (s : State) (st : Nat) (k : SccKind) (body : State → SccEnd) : Host.Outcome State Fault Refusal :=
  done s (s.sccInsn st k (s.sccWord st) body)

/-! ### Loads and stores (R340, R358, R365) -/

def signExt (size v : Nat) : Dword := (BitVec.ofNat (8 * size) v).signExtend 64

/-- What the line of a device address is, through either view (R187). -/
def State.linePlace (s : State) (view : Bool) (a : Nat) : LineRef := s.place view (a / 64 * 64)

/-- A store to line `r` is buffered: a load passes stores to other lines alone (R365, R187; notes/assumptions/22.md). -/
def State.storeAhead (s : State) (st : Nat) (r : LineRef) : Bool :=
  (s.sccOf st).stores.any fun e => match sccPlace e.addr with | .dev v b => s.linePlace v b == r | _ => false

/-- A load: the state after the access and the value, a hold, or a trap. A line of a channel that takes no request holds it
(notes/assumptions/71.md). -/
def State.sccLoad (s : State) (st : Stall) (rd : XReg) (addr : Dword) (size : Nat) (ext : Nat → Dword) : SccEnd :=
  let c := s.sccOf st
  if addr.toNat % size ≠ 0 then .trap s excMisalign addr.toNat
  else match s.sccReach st addr size false with
    | .bad => .trap s excAccess addr.toNat
    | .dmem o => .next (s.setX st rd (ext (leAt (s.bytes (dmemKey st o) size) 0 size)))
    | .forbidden _ => if c.stores.isEmpty then .next ((s.tenViolation st addr.toNat).setX st rd 0) else .hold
    | .reg off =>
      if !c.stores.isEmpty then .hold
      else match s.regReadAt (sccReq st (s.sup st)) off size with
        | some x => .next (x.2.setX st rd (ext x.1))
        | none => .trap s excAccess addr.toNat
    | .mem view a =>
      if s.storeAhead st (s.linePlace view a) || !s.lineReady false (s.linePlace view a) then .hold
      else match s.devRead view a size 2 with
        | none => .trap s excAccess addr.toNat
        | some (t, l, poison) =>
          let t := t.lineServed false (s.linePlace view a)
          if poison then .trap t excPoison addr.toNat else .next (t.setX st rd (ext (leAt l 0 size)))

def storeCap : Nat := 64

/-- A store: into DMEM at once, else into the store buffer where it has room. -/
def State.sccStore (s : State) (st : Stall) (src : XReg) (addr : Dword) (size : Nat) : SccEnd :=
  let c := s.sccOf st
  let v := s.xreg st src
  if addr.toNat % size ≠ 0 then .trap s excMisalign addr.toNat
  else match s.sccReach st addr size true with
    | .bad => .trap s excAccess addr.toNat
    | .dmem o => .next (s.putBytes (dmemKey st o) (leBytes v.toNat size))
    | .forbidden _ => .next (s.tenViolation st addr.toNat)
    | _ =>
      if c.stores.length ≥ storeCap then .hold
      else .next (s.putScc st { c with stores := c.stores ++ [⟨addr, size, v, s.sup st⟩] })

/-- The effect of a store that is to leave the buffer, and whether its destination accepts it: a channel that takes no request does not, nor
does a register whose write is held (notes/assumptions/71.md). -/
def State.storeLand (s : State) (st : Stall) (e : StoreEntry) : State × Bool :=
  match sccPlace e.addr with
  | .dev view a =>
    match s.linePlace view a with
    | .reg _ =>
      match s.regWriteAt (sccReq st e.sup) (a - regSpace) e.size e.value.toNat with
      | .ok t => (t, true)
      | .held t => (t, false)
      | .error => (s, true)
    | r => if s.lineReady true r then (((s.devWrite view a (leBytes e.value.toNat e.size) 2).getD s).lineServed true r, true) else (s, false)
  | _ => (s, true)

/-- The oldest entry has left; the last one lets a halt complete, and a RUN held behind it (R447). -/
def State.storeGone (s : State) (st : Stall) : State :=
  let c := s.sccOf st
  let u := s.putScc st { c with stores := c.stores.drop 1 }
  if c.halting && (c.stores.drop 1).isEmpty then
    let h := u.sccHalted st
    if c.heldRun then h.sccStart st else h
  else u

/-- STORE_BUFFER_LEAVE: the oldest entry. -/
def State.storeLeave (s : State) (st : Stall) : State :=
  match (s.sccOf st).stores with
  | [] => s
  | e :: _ => let x := s.storeLand st e; if x.2 then x.1.storeGone st else x.1

end Sys2Proof.Machine
end

