-- ==== Sys2Proof/Machine/SccInsns.lean ====
section
/-! DEFINITION. The instructions of the stall control core (13_control_core.md, "Instructions"), its interrupts, its timer, its mailbox and
the store buffer's exit. -/
namespace Sys2Proof.Machine

/-! ### Integer -/

def State.src2 (s : State) (st : Nat) (b : Src2) : Dword :=
  match b with | .reg r => s.xreg st r | .imm i => i.signExtend 64

/-- A word in bits [31:0]; the manual does not give bits [63:32] of a word form's result: free (notes/assumptions/50.md). -/
def State.setW (s : State) (st : Nat) (rd : XReg) (w : Word) : State := (s.setX st rd (s.freeVal.extractLsb' 32 32 ++ w)).tick

/-- An operation at 64 bits, or at 32 in the word form; none is a result that the manual does not give: free. -/
def State.sccAlu (s : State) (st : Nat) (word : Bool) (rd rs : XReg) (b : Src2) (f : (w : Nat) → BitVec w → BitVec w → Option (BitVec w)) :
    SccEnd :=
  let x := s.xreg st rs
  let y := s.src2 st b
  let free := (s.setX st rd s.freeVal).tick
  if word then
    match f 32 (x.setWidth 32) (y.setWidth 32) with
    | some r => .next (s.setW st rd r)
    | none => .next free
  else match f 64 x y with
    | some r => .next (s.setX st rd r)
    | none => .next free

/-- A shift by the width or more has no stated result. -/
def shiftBy {w : Nat} (b r : BitVec w) : Option (BitVec w) := if b.toNat < w then some r else none

def execIadd (st : Stall) (word : Bool) (rd rs : XReg) (b : Src2) (s : State) : Host.Outcome State Fault Refusal :=
  s.sccRow st kPlain fun t => t.sccAlu st word rd rs b fun _ x y => some (x + y)
def execIsub (st : Stall) (word : Bool) (rd rs : XReg) (b : Src2) (s : State) : Host.Outcome State Fault Refusal :=
  s.sccRow st kPlain fun t => t.sccAlu st word rd rs b fun _ x y => some (x - y)
def execIand (st : Stall) (word : Bool) (rd rs : XReg) (b : Src2) (s : State) : Host.Outcome State Fault Refusal :=
  s.sccRow st kPlain fun t => t.sccAlu st word rd rs b fun _ x y => some (x &&& y)
def execIor (st : Stall) (word : Bool) (rd rs : XReg) (b : Src2) (s : State) : Host.Outcome State Fault Refusal :=
  s.sccRow st kPlain fun t => t.sccAlu st word rd rs b fun _ x y => some (x ||| y)
def execIxor (st : Stall) (word : Bool) (rd rs : XReg) (b : Src2) (s : State) : Host.Outcome State Fault Refusal :=
  s.sccRow st kPlain fun t => t.sccAlu st word rd rs b fun _ x y => some (x ^^^ y)
def execShl (st : Stall) (word : Bool) (rd rs : XReg) (b : Src2) (s : State) : Host.Outcome State Fault Refusal :=
  s.sccRow st kPlain fun t => t.sccAlu st word rd rs b fun _ x y => shiftBy y (x <<< y.toNat)
def execShr (st : Stall) (word : Bool) (rd rs : XReg) (b : Src2) (s : State) : Host.Outcome State Fault Refusal :=
  s.sccRow st kPlain fun t => t.sccAlu st word rd rs b fun _ x y => shiftBy y (x >>> y.toNat)
def execShra (st : Stall) (word : Bool) (rd rs : XReg) (b : Src2) (s : State) : Host.Outcome State Fault Refusal :=
  s.sccRow st kPlain fun t => t.sccAlu st word rd rs b fun _ x y => shiftBy y (x.sshiftRight y.toNat)

/-- A truth value in a register. -/
def b2d (b : Bool) : Dword := if b then 1 else 0

/-- A comparison, on the low words in the word form. -/
def State.sccCmp (s : State) (st : Nat) (word : Bool) (rd rs : XReg) (b : Src2) (f : (w : Nat) → BitVec w → BitVec w → Bool) : SccEnd :=
  let x := s.xreg st rs
  let y := s.src2 st b
  .next (s.setX st rd (b2d (if word then f 32 (x.setWidth 32) (y.setWidth 32) else f 64 x y)))

def execCmplt (st : Stall) (word : Bool) (rd rs : XReg) (b : Src2) (s : State) : Host.Outcome State Fault Refusal :=
  s.sccRow st kPlain fun t => t.sccCmp st word rd rs b fun _ x y => x.slt y
def execCmpltu (st : Stall) (word : Bool) (rd rs : XReg) (b : Src2) (s : State) : Host.Outcome State Fault Refusal :=
  s.sccRow st kPlain fun t => t.sccCmp st word rd rs b fun _ x y => x.ult y

/-- IMMH keeps the other half. -/
def execImmh (st : Stall) (rd : XReg) (high : Bool) (imm : Word) (s : State) : Host.Outcome State Fault Refusal :=
  s.sccRow st kPlain fun t =>
    let x := t.xreg st rd
    .next (t.setX st rd (if high then imm ++ x.setWidth 32 else x.extractLsb' 32 32 ++ imm))

/-! ### Multiply and divide: no flag -/

def State.sccBin (s : State) (st : Nat) (rd a b : XReg) (f : Dword → Dword → Dword) : SccEnd :=
  .next (s.setX st rd (f (s.xreg st a) (s.xreg st b)))

def execImul (st : Stall) (rd a b : XReg) (s : State) : Host.Outcome State Fault Refusal :=
  s.sccRow st kPlain fun t => t.sccBin st rd a b fun x y => x * y
def execImulh (st : Stall) (rd a b : XReg) (s : State) : Host.Outcome State Fault Refusal :=
  s.sccRow st kPlain fun t => t.sccBin st rd a b fun x y => BitVec.ofInt 64 (x.toInt * y.toInt / 2 ^ 64)
def execImulhu (st : Stall) (rd a b : XReg) (s : State) : Host.Outcome State Fault Refusal :=
  s.sccRow st kPlain fun t => t.sccBin st rd a b fun x y => BitVec.ofNat 64 (x.toNat * y.toNat / 2 ^ 64)
/-- The quotient is rounded toward zero (notes/assumptions/51.md); by zero it is zero, and the most negative value by −1 is the dividend. -/
def execIdiv (st : Stall) (rd a b : XReg) (s : State) : Host.Outcome State Fault Refusal :=
  s.sccRow st kPlain fun t => t.sccBin st rd a b fun x y => x.sdiv y
def execIdivu (st : Stall) (rd a b : XReg) (s : State) : Host.Outcome State Fault Refusal :=
  s.sccRow st kPlain fun t => t.sccBin st rd a b fun x y => x / y
/-- The remainder by zero is the dividend. -/
def execImod (st : Stall) (rd a b : XReg) (s : State) : Host.Outcome State Fault Refusal :=
  s.sccRow st kPlain fun t => t.sccBin st rd a b fun x y => x.srem y
def execImodu (st : Stall) (rd a b : XReg) (s : State) : Host.Outcome State Fault Refusal :=
  s.sccRow st kPlain fun t => t.sccBin st rd a b fun x y => x % y

/-! ### FP32 -/

/-- A comparison of the low words: with a NaN it gives 0. -/
def State.sccFcmp (s : State) (st : Nat) (rd a b : XReg) (f : Word → Word → Bool) : SccEnd :=
  let x := (s.xreg st a).setWidth 32
  let y := (s.xreg st b).setWidth 32
  .next (s.setX st rd (b2d (!f32IsNan x && !f32IsNan y && f x y)))

def execFcmplt (st : Stall) (rd a b : XReg) (s : State) : Host.Outcome State Fault Refusal :=
  s.sccRow st kPlain fun t => t.sccFcmp st rd a b f32Lt
def execFcmple (st : Stall) (rd a b : XReg) (s : State) : Host.Outcome State Fault Refusal :=
  s.sccRow st kPlain fun t => t.sccFcmp st rd a b f32Le
def execFcmpeq (st : Stall) (rd a b : XReg) (s : State) : Host.Outcome State Fault Refusal :=
  s.sccRow st kPlain fun t => t.sccFcmp st rd a b f32Eq

/-- An FP32 word as a signed 32-bit integer, rounded to nearest with ties to even. -/
def f2iWord (w : Word) : Word :=
  match f32Dec w with
  | .nan => 0
  | .inf neg => if neg then 0x80000000#32 else 0x7FFFFFFF#32
  | .fin neg m e =>
    let n := roundTo false m e 0
    if neg then BitVec.ofInt 32 (-(min n (2 ^ 31) : Nat)) else BitVec.ofNat 32 (min n (2 ^ 31 - 1))

def execF2i (st : Stall) (rd a : XReg) (s : State) : Host.Outcome State Fault Refusal :=
  s.sccRow st kPlain fun t => .next (t.setW st rd (f2iWord ((t.xreg st a).setWidth 32)))

/-- A signed 32-bit integer as an FP32 word, rounded once. -/
def i2fWord (w : Word) : Word := f32Enc (.fin w.msb w.toInt.natAbs 0)

def execI2f (st : Stall) (rd a : XReg) (s : State) : Host.Outcome State Fault Refusal :=
  s.sccRow st kPlain fun t => .next (t.setW st rd (i2fWord ((t.xreg st a).setWidth 32)))

/-! ### Loads and stores -/

def execLd8 (st : Stall) (rd base : XReg) (off : Dword) (s : State) : Host.Outcome State Fault Refusal :=
  s.sccRow st kPlain fun t => t.sccLoad st rd (t.xreg st base + off) 1 (signExt 1)
def execLd16 (st : Stall) (rd base : XReg) (off : Dword) (s : State) : Host.Outcome State Fault Refusal :=
  s.sccRow st kPlain fun t => t.sccLoad st rd (t.xreg st base + off) 2 (signExt 2)
def execLd32 (st : Stall) (rd base : XReg) (off : Dword) (s : State) : Host.Outcome State Fault Refusal :=
  s.sccRow st kPlain fun t => t.sccLoad st rd (t.xreg st base + off) 4 (signExt 4)
def execLd64 (st : Stall) (rd base : XReg) (off : Dword) (s : State) : Host.Outcome State Fault Refusal :=
  s.sccRow st kPlain fun t => t.sccLoad st rd (t.xreg st base + off) 8 (BitVec.ofNat 64)
def execLd8u (st : Stall) (rd base : XReg) (off : Dword) (s : State) : Host.Outcome State Fault Refusal :=
  s.sccRow st kPlain fun t => t.sccLoad st rd (t.xreg st base + off) 1 (BitVec.ofNat 64)
def execLd16u (st : Stall) (rd base : XReg) (off : Dword) (s : State) : Host.Outcome State Fault Refusal :=
  s.sccRow st kPlain fun t => t.sccLoad st rd (t.xreg st base + off) 2 (BitVec.ofNat 64)
def execLd32u (st : Stall) (rd base : XReg) (off : Dword) (s : State) : Host.Outcome State Fault Refusal :=
  s.sccRow st kPlain fun t => t.sccLoad st rd (t.xreg st base + off) 4 (BitVec.ofNat 64)
def execSt8 (st : Stall) (src base : XReg) (off : Dword) (s : State) : Host.Outcome State Fault Refusal :=
  s.sccRow st kPlain fun t => t.sccStore st src (t.xreg st base + off) 1
def execSt16 (st : Stall) (src base : XReg) (off : Dword) (s : State) : Host.Outcome State Fault Refusal :=
  s.sccRow st kPlain fun t => t.sccStore st src (t.xreg st base + off) 2
def execSt32 (st : Stall) (src base : XReg) (off : Dword) (s : State) : Host.Outcome State Fault Refusal :=
  s.sccRow st kPlain fun t => t.sccStore st src (t.xreg st base + off) 4
def execSt64 (st : Stall) (src base : XReg) (off : Dword) (s : State) : Host.Outcome State Fault Refusal :=
  s.sccRow st kPlain fun t => t.sccStore st src (t.xreg st base + off) 8

/-! ### Branches and jumps (R338, R342) -/

def State.sccPc (s : State) (st : Nat) : Dword := (s.sccOf st).pc

def State.sccBr (s : State) (st : Nat) (a b : XReg) (off : Dword) (f : Dword → Dword → Bool) : SccEnd :=
  .branch s (if f (s.xreg st a) (s.xreg st b) then some (s.sccPc st + off) else none)

def execBrEq (st : Stall) (a b : XReg) (off : Dword) (s : State) : Host.Outcome State Fault Refusal :=
  s.sccRow st kBranch fun t => t.sccBr st a b off fun x y => x == y
def execBrNe (st : Stall) (a b : XReg) (off : Dword) (s : State) : Host.Outcome State Fault Refusal :=
  s.sccRow st kBranch fun t => t.sccBr st a b off fun x y => x != y
def execBrLt (st : Stall) (a b : XReg) (off : Dword) (s : State) : Host.Outcome State Fault Refusal :=
  s.sccRow st kBranch fun t => t.sccBr st a b off fun x y => x.slt y
def execBrGe (st : Stall) (a b : XReg) (off : Dword) (s : State) : Host.Outcome State Fault Refusal :=
  s.sccRow st kBranch fun t => t.sccBr st a b off fun x y => !x.slt y
def execBrLtu (st : Stall) (a b : XReg) (off : Dword) (s : State) : Host.Outcome State Fault Refusal :=
  s.sccRow st kBranch fun t => t.sccBr st a b off fun x y => x.ult y
def execBrGeu (st : Stall) (a b : XReg) (off : Dword) (s : State) : Host.Outcome State Fault Refusal :=
  s.sccRow st kBranch fun t => t.sccBr st a b off fun x y => !x.ult y
def execGoto (st : Stall) (off : Dword) (s : State) : Host.Outcome State Fault Refusal :=
  s.sccRow st kBranch fun t => .branch t (some (t.sccPc st + off))
/-- The link is the address after the delay slot. -/
def execCall (st : Stall) (rd : XReg) (off : Dword) (s : State) : Host.Outcome State Fault Refusal :=
  s.sccRow st kBranch fun t => .branch (t.setX st rd (t.sccPc st + 8)) (some (t.sccPc st + off))
def execJumpr (st : Stall) (rs : XReg) (s : State) : Host.Outcome State Fault Refusal :=
  s.sccRow st kBranch fun t => .branch t (some (t.xreg st rs))
/-- R343: a CALLR whose link register is its base register is illegal. -/
def execCallr (st : Stall) (rd rs : XReg) (s : State) : Host.Outcome State Fault Refusal :=
  s.sccRow st { kBranch with bad := rd == rs } fun t => .branch (t.setX st rd (t.sccPc st + 8)) (some (t.xreg st rs))

/-! ### LOOP (R344) -/

/-- `last` is the PC-relative offset of the body's last instruction, whole instructions up to 16 KiB ahead; no other can be encoded. -/
def execLoop (st : Stall) (n : LoopIx) (rs : XReg) (last : Dword) (s : State) : Host.Outcome State Fault Refusal :=
  s.sccRow st { kCtl with bad := decide (last.toNat > 16384) || last.toNat % 4 != 0 } fun t =>
    let c := t.sccOf st
    let l : LoopSet := ⟨(t.xreg st rs).setWidth 32, c.pc + 4, c.pc + last⟩
    let u := t.putScc st (c.putLoops (t.sup st) (SMap.set (c.loops (t.sup st)) {} n.val l))
    if l.count = 0 then .skip u (l.last + 4) else .next u

/-! ### Summaries (R357) -/

/-- Waits for VALID of a slot. -/
def State.sccSumm (s : State) (st slot : Nat) (e : SccEnd) : SccEnd := if s.summValid st slot then e else .wait s
/-- The flag byte of a slot. -/
def State.summByte (s : State) (st slot : Nat) : Nat := bits (s.rd Reg.SUMM_FLAGS st) (8 * slot + 7) (8 * slot)

def execSumr (st : Stall) (rd : XReg) (slot : Fin 8) (s : State) : Host.Outcome State Fault Refusal :=
  s.sccRow st kPlain fun t => t.sccSumm st slot (.next (t.setX st rd (BitVec.ofNat 64 (t.rd Reg.SUMM st slot))))
def execSumf (st : Stall) (rd : XReg) (slot : Fin 8) (s : State) : Host.Outcome State Fault Refusal :=
  s.sccRow st kPlain fun t => t.sccSumm st slot (.next (t.setX st rd (BitVec.ofNat 64 (t.summByte st slot))))
def execBsum (st : Stall) (slot : Fin 8) (mask : Byte) (off : Dword) (s : State) : Host.Outcome State Fault Refusal :=
  s.sccRow st kBranch fun t =>
    t.sccSumm st slot (.branch t (if t.summByte st slot &&& bits mask.toNat 5 0 = 0 then none else some (t.sccPc st + off)))

/-! ### Issue (R350, R355, R356) -/

/-- The memory that holds a record of the core, as the key of its first byte and the bytes from there to the end of the memory. -/
def State.recordPlace (s : State) (st : Stall) (addr : Dword) : Option (Nat × Nat) :=
  match sccPlace addr with
  | .dmem o => if s.dmemMay st o then some (dmemKey st o, 0x10000 - o) else none
  | .dev false a =>
    match s.place false (a / 64 * 64) with
    | .stb t _ => if t = st.val then some (stbKey st (a % 2 ^ 24), 2 ^ 24 - a % 2 ^ 24) else none
    | _ => none
  | _ => none

/-- CMD. -/
def execCmd (st : Stall) (rs : XReg) (s : State) : Host.Outcome State Fault Refusal :=
  s.sccRow st kPlain fun t =>
    let addr := t.xreg st rs
    match t.recordPlace st addr with
    | none => .trap t excAccess addr.toNat
    | some (k, room) =>
      if addr.toNat % 64 ≠ 0 then .trap t excAccess addr.toNat
      else if !(t.sccOf st).stores.isEmpty || t.windowFull st then .wait t
      else
        let n := recordBytes (t.bytes k 16)
        if n > room then .trap t excAccess addr.toNat else .next (t.accept st (t.bytes k n) false)

/-- The record of a SHORT; its layout is not given (notes/assumptions/52.md). -/
def parseShort (b : List Byte) : ShortXfer :=
  { tag := leAt b 20 2, src := ⟨bits (byteAt b 16) 1 0, bit (byteAt b 16) 2, leAt b 0 8⟩,
    dst := ⟨bits (byteAt b 17) 1 0, bit (byteAt b 17) 2, leAt b 8 8⟩, lines := bits (byteAt b 18) 2 0 }

def shortCap : Nat := 64

/-- SHORT: its record lies in DMEM. -/
def execShort (st : Stall) (rs : XReg) (s : State) : Host.Outcome State Fault Refusal :=
  s.sccRow st kPlain fun t =>
    let addr := t.xreg st rs
    match sccPlace addr with
    | .dmem o =>
      if !t.dmemMay st o || decide (o + 32 > 0x10000) then .trap t excAccess addr.toNat
      else if !(t.sccOf st).stores.isEmpty || decide ((t.shortsOf st).length ≥ shortCap) then .wait t
      else .next (t.putShorts st (t.shortsOf st ++ [parseShort (t.bytes (dmemKey st o) 32)]))
    | _ => .trap t excAccess addr.toNat

/-- SHORT_WAIT: while what it waits for is in flight it notes what that is; the first failing status since, or 0. -/
def execShortWait (st : Stall) (rd rs : XReg) (s : State) : Host.Outcome State Fault Refusal :=
  s.sccRow st kPlain fun t =>
    let c := t.sccOf st
    let v := t.xreg st rs
    let key := if bit v.toNat 16 then 65536 else v.toNat % 65536
    let l := t.shortsOf st
    let note : Option Nat := match c.shortWait with | some (k, code) => if k = key then some code else none | none => none
    if l.any fun x => key == 65536 || x.tag == key then
      .wait (if note.isSome then t else t.putScc st { c with shortWait := some (key, 0) })
    else .next (t.setX st rd (BitVec.ofNat 64 (note.getD 0)))

/-- A buffered store lies in the groom port of the stall: command areas, registers or windows. -/
def portStore (st : Nat) (e : StoreEntry) : Bool :=
  let b := regSpace + 0x300000 + 0x100000 * st
  decide (b + 0x80000 ≤ e.addr.toNat) && decide (e.addr.toNat < b + 0xB0000)

/-- WREADY: a word beyond GPORT_READY[7] reads as an offset that holds no register. -/
def execWready (st : Stall) (a b : XReg) (s : State) : Host.Outcome State Fault Refusal :=
  s.sccRow st kPlain fun t =>
    let w := (t.xreg st a).toNat
    let mask := (t.xreg st b).toNat % 2 ^ 32
    let lines := if w < 8 then t.readyWord st w else 0
    if ((t.sccOf st).stores.any (portStore st)) || lines &&& mask != mask then .wait t else .next t

/-! ### Step (R354) -/

def execWstep (st : Stall) (rd : XReg) (s : State) : Host.Outcome State Fault Refusal :=
  s.sccRow st kPriv fun t =>
    match (t.dspOf st).stepMsg with
    | none => .wait t
    | some m => .next ((t.putDsp st { t.dspOf st with stepMsg := none }).setX st rd m)
def execRdtb (st : Stall) (rd : XReg) (s : State) : Host.Outcome State Fault Refusal :=
  s.sccRow st kPlain fun t => .next (t.setX st rd t.tb)

/-! ### System -/

def execTrap (st : Stall) (imm : BitVec 16) (s : State) : Host.Outcome State Fault Refusal :=
  s.sccRow st kCtl fun t => .trap t excTrap imm.toNat
def execBreakOp (st : Stall) (s : State) : Host.Outcome State Fault Refusal :=
  s.sccRow st kCtl fun t => .trap t excBreak 0
def execTret (st : Stall) (s : State) : Host.Outcome State Fault Refusal :=
  s.sccRow st { kCtl with priv := true } fun _ => .ret

/-- TRAP_STAT: IE, IN_TRAP, IN_SLOT, PREV_MODE and PREV_IE in bits 0 to 4 (notes/assumptions/53.md). -/
def Scc.trapStat (c : Scc) : Nat :=
  (if c.ieNow then 1 else 0) + (if c.inTrap then 2 else 0) + (if c.inSlot then 4 else 0) + (if c.prevSup then 8 else 0)
    + (if c.prevIe then 16 else 0)

def Scc.readSys (c : Scc) (r : SysReg) : Dword :=
  match r with
  | .trapStat => BitVec.ofNat 64 c.trapStat
  | .trapPc => c.trapPc
  | .trapCause => c.trapCause
  | .trapInfo => c.trapInfo
  | .trapEntry => c.trapEntry
  | .trapSave => c.trapSave
  | .intMask => c.intMask
  | .tbAlarm => c.tbAlarm
  | .tlc n => (SMap.get c.loopsTen {} n.val).count.setWidth 64
  | .tls n => (SMap.get c.loopsTen {} n.val).start
  | .tle n => (SMap.get c.loopsTen {} n.val).last

/-- An IE written is in force from the boundary after the next instruction (R363). -/
def Scc.writeSys (c : Scc) (r : SysReg) (v : Dword) : Scc :=
  let loop (n : LoopIx) (f : LoopSet → LoopSet) : Scc := { c with loopsTen := SMap.set c.loopsTen {} n.val (f (SMap.get c.loopsTen {} n.val)) }
  match r with
  | .trapStat =>
    let x := v.toNat
    { c with ie := c.ieNow, ieLater := some (bit x 0, 2), inTrap := bit x 1, inSlot := bit x 2, prevSup := bit x 3, prevIe := bit x 4 }
  | .trapPc => { c with trapPc := v }
  | .trapCause => { c with trapCause := v }
  | .trapInfo => { c with trapInfo := v }
  | .trapEntry => { c with trapEntry := v }
  | .trapSave => { c with trapSave := v }
  | .intMask => { c with intMask := v }
  | .tbAlarm => { c with tbAlarm := v }
  | .tlc n => loop n fun l => { l with count := v.setWidth 32 }
  | .tls n => loop n fun l => { l with start := v }
  | .tle n => loop n fun l => { l with last := v }

def execSysr (st : Stall) (rd : XReg) (sys : SysReg) (s : State) : Host.Outcome State Fault Refusal :=
  s.sccRow st kPriv fun t => .next (t.setX st rd ((t.sccOf st).readSys sys))
def execSysw (st : Stall) (sys : SysReg) (rs : XReg) (s : State) : Host.Outcome State Fault Refusal :=
  s.sccRow st kPriv fun t => .next (t.putScc st ((t.sccOf st).writeSys sys (t.xreg st rs)))
def execDrain (st : Stall) (s : State) : Host.Outcome State Fault Refusal :=
  s.sccRow st kPlain fun t => if (t.sccOf st).stores.isEmpty then .next t else .wait t
def execIdle (st : Stall) (s : State) : Host.Outcome State Fault Refusal :=
  s.sccRow st kPlain fun t => if (t.sccPending st).isSome then .next t else .wait t

/-- ILLEGAL: an unlisted encoding, its word in TRAP_INFO; a PC that cannot be fetched from comes first (there is no word then). -/
def execIllegal (st : Stall) (word : Word) (s : State) : Host.Outcome State Fault Refusal :=
  done s (s.sccInsn st { kPlain with bad := true } word.toNat .next)

/-! ### Interrupts, the timer, the mailbox, the store buffer -/

/-- INTERRUPT_TAKE. -/
def execInterruptTake (st : Stall) (s : State) : Host.Outcome State Fault Refusal := done s (s.sccInterrupt st)

/-- TB_ALARM: TB has reached TB_ALARM, from where TIMER is pending (R358). -/
def execTbAlarm (st : Stall) (t : Dword) (s : State) : Host.Outcome State Fault Refusal :=
  if t.toNat < (s.sccOf st).tbAlarm.toNat then .next s else done s (s.atTb t)

/-- SCC_MBOX_WRITE: the message, and OSTLER pending; a mapped-out stall accepts nothing (R474). -/
def execSccMboxWrite (st : Stall) (msg : Word) (s : State) : Host.Outcome State Fault Refusal :=
  if s.stallUp st then
    done s ((s.wr Reg.SCC_MBOX msg.toNat st).putScc st { s.sccOf st with mboxPending := true })
  else .next s

/-- STORE_BUFFER_LEAVE. -/
def execStoreBufferLeave (st : Stall) (s : State) : Host.Outcome State Fault Refusal := done s (s.storeLeave st)

end Sys2Proof.Machine
end

