-- ==== Sys2Proof/Machine/Dispatch.lean ====
section
/-! DEFINITION. One arm per command: its meaning, or its refusal by name. -/
namespace Sys2Proof.Machine

def exec (i : Instr) (s : State) : Host.Outcome State Fault Refusal :=
  match i with
  | .regWrite req off size v => Sys2Proof.Machine.execRegWrite req off size v s
  | .dispatch st => Sys2Proof.Machine.execDispatch st s
  | .commandComplete st seq => Sys2Proof.Machine.execCommandComplete st seq s
  | .dspSkip st => Sys2Proof.Machine.execDspSkip st s
  | .dspFlush st => Sys2Proof.Machine.execDspFlush st s
  | .mmul st seq => Sys2Proof.Machine.execMmul st seq s
  | .weightPreload st => Sys2Proof.Machine.execWeightPreload st s
  | .accZero st seq => Sys2Proof.Machine.execAccZero st seq s
  | .accStore st seq => Sys2Proof.Machine.execAccStore st seq s
  | .vchain st seq => Sys2Proof.Machine.execVchain st seq s
  | .combine st seq => Sys2Proof.Machine.execCombine st seq s
  | .cvt st seq => Sys2Proof.Machine.execCvt st seq s
  | .hist st seq => Sys2Proof.Machine.execHist st seq s
  | .hguClear st => Sys2Proof.Machine.execHguClear st s
  | .tblLoad st seq => Sys2Proof.Machine.execTblLoad st seq s
  | .gpLoad st seq => Sys2Proof.Machine.execGpLoad st seq s
  | .attn st seq => Sys2Proof.Machine.execAttn st seq s
  | .attnMerge st seq => Sys2Proof.Machine.execAttnMerge st seq s
  | .sample st seq => Sys2Proof.Machine.execSample st seq s
  | .latchArm st seq => Sys2Proof.Machine.execLatchArm st seq s
  | .latchRel st seq => Sys2Proof.Machine.execLatchRel st seq s
  | .stepEnd st seq => Sys2Proof.Machine.execStepEnd st seq s
  | .stepStartMsg st => Sys2Proof.Machine.execStepStartMsg st s
  | .sccRun st run => Sys2Proof.Machine.execSccRun st run s
  | .sccMboxWrite st msg => Sys2Proof.Machine.execSccMboxWrite st msg s
  | .interruptTake st => Sys2Proof.Machine.execInterruptTake st s
  | .tbAlarm st t => Sys2Proof.Machine.execTbAlarm st t s
  | .storeBufferLeave st => Sys2Proof.Machine.execStoreBufferLeave st s
  | .iadd st word rd rs b => Sys2Proof.Machine.execIadd st word rd rs b s
  | .isub st word rd rs b => Sys2Proof.Machine.execIsub st word rd rs b s
  | .iand st word rd rs b => Sys2Proof.Machine.execIand st word rd rs b s
  | .ior st word rd rs b => Sys2Proof.Machine.execIor st word rd rs b s
  | .ixor st word rd rs b => Sys2Proof.Machine.execIxor st word rd rs b s
  | .shl st word rd rs b => Sys2Proof.Machine.execShl st word rd rs b s
  | .shr st word rd rs b => Sys2Proof.Machine.execShr st word rd rs b s
  | .shra st word rd rs b => Sys2Proof.Machine.execShra st word rd rs b s
  | .cmplt st word rd rs b => Sys2Proof.Machine.execCmplt st word rd rs b s
  | .cmpltu st word rd rs b => Sys2Proof.Machine.execCmpltu st word rd rs b s
  | .immh st rd high imm => Sys2Proof.Machine.execImmh st rd high imm s
  | .imul st rd a b => Sys2Proof.Machine.execImul st rd a b s
  | .imulh st rd a b => Sys2Proof.Machine.execImulh st rd a b s
  | .imulhu st rd a b => Sys2Proof.Machine.execImulhu st rd a b s
  | .idiv st rd a b => Sys2Proof.Machine.execIdiv st rd a b s
  | .idivu st rd a b => Sys2Proof.Machine.execIdivu st rd a b s
  | .imod st rd a b => Sys2Proof.Machine.execImod st rd a b s
  | .imodu st rd a b => Sys2Proof.Machine.execImodu st rd a b s
  | .fcmplt st rd a b => Sys2Proof.Machine.execFcmplt st rd a b s
  | .fcmple st rd a b => Sys2Proof.Machine.execFcmple st rd a b s
  | .fcmpeq st rd a b => Sys2Proof.Machine.execFcmpeq st rd a b s
  | .f2i st rd a => Sys2Proof.Machine.execF2i st rd a s
  | .i2f st rd a => Sys2Proof.Machine.execI2f st rd a s
  | .ld8 st rd base off => Sys2Proof.Machine.execLd8 st rd base off s
  | .ld16 st rd base off => Sys2Proof.Machine.execLd16 st rd base off s
  | .ld32 st rd base off => Sys2Proof.Machine.execLd32 st rd base off s
  | .ld64 st rd base off => Sys2Proof.Machine.execLd64 st rd base off s
  | .ld8u st rd base off => Sys2Proof.Machine.execLd8u st rd base off s
  | .ld16u st rd base off => Sys2Proof.Machine.execLd16u st rd base off s
  | .ld32u st rd base off => Sys2Proof.Machine.execLd32u st rd base off s
  | .st8 st src base off => Sys2Proof.Machine.execSt8 st src base off s
  | .st16 st src base off => Sys2Proof.Machine.execSt16 st src base off s
  | .st32 st src base off => Sys2Proof.Machine.execSt32 st src base off s
  | .st64 st src base off => Sys2Proof.Machine.execSt64 st src base off s
  | .brEq st a b off => Sys2Proof.Machine.execBrEq st a b off s
  | .brNe st a b off => Sys2Proof.Machine.execBrNe st a b off s
  | .brLt st a b off => Sys2Proof.Machine.execBrLt st a b off s
  | .brGe st a b off => Sys2Proof.Machine.execBrGe st a b off s
  | .brLtu st a b off => Sys2Proof.Machine.execBrLtu st a b off s
  | .brGeu st a b off => Sys2Proof.Machine.execBrGeu st a b off s
  | .goto st off => Sys2Proof.Machine.execGoto st off s
  | .call st rd off => Sys2Proof.Machine.execCall st rd off s
  | .jumpr st rs => Sys2Proof.Machine.execJumpr st rs s
  | .callr st rd rs => Sys2Proof.Machine.execCallr st rd rs s
  | .loop st n rs last => Sys2Proof.Machine.execLoop st n rs last s
  | .sumr st rd slot => Sys2Proof.Machine.execSumr st rd slot s
  | .sumf st rd slot => Sys2Proof.Machine.execSumf st rd slot s
  | .bsum st slot mask off => Sys2Proof.Machine.execBsum st slot mask off s
  | .cmd st rs => Sys2Proof.Machine.execCmd st rs s
  | .short st rs => Sys2Proof.Machine.execShort st rs s
  | .shortWait st rd rs => Sys2Proof.Machine.execShortWait st rd rs s
  | .wready st a b => Sys2Proof.Machine.execWready st a b s
  | .wstep st rd => Sys2Proof.Machine.execWstep st rd s
  | .rdtb st rd => Sys2Proof.Machine.execRdtb st rd s
  | .trap st imm => Sys2Proof.Machine.execTrap st imm s
  | .breakOp st => Sys2Proof.Machine.execBreakOp st s
  | .tret st => Sys2Proof.Machine.execTret st s
  | .sysr st rd sys => Sys2Proof.Machine.execSysr st rd sys s
  | .sysw st sys rs => Sys2Proof.Machine.execSysw st sys rs s
  | .drain st => Sys2Proof.Machine.execDrain st s
  | .idle st => Sys2Proof.Machine.execIdle st s
  | .groomGo st gi entry seq => Sys2Proof.Machine.execGroomGo st gi entry seq s
  | .groomAbort st gi => Sys2Proof.Machine.execGroomAbort st gi s
  | .groomDrainEnd p => Sys2Proof.Machine.execGroomDrainEnd p s
  | .groomSequenceComplete p cycles => Sys2Proof.Machine.execGroomSequenceComplete p cycles s
  | .groomWatchdog p cycles => Sys2Proof.Machine.execGroomWatchdog p cycles s
  | .groomIntegerOp n op rd a b => Sys2Proof.Machine.execGroomIntegerOp n op rd a b s
  | .groomBranchOp n op => Sys2Proof.Machine.execGroomBranchOp n op s
  | .groomScratchOp n store signed w r base off => Sys2Proof.Machine.execGroomScratchOp n store signed w r base off s
  | .gld n bank sc => Sys2Proof.Machine.execGld n bank sc s
  | .gst n bank sc => Sys2Proof.Machine.execGst n bank sc s
  | .gmul n f => Sys2Proof.Machine.execGmul n f s
  | .gvec n op a b c dst count => Sys2Proof.Machine.execGvec n op a b c dst count s
  | .gred n op src count idxBase kTotal partsCode part dst idxDst => Sys2Proof.Machine.execGred n op src count idxBase kTotal partsCode part dst idxDst s
  | .gnar n fmt zpEn zp src dst count => Sys2Proof.Machine.execGnar n fmt zpEn zp src dst count s
  | .gtbl n slot src => Sys2Proof.Machine.execGtbl n slot src s
  | .gscl n entry src count => Sys2Proof.Machine.execGscl n entry src count s
  | .gsend n dest src flits => Sys2Proof.Machine.execGsend n dest src flits s
  | .grecv n dst flits => Sys2Proof.Machine.execGrecv n dst flits s
  | .gwait n engine => Sys2Proof.Machine.execGwait n engine s
  | .gend n => Sys2Proof.Machine.execGend n s
  | .chainStuck k => Sys2Proof.Machine.execChainStuck k s
  | .xNodeLineWrite q => Sys2Proof.Machine.execXNodeLineWrite q s
  | .gportWindowWrite st off size v => Sys2Proof.Machine.execGportWindowWrite st off size v s
  | .refreshDue q => Sys2Proof.Machine.execRefreshDue q s
  | .refreshRelease q => Sys2Proof.Machine.execRefreshRelease q s
  | .stackTempSample stack temps => Sys2Proof.Machine.execStackTempSample stack temps s
  | .stallTempSample st temp => Sys2Proof.Machine.execStallTempSample st temp s
  | .ostlerTempSample temp => Sys2Proof.Machine.execOstlerTempSample temp s
  | .lpMr4Sample p hot => Sys2Proof.Machine.execLpMr4Sample p hot s
  | .channelRequestServe q upset => Sys2Proof.Machine.execChannelRequestServe q upset s
  | .scrubRead tier q upset => Sys2Proof.Machine.execScrubRead tier q upset s
  | .lpRequestServe p upset => Sys2Proof.Machine.execLpRequestServe p upset s
  | .lpRefresh p bank => Sys2Proof.Machine.execLpRefresh p bank s
  | .softRow req => Sys2Proof.Machine.execSoftRow req s
  | .fuseRow req => Sys2Proof.Machine.execFuseRow req s
  | .spareLane req => Sys2Proof.Machine.execSpareLane req s
  | .query req => Sys2Proof.Machine.execQuery req s
  | .descPush st c v => Sys2Proof.Machine.execDescPush st c v s
  | .descStart st c => Sys2Proof.Machine.execDescStart st c s
  | .dmaTrigger st c => Sys2Proof.Machine.execDmaTrigger st c s
  | .transferIssue st => Sys2Proof.Machine.execTransferIssue st s
  | .descriptorComplete st c => Sys2Proof.Machine.execDescriptorComplete st c s
  | .streamEnd st seq => Sys2Proof.Machine.execStreamEnd st seq s
  | .dmaResume st c => Sys2Proof.Machine.execDmaResume st c s
  | .dmaEnClear st c => Sys2Proof.Machine.execDmaEnClear st c s
  | .dmaEnSet st c => Sys2Proof.Machine.execDmaEnSet st c s
  | .dmaDrainEnd st c => Sys2Proof.Machine.execDmaDrainEnd st c s
  | .dmaAbort st c => Sys2Proof.Machine.execDmaAbort st c s
  | .shortTransferComplete st tag => Sys2Proof.Machine.execShortTransferComplete st tag s
  | .prgResponse fn idx code => Sys2Proof.Machine.execPrgResponse fn idx code s
  | .priTimeout fn page t => Sys2Proof.Machine.execPriTimeout fn page t s
  | .translationCompletion fn page size pa r w => Sys2Proof.Machine.execTranslationCompletion fn page size pa r w s
  | .atsInvalidation fn addr size => Sys2Proof.Machine.execAtsInvalidation fn addr size s
  | .ledgerFetch fn => Sys2Proof.Machine.execLedgerFetch fn s
  | .submit fn => Sys2Proof.Machine.execSubmit fn s
  | .cancel fn => Sys2Proof.Machine.execCancel fn s
  | .pause fn => Sys2Proof.Machine.execPause fn s
  | .resume fn => Sys2Proof.Machine.execResume fn s
  | .importDone fn => Sys2Proof.Machine.execImportDone fn s
  | .hingePlan p => Sys2Proof.Machine.execHingePlan p s
  | .hingeCommit p => Sys2Proof.Machine.execHingeCommit p s
  | .hingeTick p t => Sys2Proof.Machine.execHingeTick p t s
  | .kvCopyDone ix => Sys2Proof.Machine.execKvCopyDone ix s
  | .tntRefill t => Sys2Proof.Machine.execTntRefill t s
  | .pdkOpen p v => Sys2Proof.Machine.execPdkOpen p v s
  | .abortAll p => Sys2Proof.Machine.execAbortAll p s
  | .recordIssue ix => Sys2Proof.Machine.execRecordIssue ix s
  | .tailReread ix => Sys2Proof.Machine.execTailReread ix s
  | .ringWaitTimeout p t => Sys2Proof.Machine.execRingWaitTimeout p t s
  | .fnEnSet fn => Sys2Proof.Machine.execFnEnSet fn s
  | .fnEnClear fn => Sys2Proof.Machine.execFnEnClear fn s
  | .fnDrainEnd fn => Sys2Proof.Machine.execFnDrainEnd fn s
  | .fnLqDbell fn tail => Sys2Proof.Machine.execFnLqDbell fn tail s
  | .fnCqDbell fn tail => Sys2Proof.Machine.execFnCqDbell fn tail s
  | .stlDbell st tail => Sys2Proof.Machine.execStlDbell st tail s
  | .directQueueTake st => Sys2Proof.Machine.execDirectQueueTake st s
  | .apertureWrite off data => Sys2Proof.Machine.execApertureWrite off data s
  | .apertureRead off len => Sys2Proof.Machine.execApertureRead off len s
  | .coalTimer fn src t => Sys2Proof.Machine.execCoalTimer fn src t s
  | .vfFlr k => Sys2Proof.Machine.execVfFlr k s
  | .flitReceive k flit fec corrected => Sys2Proof.Machine.execFlitReceive k flit fec corrected s
  | .idleFlit k => Sys2Proof.Machine.execIdleFlit k s
  | .nak k => Sys2Proof.Machine.execNak k s
  | .collData k => Sys2Proof.Machine.execCollData k s
  | .collVote k => Sys2Proof.Machine.execCollVote k s
  | .collDecide k => Sys2Proof.Machine.execCollDecide k s
  | .hinge k => Sys2Proof.Machine.execHinge k s
  | .ledgerCmd k => Sys2Proof.Machine.execLedgerCmd k s
  | .ledgerCpl k => Sys2Proof.Machine.execLedgerCpl k s
  | .importWr k => Sys2Proof.Machine.execImportWr k s
  | .importAck k => Sys2Proof.Machine.execImportAck k s
  | .importReady k => Sys2Proof.Machine.execImportReady k s
  | .ping k => Sys2Proof.Machine.execPing k s
  | .pong k => Sys2Proof.Machine.execPong k s
  | .portDown k t => Sys2Proof.Machine.execPortDown k t s
  | .portRetrain k t => Sys2Proof.Machine.execPortRetrain k t s
  | .portTrainDone k ok peer => Sys2Proof.Machine.execPortTrainDone k ok peer s
  | .roundOpen st place => Sys2Proof.Machine.execRoundOpen st place s
  | .roundDeadline p t => Sys2Proof.Machine.execRoundDeadline p t s
  | .noDecision p t => Sys2Proof.Machine.execNoDecision p t s
  | .planPartTimeout p t => Sys2Proof.Machine.execPlanPartTimeout p t s
  | .expPush v => Sys2Proof.Machine.execExpPush v s
  | .exportResend t => Sys2Proof.Machine.execExportResend t s
  | .exportReadyTimeout t => Sys2Proof.Machine.execExportReadyTimeout t s
  | .coldBoot r => Sys2Proof.Machine.execColdBoot r s
  | .deviceReset cause => Sys2Proof.Machine.execDeviceReset cause s
  | .paddockReset p => Sys2Proof.Machine.execPaddockReset p s
  | .quickSelfTest p failed => Sys2Proof.Machine.execQuickSelfTest p failed s
  | .stallReset st => Sys2Proof.Machine.execStallReset st s
  | .ostlerWatchdog t => Sys2Proof.Machine.execOstlerWatchdog t s
  | .powerdownStepTimeout t => Sys2Proof.Machine.execPowerdownStepTimeout t s
  | .fltTailWrite v => Sys2Proof.Machine.execFltTailWrite v s
  | .persistPageProgram t => Sys2Proof.Machine.execPersistPageProgram t s
  | .powerEval avg last => Sys2Proof.Machine.execPowerEval avg last s
  | .pwrLimitWrite v => Sys2Proof.Machine.execPwrLimitWrite v s
  | .pmbusPoll rail answer => Sys2Proof.Machine.execPmbusPoll rail answer s
  | .pmbAlert words => Sys2Proof.Machine.execPmbAlert words s
  | .supplySag aux bod => Sys2Proof.Machine.execSupplySag aux bod s
  | .droopTrip n => Sys2Proof.Machine.execDroopTrip n s
  | .smbPowerdownRequest v => Sys2Proof.Machine.execSmbPowerdownRequest v s
  | .samplePreload preload => Sys2Proof.Machine.execSamplePreload preload s
  | .extest drive => Sys2Proof.Machine.execExtest drive s
  | .regRead req off size => Sys2Proof.Machine.execRegRead req off size s
  | .configurationRequest fn w => Sys2Proof.Machine.execConfigurationRequest fn w s
  | .completionTimeout fn => Sys2Proof.Machine.execCompletionTimeout fn s
  | .illegal st word => Sys2Proof.Machine.execIllegal st word s
  | .groomUnlistedInstruction n => Sys2Proof.Machine.execGroomUnlistedInstruction n s
  | .pfFlr => Sys2Proof.Machine.execPfFlr s
  | .vfEnableClear => Sys2Proof.Machine.execVfEnableClear s
  | .vfEnableSet => Sys2Proof.Machine.execVfEnableSet s
  | .revert => Sys2Proof.Machine.execRevert s
  | .loadImage => Sys2Proof.Machine.execLoadImage s
  | .loadPaddock => Sys2Proof.Machine.execLoadPaddock s
  | .unloadPaddock => Sys2Proof.Machine.execUnloadPaddock s
  | .flashWrite => Sys2Proof.Machine.execFlashWrite s
  | .slotSelect => Sys2Proof.Machine.execSlotSelect s
  | .maplistClear => Sys2Proof.Machine.execMaplistClear s
  | .keyProg => Sys2Proof.Machine.execKeyProg s
  | .shrinkDone => Sys2Proof.Machine.execShrinkDone s
  | .flashRead => Sys2Proof.Machine.execFlashRead s
  | .powerdown => Sys2Proof.Machine.execPowerdown s
  | .faultAppend => Sys2Proof.Machine.execFaultAppend s
  | .fastLimit => Sys2Proof.Machine.execFastLimit s
  | .sagClear => Sys2Proof.Machine.execSagClear s
  | .pwrgdRise => Sys2Proof.Machine.execPwrgdRise s
  | .pwrgdFall => Sys2Proof.Machine.execPwrgdFall s
  | .perstAssert => Sys2Proof.Machine.execPerstAssert s
  | .perstDeassert => Sys2Proof.Machine.execPerstDeassert s
  | .refclkPcieLoss => Sys2Proof.Machine.execRefclkPcieLoss s
  | .refclkPcieReturn => Sys2Proof.Machine.execRefclkPcieReturn s
  | .refclkDrtLoss => Sys2Proof.Machine.execRefclkDrtLoss s
  | .smbReadDevIdHi => Sys2Proof.Machine.execSmbReadDevIdHi s
  | .smbReadDevIdStep => Sys2Proof.Machine.execSmbReadDevIdStep s
  | .smbReadStackTemp => Sys2Proof.Machine.execSmbReadStackTemp s
  | .smbReadStallTemp => Sys2Proof.Machine.execSmbReadStallTemp s
  | .smbReadPower => Sys2Proof.Machine.execSmbReadPower s
  | .smbReadStatus => Sys2Proof.Machine.execSmbReadStatus s
  | .smbReadGpio => Sys2Proof.Machine.execSmbReadGpio s
  | .bypass => Sys2Proof.Machine.execBypass s
  | .idcode => Sys2Proof.Machine.execIdcode s
  | .extestPulse => Sys2Proof.Machine.execExtestPulse s
  | .extestTrain => Sys2Proof.Machine.execExtestTrain s
  | .refclkDrtReturn => Sys2Proof.Machine.execRefclkDrtReturn s

end Sys2Proof.Machine
end

