-- ==== Sys2Proof/Safety.lean ====
section
/-! DEFINITION. The terms in which statements are made: how a command ends, what stays, and the invariants of a step. -/
namespace Sys2Proof.Machine

/-- The command is carried out with the effect `t`; then its events take their order, the ledger entries it changed their VERSION, and the
messages of the interrupt sources that rose go out (R283, R385, R453, R478). -/
def Gives (c : Instr) (s t : State) : Prop := exec c s = .next (conclude s t)

/-- The command answers a next state of which `p` holds. -/
def Ends (c : Instr) (s : State) (p : State → Prop) : Prop := ∃ t, exec c s = .next t ∧ p t

/-- A state goes on: a step answers a next state, neither a fault nor a refusal. -/
def Safe (s : State) : Prop := ∃ t, step s = .next t

/-- The addressed memories are in their canonical form. -/
def State.memOk (s : State) : Prop := Memory.wf s.mem = true

/-- The part accepts changes: it is not held in cold reset and not waiting for its power to go (R446, R488). -/
def State.awake (s : State) : Prop := s.stopped = false

/-! ### What stays -/

/-- Every register keeps its value, but those whose keys are listed. -/
def RegsKept (s t : State) (l : List Nat) : Prop := ∀ r u i, Loc.key r u i ∉ l → t.rd r u i = s.rd r u i

/-- Every byte of the memories reads as before, but the `n` from key `k`. -/
def MemKept (s t : State) (k n : Nat) : Prop := ∀ j, j < k ∨ k + n ≤ j → t.byte j = s.byte j

/-- Every byte of the memories reads as before. -/
def MemSame (s t : State) : Prop := ∀ j, t.byte j = s.byte j

/-! ### The stall control core -/

/-- The instruction of kind `k` at the PC of the core is carried out: the core executes, the PC can be fetched from, R343 does not forbid it
there, and the mode may run it. -/
def State.sccGo (s : State) (st : Nat) (k : SccKind) : Prop :=
  s.awake ∧ s.sccRuns st = true ∧ s.sccFetch st = true ∧ s.sccIllegal st k = false ∧ (k.priv = true → s.sup st = true)

/-- What an instruction of a core leaves alone: every general register but `rd`, every other core, the exception, mask, timer and
store-buffer state of its own, every register but its instruction count and the WAITING bit, and everything outside the cores but the
memory, the messages of interrupts and the count of free values. -/
structure SccFrame (s t : State) (st : Stall) (rd : List XReg) : Prop where
  rest : t = { s with regs := t.regs, mem := t.mem, scc := t.scc, free := t.free, msixPend := t.msixPend, bus := t.bus }
  regs : RegsKept s t [Reg.SCC_INSN_CNT.key st 0, Reg.SCC_STATUS.key st 0]
  status : ∀ b, b < 32 → b ≠ Reg.SCC_STATUS_WAITING.lo → bit (t.rd Reg.SCC_STATUS st) b = bit (s.rd Reg.SCC_STATUS st) b
  others : ∀ x, x ≠ st.val → t.sccOf x = s.sccOf x
  gprs : ∀ r, r ∉ rd → t.xreg st r = s.xreg st r
  own : t.sccOf st = { s.sccOf st with
    gpr := (t.sccOf st).gpr, pc := (t.sccOf st).pc, slot := (t.sccOf st).slot, loopsSup := (t.sccOf st).loopsSup,
    loopsTen := (t.sccOf st).loopsTen, ie := (t.sccOf st).ie, ieLater := (t.sccOf st).ieLater, afterTret := (t.sccOf st).afterTret,
    shortWait := (t.sccOf st).shortWait }

/-- The instruction completes and writes `v` to `rd`: x0 discards it and reads as zero (R338). -/
def SccWrites (c : Instr) (s : State) (st : Stall) (rd : XReg) (v : Dword) : Prop :=
  Ends c s fun t => SccFrame s t st [rd] ∧ MemSame s t ∧ t.xreg st rd = if rd.val = 0 then 0 else v

/-- The instruction completes as a branch: its delay slot comes next, and the target, if taken, after it (R342). -/
def SccBranches (c : Instr) (s : State) (st : Stall) (rd : List XReg) (target : Option Dword) : Prop :=
  Ends c s fun t => SccFrame s t st rd ∧ MemSame s t ∧ (t.sccOf st).pc = (s.sccOf st).pc + 4
    ∧ (t.sccOf st).slot = some ⟨(s.sccOf st).pc, target⟩

/-- The instruction waits: it has done nothing but show that it waits (R363). -/
def SccWaits (c : Instr) (s : State) (st : Stall) : Prop := Gives c s (s.setFlag Reg.SCC_STATUS_WAITING st)

/-- The exception `cause` with `info` has been entered in place of the instruction at the PC (R360, R364). -/
structure SccTrapped (s t : State) (st : Stall) (cause info : Nat) : Prop where
  prevSup : (t.sccOf st).prevSup = s.sup st
  prevIe : (t.sccOf st).prevIe = (s.sccOf st).ieNow
  ie : (t.sccOf st).ie = false ∧ (t.sccOf st).inTrap = true
  cause : (t.sccOf st).trapCause = BitVec.ofNat 64 cause
  info : (t.sccOf st).trapInfo = BitVec.ofNat 64 info
  pc : (t.sccOf st).pc = (s.sccOf st).trapEntry
  sup : t.sup st = true
  saved : match (s.sccOf st).slot with
    | none => (t.sccOf st).trapPc = (s.sccOf st).pc ∧ (t.sccOf st).inSlot = false
    | some x => (t.sccOf st).trapPc = x.branchPc ∧ (t.sccOf st).inSlot = true
  gprs : ∀ r, t.xreg st r = s.xreg st r
  loops : (t.sccOf st).loopsSup = (s.sccOf st).loopsSup ∧ (t.sccOf st).loopsTen = (s.sccOf st).loopsTen
  own : t.sccOf st = { s.sccOf st with
    pc := (t.sccOf st).pc, slot := none, ie := false, ieLater := none, inTrap := true, inSlot := (t.sccOf st).inSlot,
    prevSup := (t.sccOf st).prevSup, prevIe := (t.sccOf st).prevIe, trapPc := (t.sccOf st).trapPc, trapCause := (t.sccOf st).trapCause,
    trapInfo := (t.sccOf st).trapInfo, afterTret := false, shortWait := none }
  others : ∀ x, x ≠ st.val → t.sccOf x = s.sccOf x
  mem : MemSame s t
  regs : RegsKept s t [Reg.SCC_STATUS.key st 0]

/-! ### Engine commands -/

/-- An engine holds the command `w` of number `seq` and kind `op`, which has not issued yet. -/
structure State.engineHas (s : State) (st : Nat) (seq : Word) (op : Nat) (w : WinCmd) : Prop where
  awake : s.awake
  cmd : s.runningCmd st seq op = some w
  fresh : w.issued = false ∧ w.outs = none ∧ w.summ = none ∧ w.got = [] ∧ w.gotPoison = [] ∧ w.reads = [] ∧ w.holding = []

/-- The command `w` has completed with status OK: it stays in its engine for COMMAND_COMPLETE with its record and its latches, and the rest of
the dispatcher is as it was. -/
structure Completed (s t : State) (st : Nat) (w : WinCmd) : Prop where
  running : ∃ x : WinCmd, x.ok = true ∧ x.outs = none
    ∧ x = { w with ok := x.ok, outs := x.outs, issued := x.issued, snap := x.snap, summ := x.summ, got := x.got, gotPoison := x.gotPoison,
                   reads := x.reads, holding := x.holding }
    ∧ (t.dspOf st).running = (s.dspOf st).running.map fun y => if y.seq = w.seq then x else y
  window : (t.dspOf st).window = (s.dspOf st).window
  held : (t.dspOf st).held = (s.dspOf st).held

/-- The latches of every stall stand as before. -/
def LatchesKept (s t : State) : Prop := ∀ x l, x < 16 → l < 256 → t.latch x l = s.latch x l

/-- The bytes of `v`, low byte first, stand at key `k`. -/
def State.holdsAt (s : State) (k n v : Nat) : Prop := ∀ i, i < n → s.byte (k + i) = BitVec.ofNat 8 (v / 2 ^ (8 * i))

/-! ### Grooms -/

/-- Groom `n` runs a sequence that has not ended, its array is at no GMUL, and its core can fetch at its program counter (R149). -/
structure State.groomGoes (s : State) (n : Nat) (r : GSeq) : Prop where
  awake : s.awake
  run : (s.groom n).run = some r
  live : r.ended = false ∧ r.ctx < 2048 ∧ (s.groom n).gmul = none
  pc : (s.groom n).pc % 4 = 0 ∧ (s.groom n).pc < (s.groom n).codeLen

/-- What a register instruction of a groom core leaves alone: everything but the core's registers and its program counter. -/
structure GroomFrame (s t : State) (n : Nat) : Prop where
  rest : t = { s with grooms := t.grooms, free := t.free }
  others : ∀ m, m ≠ n → t.groom m = s.groom m
  own : t.groom n = { s.groom n with gr := (t.groom n).gr, pc := (t.groom n).pc }

/-- The core has gone on to its next instruction. -/
def GroomNext (s t : State) (n : Nat) : Prop := (t.groom n).pc = (s.groom n).pc + 4 ∧ (t.groom n).run = (s.groom n).run

/-- The core has faulted: its sequence has ended with ERR, CORE_FAULT and the cause are set (R149). -/
structure GroomFaulted (s t : State) (n : Nat) (r : GSeq) (cause : Nat) : Prop where
  run : (t.groom n).run = some { r with ended := true, err := true }
  flag : t.flag Reg.GRM_STATUS_CORE_FAULT r.ctx = true
  cause : t.fld Reg.GRM_FAULT_FAULT_CAUSE r.ctx = cause
  pc : t.fld Reg.GRM_FAULT_FAULT_PC r.ctx = (s.groom n).pc % 2 ^ 14

/-! ### The Dartin link -/

/-- The oldest flit in the receive buffers of port `k` is `f`, whole and of the given TYPE; `rest` wait behind it. -/
structure State.rxFirst (s : State) (k : Nat) (f : List Byte) (rest : List (List Byte)) (type : Nat) : Prop where
  rx : (s.portOf k).rx = f :: rest
  type : fType f = type
  whole : f.length = 256

/-- A flit for `dst` goes out at once on port `j`: its route leads there, its lane has credit and nothing waits. -/
structure State.linkTo (s : State) (dst vl j : Nat) : Prop where
  route : s.routePort dst = some j
  idle : (s.portOf j).tx = []
  credit : 0 < s.cred j vl
  room : (s.portOf j).sent.length < 512

/-- The one flit `g`, whole and with a good CRC, has gone out on port `j`. -/
def SentFlit (s t : State) (j type dst : Nat) (p : List Byte → Prop) : Prop :=
  ∃ g, t.bus = .flit j g :: s.bus ∧ flitGood g = true ∧ fType g = type ∧ fDst g = dst ∧ fSrc g = s.did ∧ p g

/-- Round `r` of a group is decided at this member: its DONE latch is released. -/
structure RoundDone (t : State) (p : Nat) (r : Round) : Prop where
  latch : t.latch r.st (byteAt r.desc 2) = true
  round : ∀ x ∈ (t.pdkOf p).rounds, x.st = r.st → x.idx = r.idx → x.done = true

/-- The round has committed: STAGE stands in OUT, and no other byte has changed (R407). -/
structure RoundCommitted (s t : State) (p : Nat) (r : Round) : Prop where
  done : RoundDone t p r
  kept : MemKept s t (stbKey r.st (parseColl r.desc).out) (s.groupSize p * (parseColl r.desc).chunk)
  out : ∀ i, i < s.groupSize p * (parseColl r.desc).chunk →
    t.byte (stbKey r.st ((parseColl r.desc).out + i)) = s.byte (stbKey r.st ((parseColl r.desc).stage + i))

/-- The round has aborted: OUT is unchanged and the step is marked for replay (R410 to R412). -/
structure RoundAborted (s t : State) (p : Nat) (r : Round) : Prop where
  done : RoundDone t p r
  mem : MemSame s t
  flag : t.flag Reg.COLL_STATUS_ABORT 0 p = true
  replay : (t.pdkOf p).replay = true ∧ ∃ n, (t.pdkOf p).abandonAt = some n ∧ n ≤ r.idx + 1

/-! ### Events and tack commands -/

/-- An event of the code stands in the event queue of the fault log. -/
def State.raised (t : State) (code kind index : Nat) : Prop := ∃ e ∈ t.fltQueue, e.code = code ∧ e.kind = kind ∧ e.index = index

/-- A tack command has failed with the cause and changed nothing but its status. -/
structure TackFailed (s t : State) (cause : Nat) : Prop where
  err : t.flag Reg.TACK_CMD_STATUS_CMD_ERR = true
  cause : t.fld Reg.TACK_CMD_STATUS_CMD_CAUSE = cause
  regs : RegsKept s t [Reg.TACK_CMD_STATUS.key 0 0]
  rest : t = { s with regs := t.regs }

/-- A tack command has succeeded. -/
def TackDone (t : State) : Prop := t.flag Reg.TACK_CMD_STATUS_CMD_DONE = true

end Sys2Proof.Machine
end

