-- ==== Sys2Proof/Certificates/Slice0/Obligations.lean ====
section
/-! DEFINITION. What is claimed of the model: the rules of the manual, command by command and for the whole block. -/

open Sys2Proof Sys2Proof.Machine

/-! ### The whole block -/

/-- A step takes the command at the front of the queue and runs it with the rest of the queue; on an empty queue the timebase counts on by one tick, the
model's choice (notes/assumptions/4.md). -/
def Obligations.StepRunsFront : Prop :=
  (∀ (c : Instr) (r : List Instr) (s : State), step { s with pending := c :: r } = exec c { s with pending := r })
  ∧ ∀ s : State, s.pending = [] → step s = .next { s with tb := s.tb + 1 }

/-- Every command completes in every state: none ends in a fault or a refusal, and so every step answers a next state. -/
def Obligations.EveryCommandCompletes : Prop :=
  (∀ (c : Instr) (s : State), ∃ t, exec c s = .next t) ∧ ∀ s : State, Safe s

/-- Every step keeps the addressed memories in their canonical form: addresses rising, and no cell listed that holds what an unlisted one reads as. The
form is the model's own (notes/assumptions/2.md). -/
def Obligations.MemoryStaysCanonical : Prop := ∀ s t : State, s.memOk → step s = .next t → t.memOk

/-- Once POWERDOWN_READY is set, no command but the edges of power-good and PERST# and the loss and return of the reference clocks changes anything: what
the device answers to a reader is all that is added, free values apart, and only TRST#, an input, may change its level (R446). -/
def Obligations.ShutUntilColdReset : Prop := ∀ (c : Instr) (s t : State), s.shut = true → s.board.cold = false →
  c ∉ [Instr.pwrgdRise, .pwrgdFall, .perstAssert, .perstDeassert, .refclkPcieLoss, .refclkPcieReturn, .refclkDrtLoss, .refclkDrtReturn] →
  exec c s = .next t → t = { s with bus := t.bus, free := t.free, board := { s.board with trst := t.board.trst } }

/-- After cold reset: no byte of memory is listed, every register of the three register tables holds its reset value, which is 0 for all but those named
here, every latch is clear, every core is halted in supervisor mode, every window, ledger entry and DMA channel is empty and idle, every groom is
ready, TB counts from 0 and no command waits. That the part is an X8 of stepping B0, just released by power-good so that RESET_CAUSE reads 1, is the
model's choice (notes/assumptions/1.md), and so is what a byte of memory that nothing has written reads as: 0, or 0xFF in the flash
(notes/assumptions/2.md). -/
def Obligations.ResetValues : Prop :=
  let s := State.reset
  let resets : List (Loc × Nat) :=
    [(Reg.DEV_ID, 0x71010000), (Reg.RESET_CAUSE, 1), (Reg.MEM_CTRL, 1), (Reg.MEM_SCRUB_HRS, 24), (Reg.FLT_THR_CH, 0x10081000), (Reg.FLT_THR_LP, 0x81000),
      (Reg.FLT_THR_GRM, 0x1010), (Reg.FN_IRQ_MAP, 0x20100), (Reg.FN_COAL, 1), (Reg.FN_PRI_TMO, 1000000), (Reg.DRT_PORT_CRED, 0x42010040),
      (Reg.HGU_INVW, 0x3F800000), (Reg.SCL_FILE, 0x3F803F80), (Reg.GPORT_STATUS, 1), (Reg.GPORT_READY, 0xFFFFFFFF), (Reg.DMA_CH_CTRL, 1),
      (Reg.DMA_CH_CFG, 0x40), (Reg.SCC_STATUS, 2), (Reg.GRM_STATUS, 1), (Reg.GRM_CTX_SLOT, 0xFAC688)]
  s.mem = [] ∧ s.memOk ∧ (∀ k, s.byte k = Memory.unlisted k) ∧ s.pending = [] ∧ s.tb = 0 ∧ s.ledger = [] ∧ s.shut = false ∧ s.board.cold = false
  ∧ (∀ x ∈ Reg.devRegs ++ Reg.stallRegs ++ Reg.groomRegs, ∀ u i, s.rd x.1 u i = match resets.find? (fun y => y.1 == x.1) with | some y => y.2 | none => 0)
  ∧ (∀ st l, s.latch st l = false) ∧ (∀ st, (s.dspOf st).window = [] ∧ (s.dspOf st).running = [])
  ∧ (∀ st, st < 16 → s.flag Reg.SCC_STATUS_RUNNING st = false ∧ s.sup st = true)
  ∧ (∀ st c, st < 16 → c < 8 → s.chState st c = stIdle ∧ s.flag Reg.DMA_CH_CTRL_EN st c = true)
  ∧ ∀ n, n < 2048 → s.ready n = true

/-! ### The stall control core (13_control_core.md) -/

/-- The integer instructions, at 64 bits and in the word form, give the sum, difference, logic or shift of their sources in `rd`. The upper half of a word
form's result, and a shift by the width or more, are free values (notes/assumptions/50.md): the instruction completes all the same. Comparisons give 1 or 0,
signed and unsigned; IMMH puts an immediate into one half of a register and keeps the other. Multiply and divide: the low and the high half of the
product, the quotient and the remainder. By zero the quotient is zero and the remainder the dividend; the most negative value by −1 gives itself and
zero. That the signed quotient is rounded toward zero is the model's choice (notes/assumptions/51.md), and so is that a word form of CMPLT and CMPLTU
writes 1 or 0 into the whole register (notes/assumptions/16.md). -/
def Obligations.IntegerAndCompareInstructions : Prop :=
  (∀ (s : State) (st : Stall) (rd rs : XReg) (b : Src2), s.sccGo st kPlain →
     let x := s.xreg st rs
     let y := s.src2 st b
     let low (c : Instr) (w : Word) : Prop := ∃ v : Dword, v.setWidth 32 = w ∧ SccWrites c s st rd v
     let some' (c : Instr) : Prop := ∃ v : Dword, SccWrites c s st rd v
     (SccWrites (.iadd st false rd rs b) s st rd (x + y) ∧ low (.iadd st true rd rs b) (x.setWidth 32 + y.setWidth 32))
     ∧ (SccWrites (.isub st false rd rs b) s st rd (x - y) ∧ low (.isub st true rd rs b) (x.setWidth 32 - y.setWidth 32))
     ∧ (SccWrites (.iand st false rd rs b) s st rd (x &&& y) ∧ low (.iand st true rd rs b) (x.setWidth 32 &&& y.setWidth 32))
     ∧ (SccWrites (.ior st false rd rs b) s st rd (x ||| y) ∧ low (.ior st true rd rs b) (x.setWidth 32 ||| y.setWidth 32))
     ∧ (SccWrites (.ixor st false rd rs b) s st rd (x ^^^ y) ∧ low (.ixor st true rd rs b) (x.setWidth 32 ^^^ y.setWidth 32))
     ∧ (y.toNat < 64 → SccWrites (.shl st false rd rs b) s st rd (x <<< y.toNat) ∧ SccWrites (.shr st false rd rs b) s st rd (x >>> y.toNat)
         ∧ SccWrites (.shra st false rd rs b) s st rd (x.sshiftRight y.toNat))
     ∧ ((y.setWidth 32).toNat < 32 → low (.shl st true rd rs b) (x.setWidth 32 <<< (y.setWidth 32).toNat)
         ∧ low (.shr st true rd rs b) (x.setWidth 32 >>> (y.setWidth 32).toNat)
         ∧ low (.shra st true rd rs b) ((x.setWidth 32).sshiftRight (y.setWidth 32).toNat))
     ∧ ∀ w : Bool, some' (.shl st w rd rs b) ∧ some' (.shr st w rd rs b) ∧ some' (.shra st w rd rs b))
  ∧ (∀ (s : State) (st : Stall) (rd rs : XReg) (b : Src2) (imm : Word), s.sccGo st kPlain →
     let x := s.xreg st rs
     let y := s.src2 st b
     SccWrites (.cmplt st false rd rs b) s st rd (if x.toInt < y.toInt then 1 else 0)
     ∧ SccWrites (.cmpltu st false rd rs b) s st rd (if x.toNat < y.toNat then 1 else 0)
     ∧ SccWrites (.cmplt st true rd rs b) s st rd (if (x.setWidth 32).toInt < (y.setWidth 32).toInt then 1 else 0)
     ∧ SccWrites (.cmpltu st true rd rs b) s st rd (if x.toNat % 2 ^ 32 < y.toNat % 2 ^ 32 then 1 else 0)
     ∧ (∃ v : Dword, v.toNat / 2 ^ 32 = imm.toNat ∧ v.toNat % 2 ^ 32 = (s.xreg st rd).toNat % 2 ^ 32 ∧ SccWrites (.immh st rd true imm) s st rd v)
     ∧ (∃ v : Dword, v.toNat % 2 ^ 32 = imm.toNat ∧ v.toNat / 2 ^ 32 = (s.xreg st rd).toNat / 2 ^ 32 ∧ SccWrites (.immh st rd false imm) s st rd v))
  ∧ (∀ (s : State) (st : Stall) (rd a b : XReg), s.sccGo st kPlain →
     let x := s.xreg st a
     let y := s.xreg st b
     let gives (c : Instr) (p : Dword → Prop) : Prop := ∃ v, p v ∧ SccWrites c s st rd v
     gives (.imul st rd a b) (fun v => v.toNat = x.toNat * y.toNat % 2 ^ 64)
     ∧ gives (.imulh st rd a b) (fun v => v.toInt = x.toInt * y.toInt / 2 ^ 64)
     ∧ gives (.imulhu st rd a b) (fun v => v.toNat = x.toNat * y.toNat / 2 ^ 64)
     ∧ gives (.idiv st rd a b) (fun v => if y = 0 then v = 0 else if y.toInt = -1 ∧ x.toInt = -2 ^ 63 then v = x else v.toInt = x.toInt.tdiv y.toInt)
     ∧ gives (.idivu st rd a b) (fun v => if y = 0 then v = 0 else v.toNat = x.toNat / y.toNat)
     ∧ gives (.imod st rd a b) (fun v => if y = 0 then v = x else if y.toInt = -1 then v = 0 else v.toInt = x.toInt.tmod y.toInt)
     ∧ gives (.imodu st rd a b) (fun v => if y = 0 then v = x else v.toNat = x.toNat % y.toNat))

/-- FP32 comparisons of the low words: 0 with a NaN, the two zeros equal, else the order of the values. F2I rounds a finite value to the nearest integer,
ties to even, and gives the nearest end of the range for a value or an infinity outside it and 0 for a NaN; I2F of an integer below 2^24 in size is
exact, so F2I gives it back. That both convert signed 32-bit integers is the model's choice (notes/assumptions/16.md); the upper halves are free values
(notes/assumptions/50.md). -/
def Obligations.FloatInstructions : Prop := ∀ (s : State) (st : Stall) (rd a b : XReg), s.sccGo st kPlain →
  let x := (s.xreg st a).setWidth 32
  let y := (s.xreg st b).setWidth 32
  let low (c : Instr) (w : Word) : Prop := ∃ v : Dword, v.setWidth 32 = w ∧ SccWrites c s st rd v
  ((f32IsNan x = true ∨ f32IsNan y = true) →
    SccWrites (.fcmplt st rd a b) s st rd 0 ∧ SccWrites (.fcmple st rd a b) s st rd 0 ∧ SccWrites (.fcmpeq st rd a b) s st rd 0)
  ∧ (x = 0 → y = 0x80000000#32 →
    SccWrites (.fcmplt st rd a b) s st rd 0 ∧ SccWrites (.fcmple st rd a b) s st rd 1 ∧ SccWrites (.fcmpeq st rd a b) s st rd 1)
  ∧ (let order (w : Word) : Int := if w.msb then -((w.toNat % 2 ^ 31 : Nat) : Int) else w.toNat
     f32IsNan x = false → f32IsNan y = false →
    SccWrites (.fcmplt st rd a b) s st rd (if order x < order y then 1 else 0)
    ∧ SccWrites (.fcmple st rd a b) s st rd (if order x ≤ order y then 1 else 0)
    ∧ SccWrites (.fcmpeq st rd a b) s st rd (if order x = order y then 1 else 0))
  ∧ (f32IsNan x = true → low (.f2i st rd a) 0)
  ∧ (let exp := x.toNat / 2 ^ 23 % 2 ^ 8
     -- the size of x, in units of 2^−150
     let size := (x.toNat % 2 ^ 23 + if exp = 0 then 0 else 2 ^ 23) * 2 ^ max exp 1
     exp ≠ 255 →
     (2 ^ 181 ≤ size → low (.f2i st rd a) (if x.msb then 0x80000000#32 else 0x7FFFFFFF#32))
     ∧ (size < 2 ^ 181 → ∃ n off : Nat, (n * 2 ^ 150 = size + off ∨ size = n * 2 ^ 150 + off) ∧ 2 * off ≤ 2 ^ 150 ∧ (2 * off = 2 ^ 150 → n % 2 = 0)
         ∧ low (.f2i st rd a) (BitVec.ofInt 32 (if x.msb then -(n : Int) else n))))
  ∧ (x = 0x7F800000#32 → low (.f2i st rd a) 0x7FFFFFFF#32) ∧ (x = 0xFF800000#32 → low (.f2i st rd a) 0x80000000#32)
  ∧ (∃ w : Word, low (.i2f st rd a) w ∧ (x.toInt.natAbs < 2 ^ 24 → f2iWord w = x))

/-- A load of DMEM reads its bytes, low byte first, and extends them by its sign or by zeros; an address that is not aligned to the load's size traps with
MISALIGN and its address, the store buffer being empty and no exception in hand, and so does a store. A store into DMEM writes its low bytes there,
low byte first, and nothing else in memory; the store buffer stays as it is. A tenant's aligned access below its base traps with ACCESS and its
address. -/
def Obligations.LoadsAndStoresOfDmem : Prop :=
  (∀ (s : State) (st : Stall) (rd base : XReg) (off : Dword) (o : Nat), s.sccGo st kPlain →
     s.xreg st base + off = BitVec.ofNat 64 (2 ^ 63 + o) → o < 0x10000 → s.dmemMay st o = true →
     let n (size : Nat) : Nat := leAt (s.bytes (dmemKey st o) size) 0 size
     let trap (c : Instr) : Prop := (s.sccOf st).stores = [] → (s.sccOf st).inTrap = false → Ends c s fun t => SccTrapped s t st 4 (2 ^ 63 + o)
     SccWrites (.ld8 st rd base off) s st rd ((BitVec.ofNat 8 (n 1)).signExtend 64)
     ∧ SccWrites (.ld8u st rd base off) s st rd (BitVec.ofNat 64 (n 1))
     ∧ (if o % 2 = 0 then SccWrites (.ld16 st rd base off) s st rd ((BitVec.ofNat 16 (n 2)).signExtend 64)
           ∧ SccWrites (.ld16u st rd base off) s st rd (BitVec.ofNat 64 (n 2))
         else trap (.ld16 st rd base off) ∧ trap (.ld16u st rd base off))
     ∧ (if o % 4 = 0 then SccWrites (.ld32 st rd base off) s st rd ((BitVec.ofNat 32 (n 4)).signExtend 64)
           ∧ SccWrites (.ld32u st rd base off) s st rd (BitVec.ofNat 64 (n 4))
         else trap (.ld32 st rd base off) ∧ trap (.ld32u st rd base off))
     ∧ (if o % 8 = 0 then SccWrites (.ld64 st rd base off) s st rd (BitVec.ofNat 64 (n 8)) else trap (.ld64 st rd base off)))
  ∧ (∀ (s : State) (st : Stall) (src base : XReg) (off : Dword) (o : Nat), s.sccGo st kPlain →
     s.xreg st base + off = BitVec.ofNat 64 (2 ^ 63 + o) → o < 0x10000 → s.dmemMay st o = true →
     let stored (c : Instr) (size : Nat) : Prop :=
       if o % size = 0 then Ends c s fun t => SccFrame s t st [] ∧ MemKept s t (dmemKey st o) size
         ∧ ∀ i, i < size → t.byte (dmemKey st o + i) = BitVec.ofNat 8 ((s.xreg st src).toNat / 2 ^ (8 * i))
       else (s.sccOf st).stores = [] → (s.sccOf st).inTrap = false → Ends c s fun t => SccTrapped s t st 4 (2 ^ 63 + o)
     stored (.st8 st src base off) 1 ∧ stored (.st16 st src base off) 2 ∧ stored (.st32 st src base off) 4 ∧ stored (.st64 st src base off) 8)
  ∧ (∀ (s : State) (st : Stall) (r base : XReg) (off : Dword) (o : Nat), s.sccGo st kPlain →
     s.xreg st base + off = BitVec.ofNat 64 (2 ^ 63 + o) → s.sup st = false → o < 4 * s.fld Reg.SCC_TEN_BASE_DBASE st → o < 0x10000 →
     (s.sccOf st).stores = [] → (s.sccOf st).inTrap = false →
     let barred (c : Instr) (size : Nat) : Prop := o % size = 0 → Ends c s fun t => SccTrapped s t st 5 (2 ^ 63 + o)
     (∀ c ∈ [Instr.ld8 st r base off, .ld8u st r base off, .st8 st r base off], barred c 1)
     ∧ (∀ c ∈ [Instr.ld16 st r base off, .ld16u st r base off, .st16 st r base off], barred c 2)
     ∧ (∀ c ∈ [Instr.ld32 st r base off, .ld32u st r base off, .st32 st r base off], barred c 4)
     ∧ ∀ c ∈ [Instr.ld64 st r base off, .st64 st r base off], barred c 8)

/-- A store to the stall's own buffer enters the store buffer behind the stores there, and memory changes only when it leaves (R365); one that finds 64
stores there waits, as if it had not been issued. The oldest store to the stall's own buffer leaves: its bytes are there, the other stores move up, no
other byte changes. -/
def Obligations.StoreBuffer : Prop :=
  (∀ (s : State) (st : Stall) (src base : XReg) (off : Dword) (o : Nat), s.sccGo st kPlain →
     o < 2 ^ 24 → s.xreg st base + off = BitVec.ofNat 64 (2 ^ 40 + st.val * 2 ^ 24 + o) →
     let stored (c : Instr) (size : Nat) : Prop := o % size = 0 →
       if (s.sccOf st).stores.length < 64 then
         Ends c s fun t => MemSame s t ∧ (t.sccOf st).stores = (s.sccOf st).stores ++ [⟨s.xreg st base + off, size, s.xreg st src, s.sup st⟩]
           ∧ ∀ r, t.xreg st r = s.xreg st r
       else Gives c s s
     stored (.st8 st src base off) 1 ∧ stored (.st16 st src base off) 2 ∧ stored (.st32 st src base off) 4 ∧ stored (.st64 st src base off) 8)
  ∧ (∀ (s : State) (st : Stall) (e : StoreEntry) (r : List StoreEntry) (o : Nat),
     s.awake → s.stallUp st = true → (s.sccOf st).stores = e :: r → (s.sccOf st).halting = false → o + e.size ≤ 2 ^ 24 →
     0 < e.size → o / 64 = (o + e.size - 1) / 64 → e.addr = BitVec.ofNat 64 (2 ^ 40 + st.val * 2 ^ 24 + o) →
     Ends (.storeBufferLeave st) s fun t => (t.sccOf st).stores = r ∧ MemKept s t (stbKey st o) e.size
       ∧ ∀ i, i < e.size → t.byte (stbKey st o + i) = BitVec.ofNat 8 (e.value.toNat / 2 ^ (8 * i)))

/-- The branches compare two registers; a taken one goes to its PC-relative target after the delay slot. GOTO and JUMPR go there always; CALL and CALLR
also put the address after the delay slot into their link register (R338, R342). A CALLR whose link is its base is none. After the instruction of a
delay slot (IADD stands for every instruction that is no branch) the next PC is the target of the branch taken before it, whose loops outside the
target end with LCn 0 and whose others stay (R342). -/
def Obligations.BranchesAndDelaySlots : Prop :=
  (∀ (s : State) (st : Stall) (a b rd : XReg) (off : Dword), s.sccGo st kBranch →
     let x := s.xreg st a
     let y := s.xreg st b
     let pc := (s.sccOf st).pc
     let br (c : Instr) (p : Prop) : Prop := (p → SccBranches c s st [] (some (pc + off))) ∧ (¬p → SccBranches c s st [] none)
     let link (t : State) : Prop := t.xreg st rd = if rd.val = 0 then 0 else pc + 8
     br (.brEq st a b off) (x = y) ∧ br (.brNe st a b off) (x ≠ y)
     ∧ br (.brLt st a b off) (x.toInt < y.toInt) ∧ br (.brGe st a b off) (y.toInt ≤ x.toInt)
     ∧ br (.brLtu st a b off) (x.toNat < y.toNat) ∧ br (.brGeu st a b off) (y.toNat ≤ x.toNat)
     ∧ SccBranches (.goto st off) s st [] (some (pc + off))
     ∧ SccBranches (.jumpr st a) s st [] (some x)
     ∧ SccBranches (.call st rd off) s st [rd] (some (pc + off)) ∧ Ends (.call st rd off) s link
     ∧ (rd ≠ a → SccBranches (.callr st rd a) s st [rd] (some x) ∧ Ends (.callr st rd a) s link))
  ∧ (∀ (s : State) (st : Stall) (rd rs : XReg) (b : Src2) (p tgt : Dword), s.sccGo st kPlain →
     (s.sccOf st).slot = some ⟨p, some tgt⟩ →
     Ends (.iadd st false rd rs b) s fun t => (t.sccOf st).pc = tgt ∧ (t.sccOf st).slot = none
       ∧ ∀ n, n < 3 →
         let l := SMap.get ((s.sccOf st).loops (s.sup st)) {} n
         let l' := SMap.get ((t.sccOf st).loops (s.sup st)) {} n
         if l.count ≠ 0 ∧ ¬(l.start.toNat ≤ tgt.toNat ∧ tgt.toNat ≤ l.last.toNat) then l' = { l with count := 0 } else l' = l)

/-- LOOP n sets count, start and end of its set of the mode's bank and goes on with its body, or behind it where the count is 0 (R344). The loop-back of
R345, for IADD standing for every instruction that is no branch and stands in no delay slot: of the active loops that end here, inner first, those
with one pass left end; the first with more passes counts down and goes to its start; if none is left, the next PC is P + 4. -/
def Obligations.HardwareLoops : Prop :=
  (∀ (s : State) (st : Stall) (n : LoopIx) (rs : XReg) (last : Dword),
     s.sccGo st kCtl → last.toNat ≤ 16384 → last.toNat % 4 = 0 →
     let c := s.sccOf st
     let count := (s.xreg st rs).setWidth 32
     Ends (.loop st n rs last) s fun t => SccFrame s t st [] ∧ MemSame s t
       ∧ (last ≠ 0 → SMap.get ((t.sccOf st).loops (s.sup st)) {} n.val = ⟨count, c.pc + 4, c.pc + last⟩)
       ∧ (t.sccOf st).loops (!s.sup st) = c.loops (!s.sup st)
       ∧ (∀ m, m ≠ n.val → SMap.get ((t.sccOf st).loops (s.sup st)) {} m = SMap.get (c.loops (s.sup st)) {} m)
       ∧ (if count = 0 then (t.sccOf st).pc = c.pc + last + 4 else last ≠ 0 → (t.sccOf st).pc = c.pc + 4))
  ∧ (∀ (s : State) (st : Stall) (rd rs : XReg) (b : Src2), s.sccGo st kPlain → (s.sccOf st).slot = none →
     let p := (s.sccOf st).pc
     let set (n : Nat) : LoopSet := SMap.get ((s.sccOf st).loops (s.sup st)) {} n
     let here (n : Nat) : Prop := (set n).count ≠ 0 ∧ (set n).last = p
     Ends (.iadd st false rd rs b) s fun t =>
       let set' (n : Nat) : LoopSet := SMap.get ((t.sccOf st).loops (s.sup st)) {} n
       (∀ n, n < 3 → here n → 1 < (set n).count.toNat → (∀ m, n < m → m < 3 → here m → (set m).count = 1) →
         (t.sccOf st).pc = (set n).start ∧ set' n = { set n with count := (set n).count - 1 }
         ∧ (∀ m, n < m → m < 3 → here m → set' m = { set m with count := 0 }) ∧ ∀ m, m < n → set' m = set m)
       ∧ ((∀ n, n < 3 → here n → (set n).count = 1) → (t.sccOf st).pc = p + 4 ∧ ∀ n, n < 3 → here n → set' n = { set n with count := 0 })
       ∧ ∀ n, n < 3 → ¬here n → set' n = set n)

/-- SUMR, SUMF and BSUM wait for VALID; then SUMR gives INDEX and VALUE, SUMF the flag byte, and BSUM branches where a flag of its mask is set (R357). -/
def Obligations.Summaries : Prop := ∀ (s : State) (st : Stall) (rd : XReg) (slot : Fin 8) (mask : Byte) (off : Dword),
  (s.sccGo st kPlain →
    if s.summValid st slot = true then
      SccWrites (.sumr st rd slot) s st rd (BitVec.ofNat 64 (s.rd Reg.SUMM st slot))
      ∧ SccWrites (.sumf st rd slot) s st rd (BitVec.ofNat 64 (bits (s.rd Reg.SUMM_FLAGS st) (8 * slot.val + 7) (8 * slot.val)))
    else SccWaits (.sumr st rd slot) s st ∧ SccWaits (.sumf st rd slot) s st)
  ∧ (s.sccGo st kBranch →
    if s.summValid st slot = true then
      SccBranches (.bsum st slot mask off) s st []
        (if (∃ i, i < 6 ∧ bit mask.toNat i = true ∧ bit (s.rd Reg.SUMM_FLAGS st) (8 * slot.val + i) = true) then some ((s.sccOf st).pc + off) else none)
    else SccWaits (.bsum st slot mask off) s st)

/-- CMD takes a record of the core's memory into the dispatcher: while a store waits or 16 commands are in the window it waits; then the command gets the
next sequence number and enters the window behind the others (R350). SHORT starts the transfer of a 32-byte record in DMEM once no store waits and an
entry of the table is free; SHORT_WAIT waits while the transfer it names is in flight, and gives 0 for a tag that is not (R356). The layout of the
SHORT record that `parseShort` reads is the model's choice (notes/assumptions/52.md). -/
def Obligations.CommandsAndShortTransfers : Prop :=
  (∀ (s : State) (st : Stall) (rs : XReg) (k room : Nat), s.sccGo st kPlain →
     s.recordPlace st (s.xreg st rs) = some (k, room) → (s.xreg st rs).toNat % 64 = 0 →
     if (s.sccOf st).stores = [] ∧ s.windowFull st = false then
       recordBytes (s.bytes k 16) ≤ room →
       Ends (.cmd st rs) s fun t => MemSame s t
         ∧ t.rd Reg.DSP_SEQ st = (s.rd Reg.DSP_SEQ st + 1) % 2 ^ 32
         ∧ ∃ w : WinCmd, (t.dspOf st).window = (s.dspOf st).window ++ [w] ∧ w.seq.toNat = s.rd Reg.DSP_SEQ st % 2 ^ 32
             ∧ w.record = s.bytes k (recordBytes (s.bytes k 16)) ∧ w.ok = false ∧ w.viaDq = false
     else SccWaits (.cmd st rs) s st)
  ∧ (∀ (s : State) (st : Stall) (rs rd : XReg) (o : Nat), s.sccGo st kPlain →
     (s.xreg st rs = BitVec.ofNat 64 (2 ^ 63 + o) → o + 32 ≤ 0x10000 → s.dmemMay st o = true →
       if (s.sccOf st).stores = [] ∧ (s.shortsOf st).length < 64 then
         Ends (.short st rs) s fun t => t.shortsOf st = s.shortsOf st ++ [parseShort (s.bytes (dmemKey st o) 32)] ∧ MemSame s t
           ∧ ∀ r, t.xreg st r = s.xreg st r
       else SccWaits (.short st rs) s st)
     ∧ ((s.sccOf st).shortWait = none → (s.xreg st rs).toNat < 2 ^ 16 → (∀ x ∈ s.shortsOf st, x.tag ≠ (s.xreg st rs).toNat) →
         SccWrites (.shortWait st rd rs) s st rd 0)
     ∧ ((s.xreg st rs).toNat < 2 ^ 16 → (∃ x ∈ s.shortsOf st, x.tag = (s.xreg st rs).toNat) →
         Ends (.shortWait st rd rs) s fun t => t.sccPc st = s.sccPc st ∧ (∀ r, t.xreg st r = s.xreg st r)
           ∧ t.flag Reg.SCC_STATUS_WAITING st = true ∧ t.shortsOf st = s.shortsOf st))

/-- WREADY waits for the stores to the groom port and for every selected ready line; WSTEP takes the step message, or waits for one; RDTB reads the
timebase; DRAIN waits for the store buffer; IDLE waits for an interrupt that INT_MASK selects (R354, R355, R363, R365), and wakes on it whatever IE
holds, the model's choice (notes/assumptions/21.md). -/
def Obligations.WaitingInstructions : Prop := ∀ (s : State) (st : Stall) (rd a b : XReg),
  (s.sccGo st kPlain →
    SccWrites (.rdtb st rd) s st rd s.tb
    ∧ ((s.xreg st a).toNat < 8 →
        let met : Prop := (∀ e ∈ (s.sccOf st).stores, portStore st e = false)
          ∧ ∀ i, i < 32 → bit (s.xreg st b).toNat i = true → bit (s.readyWord st (s.xreg st a).toNat) i = true
        (met → Ends (.wready st a b) s fun t => SccFrame s t st [] ∧ MemSame s t) ∧ (¬met → SccWaits (.wready st a b) s st))
    ∧ (if (s.sccOf st).stores = [] then Ends (.drain st) s (fun t => SccFrame s t st [] ∧ MemSame s t) else SccWaits (.drain st) s st)
    ∧ (if s.sccPending st = none then SccWaits (.idle st) s st else Ends (.idle st) s fun t => SccFrame s t st [] ∧ MemSame s t))
  ∧ (s.sccGo st kPriv →
    match (s.dspOf st).stepMsg with
    | none => SccWaits (.wstep st rd) s st
    | some m => Ends (.wstep st rd) s fun t => (t.dspOf st).stepMsg = none ∧ (t.xreg st rd = if rd.val = 0 then 0 else m)
        ∧ MemSame s t ∧ ∀ r, r ≠ rd → t.xreg st r = s.xreg st r)

/-- Exception entry: a TRAP, a BREAK or an unlisted word is taken by saving mode, IE, PC and cause, leaving for TRAP_ENTRY in supervisor mode with IE 0
and IN_TRAP 1, and changing no register, loop or memory; nothing happens while a store waits. WSTEP, SYSR, SYSW and TRET in tenant mode raise PRIV
with the instruction word, and a PC that cannot be fetched from raises FETCH with the PC, and execute nothing (R343, R358). A synchronous exception
while IN_TRAP is 1, the store buffer empty, halts the core: FATAL is set, and cause and PC are recorded (R361); at the third such halt within 1 s the
stall is lost: entered in the map-out list and out of its paddock, which shrinks (R435, R457). That a stall in no paddock is entered and reset too is
the model's choice (notes/assumptions/21.md). -/
def Obligations.ExceptionsAndFatalHalt : Prop :=
  (∀ (s : State) (st : Stall) (imm : BitVec 16) (word : Word),
     (s.sccOf st).inTrap = false →
     let taken (c : Instr) (cause info : Nat) : Prop :=
       if (s.sccOf st).stores = [] then Ends c s fun t => SccTrapped s t st cause info else Gives c s s
     (s.sccGo st kCtl → taken (.trap st imm) 7 imm.toNat ∧ taken (.breakOp st) 8 0)
     ∧ (s.awake → s.sccRuns st = true → s.sccFetch st = true → taken (.illegal st word) 1 word.toNat))
  ∧ (∀ (s : State) (st : Stall) (rd : XReg) (sys : SysReg),
     s.awake → s.sccRuns st = true → (s.sccOf st).inTrap = false → (s.sccOf st).stores = [] →
     (s.sccFetch st = true → s.sup st = false → s.sccIllegal st kPriv = false → s.sccIllegal st kCtl = false →
       ∀ c ∈ [Instr.wstep st rd, .sysr st rd sys, .sysw st sys rd, .tret st], Ends c s fun t => SccTrapped s t st 2 (s.sccWord st))
     ∧ (s.sccFetch st = false →
       ∀ c ∈ [Instr.wstep st rd, .sysr st rd sys, .sysw st sys rd, .tret st, .rdtb st rd], Ends c s fun t => SccTrapped s t st 3 (s.sccPc st).toNat))
  ∧ (∀ (s : State) (st : Stall) (imm : BitVec 16), s.sccGo st kCtl → (s.sccOf st).inTrap = true →
     (s.sccOf st).stores = [] →
     if (s.board.fatals.filter fun x => x.1 == st.val && decide (s.tb.toNat < x.2.toNat + 1000000000)).length < 2 then
       Ends (.trap st imm) s fun t => t.flag Reg.SCC_STATUS_RUNNING st = false ∧ t.flag Reg.SCC_STATUS_FATAL st = true
         ∧ t.rd Reg.SCC_FATAL st = 7 + (s.sccPc st).toNat % 2 ^ 16 * 2 ^ 16 ∧ (∀ r, t.xreg st r = s.xreg st r) ∧ MemSame s t
     else
       Ends (.trap st imm) s fun t => t.flag Reg.SCC_STATUS_RUNNING st = false ∧ t.paddockOf st = none ∧ MemSame s t
         ∧ (s.sagNow = false → (1, st.val) ∈ t.mapList) ∧ ∀ p, s.paddockOf st = some p → t.flag Reg.PDK_TACK_SHRUNK 0 p = true)

/-- TRET restores mode and IE, clears IN_TRAP and goes on at TRAP_PC, with the loops as they are; while a store waits nothing happens (R362). SYSR and
SYSW read and write every supervisor system register; what SYSW writes to one reads back, the others keep their values. That IE reads back at once,
though it takes effect later (R363), is the model's choice (notes/assumptions/16.md). The order of the bits of TRAP_STAT is the model's
(notes/assumptions/53.md), so of that register only the five bits are said to read back. -/
def Obligations.ReturnAndSystemRegisters : Prop :=
  (∀ (s : State) (st : Stall), s.sccGo st { kCtl with priv := true } →
     let c := s.sccOf st
     if c.stores = [] then
       Ends (.tret st) s fun t =>
         t.sup st = c.prevSup ∧ (t.sccOf st).ie = c.prevIe ∧ (t.sccOf st).ieLater = none ∧ (t.sccOf st).inTrap = false
         ∧ (t.sccOf st).pc = c.trapPc ∧ (t.sccOf st).slot = none ∧ (t.sccOf st).afterTret = true
         ∧ (t.sccOf st).loopsSup = c.loopsSup ∧ (t.sccOf st).loopsTen = c.loopsTen
         ∧ (∀ r, t.xreg st r = s.xreg st r) ∧ (∀ x, x ≠ st.val → t.sccOf x = s.sccOf x) ∧ MemSame s t
     else Gives (.tret st) s s)
  ∧ (∀ (s : State) (st : Stall) (rd rs : XReg) (sys : SysReg), s.sccGo st kPriv →
     SccWrites (.sysr st rd sys) s st rd ((s.sccOf st).readSys sys)
     ∧ (Ends (.sysw st sys rs) s fun t => MemSame s t ∧ (∀ r, t.xreg st r = s.xreg st r) ∧ (∀ x, x ≠ st.val → t.sccOf x = s.sccOf x)
         ∧ (∀ other, other ≠ sys → (t.sccOf st).readSys other = (s.sccOf st).readSys other)
         ∧ (t.sccOf st).readSys sys = match sys with
             | .trapStat => BitVec.ofNat 64 ((s.xreg st rs).toNat % 32)
             | .tlc _ => ((s.xreg st rs).setWidth 32).setWidth 64
             | _ => s.xreg st rs))

/-- An interrupt is taken at a boundary that R363 allows: the lowest pending one that INT_MASK selects, saved like an exception, TRAP_PC the next
instruction. Where R363 forbids it, nothing changes. A message in SCC_MBOX makes OSTLER pending; TIMER is pending from TB_ALARM on. RUN set starts a
halted core at SCC_RESET_PC in the mode it has; RUN cleared halts it once the store buffer is empty; a step message is held one deep until WSTEP takes
it (R339, R354, R367). That the bit of INT_MASK is the cause code's, and when a mailbox message becomes and ceases to be pending, is the model's choice
(notes/assumptions/21.md). -/
def Obligations.InterruptsRunAndHalt : Prop :=
  (∀ (s : State) (st : Stall) (msg : Word) (now : Dword), s.awake →
     (let c := s.sccOf st
      let may : Prop := s.sccRuns st = true ∧ c.ie = true ∧ c.inTrap = false ∧ c.slot = none ∧ c.afterTret = false ∧ c.stores = []
      match s.sccPending st with
      | some (cause, info) =>
        (may → Ends (.interruptTake st) s fun t =>
           (t.sccOf st).trapPc = c.pc ∧ (t.sccOf st).pc = c.trapEntry ∧ (t.sccOf st).trapCause = BitVec.ofNat 64 cause
           ∧ (t.sccOf st).trapInfo = BitVec.ofNat 64 info ∧ (t.sccOf st).prevSup = s.sup st ∧ (t.sccOf st).prevIe = c.ieNow
           ∧ (t.sccOf st).ie = false ∧ (t.sccOf st).inTrap = true ∧ t.sup st = true
           ∧ (∀ r, t.xreg st r = s.xreg st r) ∧ MemSame s t)
        ∧ (¬may → Gives (.interruptTake st) s s)
      | none => Gives (.interruptTake st) s s)
     ∧ (s.stallUp st = true → Ends (.sccMboxWrite st msg) s fun t => t.rd Reg.SCC_MBOX st = msg.toNat ∧ (t.sccOf st).mboxPending = true
         ∧ MemSame s t ∧ RegsKept s t [Reg.SCC_MBOX.key st 0])
     ∧ ((s.sccOf st).tbAlarm.toNat ≤ now.toNat → s.tb.toNat ≤ now.toNat →
         Ends (.tbAlarm st now) s fun t => t.tb = now ∧ MemSame s t ∧ RegsKept s t []
           ∧ (bit (s.sccOf st).intMask.toNat 0x12 = true → (t.sccPending st).isSome = true)))
  ∧ (∀ (s : State) (st : Stall) (m : Dword) (r : List Dword), s.awake → s.stallUp st = true →
     ((s.sccOf st).halting = false → s.flag Reg.SCC_STATUS_RUNNING st = false →
       Ends (.sccRun st true) s fun t => t.flag Reg.SCC_STATUS_RUNNING st = true ∧ t.sup st = s.sup st ∧ t.flag Reg.SCC_CTRL_RUN st = true
         ∧ t.sccPc st = BitVec.ofNat 64 (4 * s.fld Reg.SCC_RESET_PC_PC st) ∧ MemSame s t)
     ∧ ((s.sccOf st).halting = false → s.flag Reg.SCC_STATUS_RUNNING st = true →
       Ends (.sccRun st false) s fun t => t.flag Reg.SCC_CTRL_RUN st = false ∧ (t.sccOf st).stores = (s.sccOf st).stores
         ∧ (t.flag Reg.SCC_STATUS_RUNNING st = true ↔ (s.sccOf st).stores ≠ []) ∧ MemSame s t)
     ∧ (SMap.get s.stepMsgs [] st = m :: r → (s.dspOf st).stepMsg = none →
       Ends (.stepStartMsg st) s fun t => (t.dspOf st).stepMsg = some m ∧ SMap.get t.stepMsgs [] st = r ∧ MemSame s t))

/-! ### The dispatcher (13_control_core.md) -/

/-- DISPATCH takes the oldest command of the window whose latches are released and whose engine is free: those before it wait on a latch. It changes
nothing else, and nothing at all while a rejection is held (R350, R353). A completed command leaves its engine; its REL, where it has one or is a
LATCH_REL, is released in a stall of its own paddock, and no other latch moves (R351). A LATCH_REL completes once dispatched, a STEP_END once no
earlier command has yet to complete, in the window, in an engine or held as rejected (R354). LATCH_ARM waits for every such command that names a masked
latch, then clears every latch of its mask and no other (R352). Which commands keep their place behind an earlier one (`behindEarlier`), and that a REL
to a stall outside the paddock is dropped, is the model's choice (notes/assumptions/27.md). -/
def Obligations.DispatchAndLatches : Prop :=
  (∀ (s : State) (st : Stall) (a b : List WinCmd) (w : WinCmd),
     ((s.dspOf st).held ≠ none → exec (.dispatch st) s = .next s)
     ∧ (s.awake → s.stallUp st = true → (s.dspOf st).held = none → (s.dspOf st).window = a ++ w :: b → w.refused = false →
         s.waitsMet st w = true →
         (∀ x ∈ (s.dspOf st).running, sameEngine w x = false ∧ (armHolds x w = true → x.ok = true ∨ seqBefore x.seq w.seq = false)) →
         s.behindEarlier st w a = false → (∀ x ∈ a, ∃ l ∈ x.waits, s.latch st l = false) →
         Ends (.dispatch st) s fun t => (t.dspOf st).window = a ++ b ∧ (t.dspOf st).running = (s.dspOf st).running ++ [w]
           ∧ t.fld Reg.DSP_STATUS_DEPTH st = (a ++ b).length % 32 ∧ LatchesKept s t ∧ MemSame s t
           ∧ RegsKept s t [Reg.DSP_STATUS.key st 0]))
  ∧ (∀ (s : State) (st : Stall) (seq : Word) (w : WinCmd) (a b : List WinCmd),
     (s.awake → (s.dspOf st).running = a ++ w :: b → w.seq = seq → w.ok = true → (∀ x ∈ a ++ b, x.seq ≠ seq) → w.rel < 256 → w.relStall < 16 →
       Ends (.commandComplete st seq) s fun t => (t.dspOf st).running = a ++ b ∧ (t.dspOf st).window = (s.dspOf st).window ∧ MemSame s t
         ∧ ∀ x l, x < 16 → l < 256 → t.latch x l =
             (s.latch x l || ((w.relEn || w.op == opLatchRel) && s.samePaddock st w.relStall && decide (x = w.relStall ∧ l = w.rel))))
     ∧ (s.engineHas st seq opLatchRel w → Ends (.latchRel st seq) s fun t => Completed s t st w ∧ LatchesKept s t ∧ MemSame s t ∧ RegsKept s t [])
     ∧ (s.engineHas st seq opStepEnd w →
         if (s.dspOf st).earlier seq = [] then
           Ends (.stepEnd st seq) s fun t => Completed s t st w ∧ LatchesKept s t ∧ MemSame s t ∧ RegsKept s t []
         else exec (.stepEnd st seq) s = .next s))
  ∧ (∀ (s : State) (st : Stall) (seq : Word) (w : WinCmd), s.engineHas st seq opLatchArm w →
     let mask := recField w.record latchArmLayout 0
     if ((s.dspOf st).earlier seq).any (fun x => x.touches st mask) = true then exec (.latchArm st seq) s = .next s
     else Ends (.latchArm st seq) s fun t => Completed s t st w ∧ MemSame s t
       ∧ (∀ l, l < 256 → t.latch st l = (s.latch st l && !bit mask l))
       ∧ (∀ x l, x < 16 → x ≠ st.val → l < 256 → t.latch x l = s.latch x l))

/-- SKIP releases the held command's REL as if it had completed and resumes dispatch; FLUSH empties the window, releases no latch and resumes dispatch
(R351, R353). That SKIP releases no REL to a stall outside the paddock, and none of a LATCH_REL without REL_EN, is the model's choice
(notes/assumptions/27.md). WEIGHT_PRELOAD puts the first tile of the first matrix instruction of the window into the free tile register of each of its
arrays, once nothing but the weight path holds it back (R112). A command that its engine rejects leaves the engine, releases no latch, writes no
memory, sets CMD_REJ and is recorded in DSP_REJ_SEQ and DSP_REJ_OP; the dispatcher holds it (R353). -/
def Obligations.SkipsAndRejections : Prop :=
  (∀ (s : State) (st : Stall) (w : WinCmd) (a b : List WinCmd), s.awake →
     (s.stallUp st = true → (s.dspOf st).held = some w → w.rel < 256 → w.relStall < 16 →
       Ends (.dspSkip st) s fun t => (t.dspOf st).held = none ∧ (t.dspOf st).window = (s.dspOf st).window ∧ MemSame s t
         ∧ ∀ x l, x < 16 → l < 256 → t.latch x l =
             (s.latch x l || (w.relEn && s.samePaddock st w.relStall && decide (x = w.relStall ∧ l = w.rel))))
     ∧ (s.stallUp st = true → Ends (.dspFlush st) s fun t => (t.dspOf st).held = none ∧ (t.dspOf st).window = [] ∧ (t.dspOf st).running = (s.dspOf st).running
         ∧ t.fld Reg.DSP_STATUS_DEPTH st = 0 ∧ LatchesKept s t ∧ MemSame s t ∧ RegsKept s t [Reg.DSP_STATUS.key st 0])
     ∧ (let c := parseMmul w.record
        (s.dspOf st).window = a ++ w :: b → (∀ x ∈ a, x.op ≠ opMmul) → w.op = opMmul → s.preloadFree st w = true → (s.dspOf st).preload = 0 →
         (∀ x ∈ (s.dspOf st).running, preloadBlocked x = false) → (∀ y ∈ (s.dspOf st).window, y.seq = w.seq → y = w) →
         (checkMmul st s w matches .run) → c.v ≠ 0 → c.a.noSlots = false → c.w.kind ≠ 3 →
         Ends (.weightPreload st) s fun t => t.dspOf st = { s.dspOf st with preload := w.seq.toNat + 1 } ∧ MemSame s t ∧ RegsKept s t []
           ∧ ∀ x ∈ c.arrays, (t.wregsOf st x.1).free = c.tile (s.weightBlocks st w c) (s.img st w c.w (s.weightSpan st c)) 0 x.2))
  ∧ (∀ (s : State) (st : Stall) (seq : Word) (w : WinCmd) (u : State), (s.dspOf st).held = none →
     let rejects (c : Instr) (op : Nat) (check : State → WinCmd → Verdict) : Prop := s.engineHas st seq op w → check s w = .rejected u →
       Ends c s fun t => (t.dspOf st).held = some w ∧ (t.dspOf st).running = (s.dspOf st).running.filter (fun x => x.seq != w.seq)
         ∧ (t.dspOf st).window = (s.dspOf st).window ∧ t.flag Reg.DSP_STATUS_CMD_REJ st = true ∧ t.rd Reg.DSP_REJ_SEQ st = seq.toNat
         ∧ t.rd Reg.DSP_REJ_OP st = op ∧ LatchesKept s t ∧ MemSame s t
     (s.mmulWaits st seq = false → rejects (.mmul st seq) opMmul (checkMmul st)) ∧ rejects (.accZero st seq) opAccZero (checkAccZero st)
     ∧ rejects (.accStore st seq) opAccStore (checkAccStore st) ∧ rejects (.vchain st seq) opVchain (checkVchain st)
     ∧ rejects (.combine st seq) opCombine (checkCombine st) ∧ rejects (.cvt st seq) opCvt (checkCvt st)
     ∧ rejects (.hist st seq) opHist (checkHist st) ∧ rejects (.tblLoad st seq) opTblLoad (checkTblLoad st)
     ∧ rejects (.gpLoad st seq) opGpLoad (checkGpLoad st) ∧ rejects (.attn st seq) opAttn (checkAttn st)
     ∧ rejects (.attnMerge st seq) opAttnMerge (checkMerge st) ∧ rejects (.sample st seq) opSample (checkSample st))

/-- A command with a count of zero that passes its checks completes with status OK and changes no state (R6); a VCHAIN also makes the summary slot it names
valid, with VALUE +0, INDEX 0xFFFFFFFF and EMPTY (R121). A command that passes its checks and names no stream ring completes with status OK; it moves no
latch and writes only the buffer of its own stall (SAMPLE also records, ATTN also keys and values), and ACC_STORE, VCHAIN, COMBINE and CVT only the rows
of their destinations there. An ATTN whose QLATCH is clear waits, and ATTN and SAMPLE wait while a channel of their paddock performs owed refreshes or retrains (R210, R214;
notes/assumptions/71.md); an MMUL waits for an earlier TBL_LOAD to its table slot (R79). -/
def Obligations.EngineCommandsComplete : Prop :=
  (∀ (s : State) (st : Stall) (seq : Word) (w : WinCmd),
     let zero (c : Instr) (op : Nat) (check : State → WinCmd → Verdict) : Prop := s.engineHas st seq op w → (check s w matches .zero) →
       Ends c s fun t => Completed s t st w ∧ t = { s with dsp := t.dsp }
     (s.mmulWaits st seq = false → zero (.mmul st seq) opMmul (checkMmul st)) ∧ (s.mmulWaits st seq = true → exec (.mmul st seq) s = .next s)
     ∧ zero (.accZero st seq) opAccZero (checkAccZero st)
     ∧ zero (.accStore st seq) opAccStore (checkAccStore st) ∧ zero (.combine st seq) opCombine (checkCombine st)
     ∧ zero (.cvt st seq) opCvt (checkCvt st) ∧ zero (.hist st seq) opHist (checkHist st) ∧ zero (.gpLoad st seq) opGpLoad (checkGpLoad st)
     ∧ zero (.attn st seq) opAttn (checkAttn st) ∧ zero (.attnMerge st seq) opAttnMerge (checkMerge st)
     ∧ zero (.sample st seq) opSample (checkSample st)
     ∧ (let v := parseVchain w.record
        s.engineHas st seq opVchain w → (checkVchain st s w matches .run) → v.rows = 0 ∨ v.cols = 0 → Ends (.vchain st seq) s fun t =>
          Completed s t st w ∧ LatchesKept s t ∧ MemSame s t ∧ t.seg = s.seg
          ∧ RegsKept s t (if v.summ < 8 then [Reg.SUMM.key st v.summ, Reg.SUMM_FLAGS.key st 0] else [])
          ∧ (v.summ < 8 → t.rd Reg.SUMM st v.summ = 0xFFFFFFFF * 2 ^ 32 ∧ bit (t.rd Reg.SUMM_FLAGS st) (8 * v.summ + 4) = true
              ∧ (t.summValid st v.summ = true ↔ SMap.get (s.dspOf st).summLast 0 v.summ = w.seq.toNat + 1))))
  ∧ (∀ (s : State) (st : Stall) (seq : Word) (w : WinCmd),
     let rows (t : State) (d : Desc) (m n : Nat) : Prop :=
       ∀ k, (∀ r, r < m → k < stbKey st (d.loc + r * d.stride) ∨ stbKey st (d.loc + r * d.stride) + n ≤ k) → t.byte k = s.byte k
     let own (t : State) : Prop := ∀ k, k < stbKey st 0 ∨ stbKey st 0 + stbSize ≤ k → t.byte k = s.byte k
     let runs (c : Instr) (op : Nat) (check : State → WinCmd → Verdict) (descs : List Desc) (p : State → Prop) : Prop :=
       s.engineHas st seq op w → (check s w matches .run) → (∀ d ∈ descs, d.kind ≠ 3) → Ends c s fun t => Completed s t st w ∧ LatchesKept s t ∧ p t
     let m := parseMmul w.record
     let v := parseVchain w.record
     let b := parseCombine w.record
     let c := parseCvt w.record
     let a := parseAttn w.record
     let x := parseRect w.record
     let d := recDesc w.record accStoreLayout 5
     (s.mmulWaits st seq = false → runs (.mmul st seq) opMmul (checkMmul st) [m.a, m.w] (MemSame s))
     ∧ runs (.accZero st seq) opAccZero (checkAccZero st) [] (MemSame s)
     ∧ runs (.accStore st seq) opAccStore (checkAccStore st) [d] (fun t => own t ∧ rows t d x.m (rowBytes d.fmt x.n))
     ∧ runs (.vchain st seq) opVchain (checkVchain st) (v.src :: v.store :: v.allOperands.map (·.2)) (fun t => own t ∧
         (v.redWrites = false → if v.store.present = true ∧ v.store.kind = 0 then rows t v.store v.rows (rowBytes v.store.fmt v.cols) else MemSame s t)
         ∧ (v.store.present = false → v.red.ridx.present = false → MemKept s t (stbKey st v.red.rval.loc) (4 * v.redCount)))
     ∧ runs (.combine st seq) opCombine (checkCombine st) [] (fun t => own t ∧
         ∀ k, (k < stbKey st b.dst.loc ∨ stbKey st b.dst.loc + 4 * b.n ≤ k) →
           (b.op = 0 ∨ k < stbKey st b.dstIdx.loc ∨ stbKey st b.dstIdx.loc + 4 * b.n ≤ k) → t.byte k = s.byte k)
     ∧ runs (.cvt st seq) opCvt (checkCvt st) [c.src, c.dst] (fun t => own t ∧ rows t c.dst c.rows (rowBytes c.dstFmt c.cols))
     ∧ runs (.hist st seq) opHist (checkHist st) [(parseHist w.record).src] (MemSame s)
     ∧ runs (.attnMerge st seq) opAttnMerge (checkMerge st) [] own
     ∧ (if s.paddockReady st = true then runs (.sample st seq) opSample (checkSample st) [] (fun _ => True)
         else s.engineHas st seq opSample w → (checkSample st s w matches .run) → Gives (.sample st seq) s s)
     ∧ (if (a.qlatch = 0xFF ∨ s.latch st a.qlatch = true) ∧ s.paddockReady st = true then
           runs (.attn st seq) opAttn (checkAttn st) [] (fun _ => True)
         else s.engineHas st seq opAttn w → (checkAttn st s w matches .run) → Gives (.attn st seq) s s))

/-- A source in a stream ring (HIST stands for every engine): in its turn at the ring, the command moves the oldest FULL slot to TAKEN; while there is none
it waits. It reads the slot, returns it to FREE, and completes with its bytes (R238). -/
def Obligations.StreamSlotsAreTaken : Prop := ∀ (s : State) (st : Stall) (seq : Word) (w : WinCmd) (r : Ring),
  let c := parseHist w.record
  let ch := c.src.chan
  s.awake → s.runningCmd st seq opHist = some w → w.outs = none → w.summ = none → (s.dspOf st).running = [w] →
  c.src.kind = 3 → c.src.slots = 1 → 0 < r.slotLines → 0 < r.nslot → (s.dmaOf st ch).ring = some r → r.isOut = false →
  (w.issued = false → (checkHist st s w matches .run) → s.ringTurn st w ch = true → SMap.get w.reads 0 c.src.place = 0 →
    SMap.get w.holding false c.src.place = false →
    (r.inUse = false → r.head < r.started → r.complete r.head = true →
      Ends (.hist st seq) s fun t => (t.dmaOf st ch).ring = some { r with inUse := true } ∧ MemSame s t ∧ LatchesKept s t
        ∧ ∃ x, (t.dspOf st).running = [x] ∧ x.ok = false ∧ x.issued = true ∧ x.seq = seq ∧ SMap.get x.holding false c.src.place = true)
    ∧ ((r.inUse = true ∨ r.started ≤ r.head ∨ r.complete r.head = false) → Ends (.hist st seq) s fun t => t = { s with dsp := t.dsp }
        ∧ (t.dmaOf st ch).ring = some r ∧ ∃ x, (t.dspOf st).running = [x] ∧ x.ok = false ∧ x.issued = true ∧ x.seq = seq))
  ∧ (w.issued = true → SMap.get w.holding false c.src.place = true → SMap.get w.reads 0 c.src.place = 0 →
    Ends (.hist st seq) s fun t => (t.dmaOf st ch).ring = some { r with head := r.head + 1, inUse := false } ∧ MemSame s t ∧ LatchesKept s t
      ∧ ∃ x, (t.dspOf st).running = [x] ∧ x.ok = true ∧ x.seq = seq)

/-! ### The engines -/

/-- MMUL of operands in the buffer, its weight plain or compressed without damage and its first tile the preloaded one where there is one (R71 to R73,
R112): result (r, n) is the canonical part sum of row r and column n, added once to its accumulator where the command adds, and the canonical NaN, with the row's tag, where a line of the row is poisoned; every accumulator outside the
result stays as it is (R57, R98, R105, R106). ACC_ZERO sets its rectangle to +0, clears the tag of each row it covers whole, and leaves every other
accumulator and tag. ACC_STORE into the buffer in a format of whole bytes writes the narrowed elements of its rows, low byte first (R108, R109). -/
def Obligations.MatrixProductAndAccumulators : Prop :=
  (∀ (s : State) (st : Stall) (seq : Word) (w : WinCmd) (tbl : CodeTable) (r n : Nat),
     let c := parseMmul w.record
     let cpb := codesPerBlock c.w.fmt
     -- block j of a compressed weight, where the sizes of those before it put it
     let size (j : Nat) : Nat := 64 * (s.byte (stbKey st (c.w.stride + j))).toNat
     let block (j : Nat) : BlockVerdict :=
       decodeBlock s.crc c.w.fmt c.w.tableId tbl (s.stbRead st (c.w.loc + ((List.range j).map size).sum) (size j))
     s.engineHas st seq opMmul w → (checkMmul st s w matches .run) → s.mmulWaits st seq = false → c.a.kind = 0 → c.w.kind = 0 →
     (c.w.comp = true → SMap.get s.tables none (1024 * st + c.w.tableId) = some tbl ∧ ∀ j, j < c.blockCount → (block j).cause = 0) →
     r < c.m → n < c.n → s.spanPoison st c.w.loc (s.weightSpan st c) = false → (∀ g x, s.preloaded st c w.seq g = some x → x.2 = false) →
     let rowAt := c.a.loc + r * c.a.stride
     let row := (List.range c.v).map fun k =>
       expandEX16 c.a.fmt c.a.zpOpt none (packedCode (s.stbRead st rowAt (rowBytes c.a.fmt c.v)) (fmtBits c.a.fmt) k)
     let scale := if c.w.scaleEn then some (s.scaleAt st (c.w.scaleBase + n)) else none
     let code (k : Nat) : Nat := match k / 128, s.preloaded st c w.seq (n / 128) with
       | 0, some x => x.1.getD (k % 128 * 128 + n % 128) 0
       | _, _ =>
         let i := (k / 128 * c.groups + n / 128) * 16384 + k % 128 * 128 + n % 128
         if c.w.comp then (block (i / cpb)).codes.getD (i % cpb) 0 else packedCode (s.stbRead st c.w.loc (s.weightSpan st c)) (fmtBits c.w.fmt) i
     let col := (List.range c.v).map fun k => expandEX16 c.w.fmt c.w.zpOpt scale (code k)
     let p := c.place r n
     let old := s.accAt st p.1 p.2.1 p.2.2
     Ends (.mmul st seq) s fun t =>
       (if s.spanPoison st rowAt (rowBytes c.a.fmt c.v) = true then
          t.accAt st p.1 p.2.1 p.2.2 = f32NaN ∧ t.accPoison st p.1 p.2.1 = true ∧ t.flag Reg.MXE_STATUS_POISON_SEEN st = true
        else t.accAt st p.1 p.2.1 p.2.2 = if c.add then (accAdd ⟨old, false, false⟩ (c.element row col)).v else (c.element row col).v)
       ∧ ∀ bank i j, bank < 2 → i < 128 → j < 128 → (∀ r' n', r' < c.m → n' < c.n → c.place r' n' ≠ (bank, i, j)) →
           t.accAt st bank i j = s.accAt st bank i j)
  ∧ (∀ (s : State) (st : Stall) (seq : Word) (w : WinCmd),
     let c := parseRect w.record
     let d := recDesc w.record accStoreLayout 5
     (s.engineHas st seq opAccZero w → (checkAccZero st s w matches .run) → Ends (.accZero st seq) s fun t =>
       ∀ bank i j, bank < 2 → i < 128 → j < 128 →
         (let inside : Prop := bank = c.bank ∧ c.row0 ≤ i ∧ i < c.row0 + c.m ∧ c.col0 ≤ j ∧ j < c.col0 + c.n
          (inside → t.accAt st bank i j = 0) ∧ (¬inside → t.accAt st bank i j = s.accAt st bank i j))
         ∧ t.accPoison st bank i = (s.accPoison st bank i && !decide (bank = c.bank ∧ c.row0 ≤ i ∧ i < c.row0 + c.m ∧ c.n = 128)))
     ∧ (s.engineHas st seq opAccStore w → (checkAccStore st s w matches .run) → d.kind = 0 → fmtBits d.fmt % 8 = 0 →
         (c.m = 1 ∨ rowBytes d.fmt c.n ≤ d.stride) → Ends (.accStore st seq) s fun t => ∀ r n, r < c.m → n < c.n →
           t.holdsAt (stbKey st (d.loc + r * d.stride + n * (fmtBits d.fmt / 8))) (fmtBits d.fmt / 8)
             (narrow false d.fmt d.zpOpt (f32Dec (s.accAt st c.bank (c.row0 + r) (c.col0 + n)))).code))

/-- VCHAIN of an FP32 or narrower source in the buffer with immediate operands, no mask and no reduction, stored as FP32: each element is the value of the
chain at the store's tap, written low byte first (R117, R122). MAX, MIN and CLAMP with a NaN operand give the canonical NaN, and CMPGT and CMPEQ give
+0; MAX of the two zeros is +0 and MIN of them −0 (R125). COMBINE: element i of the destination is the tree sum of the parts, or the winner with its
index (R59, R63, R137). -/
def Obligations.VectorChainAndCombine : Prop :=
  (∀ (s : State) (st : Stall) (seq : Word) (w : WinCmd) (r k : Nat),
     let v := parseVchain w.record
     s.engineHas st seq opVchain w → (checkVchain st s w matches .run) → v.src.kind = 0 → (∀ g ∈ v.stages, g.bsrc ≤ 1 ∧ g.csrc ≤ 1) →
     v.mask.present = false → v.hasRed = false → v.store.present = true → v.store.kind = 0 → v.store.fmt = 8 →
     (v.rows = 1 ∨ 4 * v.cols ≤ v.store.stride) → s.spanPoison st v.src.loc (spanBytes v.src.fmt v.src.stride v.rows v.cols) = false →
     r < v.rows → k < v.cols →
     let x := widen32 v.src.fmt v.src.zpOpt (packedCode (s.stbRead st (v.src.loc + r * v.src.stride) (rowBytes v.src.fmt v.cols)) (fmtBits v.src.fmt) k)
     let taps := chainRun (v.stages.map fun g => (g.op, if g.bsrc = 0 then 0 else g.immB, if g.csrc = 0 then 0 else g.immC)) x
     Ends (.vchain st seq) s fun t => t.holdsAt (stbKey st (v.store.loc + r * v.store.stride + 4 * k)) 4
       (narrow false 8 v.store.zpOpt (f32Dec (taps.getD v.storeAt ⟨0, false, false, false⟩).v)).code)
  ∧ (∀ a b c : Word,
     ((f32IsNan a = true ∨ f32IsNan b = true) → (stageRun 0x07 a b c).v = f32NaN ∧ (stageRun 0x08 a b c).v = f32NaN
       ∧ (stageRun 0x0B a b c).v = 0 ∧ (stageRun 0x0C a b c).v = 0)
     ∧ ((f32IsNan a = true ∨ f32IsNan b = true ∨ f32IsNan c = true) → (stageRun 0x0E a b c).v = f32NaN)
     ∧ ∀ x ∈ [((0 : Word), 0x80000000#32), (0x80000000#32, 0)], (stageRun 0x07 x.1 x.2 c).v = 0 ∧ (stageRun 0x08 x.1 x.2 c).v = 0x80000000#32)
  ∧ (∀ (s : State) (st : Stall) (seq : Word) (w : WinCmd) (i : Nat),
     let c := parseCombine w.record
     s.engineHas st seq opCombine w → (checkCombine st s w matches .run) → i < c.n →
     let val (p : Nat) : Word := match c.srcOf p with | some x => BitVec.ofNat 32 (leAt (s.stbRead st (x.val.loc + 4 * i) 4) 0 4) | none => 0
     Ends (.combine st seq) s fun t =>
       (c.op = 0 → t.holdsAt (stbKey st (c.dst.loc + 4 * i)) 4
         (treeAdd (Nat.log2 c.parts) ((List.range c.parts).map fun p => ⟨val p, false, false⟩)).v.toNat)
       ∧ (c.op ≠ 0 → t.holdsAt (stbKey st (c.dstIdx.loc + 4 * i)) 4 (s.combineAt st c i).index
           ∧ (spansMeet c.dst.loc (4 * c.n) c.dstIdx.loc (4 * c.n) = false →
               t.holdsAt (stbKey st (c.dst.loc + 4 * i)) 4 (s.combineAt st c i).value.toNat)))

/-- CVT in the buffer to a format of whole bytes writes the converted elements, low byte first. HIST adds one to the bin of each element, and each bin
holds at its largest value; CLEAR sets all 256 bins and the NaN count to zero (R64 to R68). -/
def Obligations.ConversionAndHistogram : Prop := ∀ (s : State) (st : Stall) (seq : Word) (w : WinCmd),
  let c := parseCvt w.record
  let h := parseHist w.record
  (s.engineHas st seq opCvt w → (checkCvt st s w matches .run) → c.src.kind = 0 → c.dst.kind = 0 → fmtBits c.dstFmt % 8 = 0 →
    (cvtInPlace w.record = true → fmtBits c.srcFmt = fmtBits c.dstFmt) → (c.rows = 1 ∨ rowBytes c.dstFmt c.cols ≤ c.dst.stride) →
    Ends (.cvt st seq) s fun t => ∀ r k, r < c.rows → k < c.cols →
      t.holdsAt (stbKey st (c.dst.loc + r * c.dst.stride + k * (fmtBits c.dstFmt / 8))) (fmtBits c.dstFmt / 8)
        (cvtElem c (packedCode (s.stbRead st (c.src.loc + r * c.src.stride) (rowBytes c.srcFmt c.cols)) (fmtBits c.srcFmt) k)).code)
  ∧ (s.engineHas st seq opHist w → (checkHist st s w matches .run) → h.src.kind = 0 →
      let codes := (List.range h.rows).flatMap fun r => (List.range h.cols).map fun k =>
        packedCode (s.stbRead st (h.src.loc + r * h.src.stride) (rowBytes h.src.fmt h.cols)) (fmtBits h.src.fmt) k
      Ends (.hist st seq) s fun t =>
        (∀ b, b < 256 → t.fld Reg.HGU_BIN_COUNT st b =
          min (s.fld Reg.HGU_BIN_COUNT st b + (codes.filter fun x => s.histBin (histSnap st s w) h.src x == some b).length) (2 ^ 32 - 1))
        ∧ t.fld Reg.HGU_NAN_CNT_COUNT st =
            min (s.fld Reg.HGU_NAN_CNT_COUNT st + (codes.filter fun x => (s.histBin (histSnap st s w) h.src x).isNone).length) (2 ^ 32 - 1))
  ∧ (s.awake → s.stallUp st = true → Ends (.hguClear st) s fun t => (∀ b, b < 256 → t.rd Reg.HGU_BIN st b = 0) ∧ t.rd Reg.HGU_NAN_CNT st = 0 ∧ MemSame s t
      ∧ RegsKept s t (Reg.HGU_NAN_CNT.key st 0 :: (List.range 256).map fun b => Reg.HGU_BIN.key st b))

/-- A code of a good table, its most significant bit first, decodes to its symbol: the code of a symbol is as many units of 2^−length as the codes before
it in the order of length and symbol take up (R74, R75). A raw block whose header and check hold gives its packed codes (R84, R87). TBL_LOAD of a good
image puts its table into the slot the image names and sets its TBL_VALID bit; a bad one empties the slot, sets TBL_BAD with its
identifier and rejects the command; while a matrix instruction dispatched before it uses the slot it waits (R77 to R79). A load into a groom waits for the
groom's sequence, whatever slots that uses (the model's choice, notes/assumptions/75.md), then fills the slot of the context's map. GP_LOAD waits for every target's ready line, its GOs held, then the store of every target
holds the code (R150, R151). -/
def Obligations.TableAndMicroprogramLoads : Prop := ∀ (s : State) (st : Stall) (seq : Word) (w : WinCmd),
  (∀ (img : List Byte) (t : CodeTable) (sym : Nat) (rest : List Bool), parseTable img = some t →
    let len (x : Nat) : Nat := t.lens.getD x 0
    let before (x : Nat) : Prop := len x ≠ 0 ∧ (len x < len sym ∨ (len x = len sym ∧ x < sym))
    let code := (((List.range t.lens.length).filter fun x => decide (before x)).map fun x => 2 ^ (12 - len x)).sum / 2 ^ (12 - len sym)
    sym < t.lens.length → len sym ≠ 0 →
      decodeOne (t.rows t.maxLen 1 0) 0 (((List.range (len sym)).map fun i => bit code (len sym - 1 - i)) ++ rest) = some (sym, rest))
  ∧ (∀ (crc : Bool) (fmt tid : Nat) (t : CodeTable) (b : List Byte), fmtCodable fmt = true → b.length = 4160 →
      leAt b 0 2 = tid % 1024 + 2 ^ 10 + fmt * 2 ^ 12 → tid < 1024 → byteAt b 2 = 0 → byteAt b 3 = 0 →
      let payload := (b.drop (if crc then 16 else 8)).take 4096
      (if crc then leAt b 4 8 = 0 ∧ leAt b 12 4 = crc32c (b.take 12 ++ payload) else leAt b 4 4 = 0) →
      (fmtBits fmt = 6 → ∀ i, 4080 ≤ i → i < 4096 → byteAt payload i = 0) →
      decodeBlock crc fmt tid t b = ⟨0, 0, (List.range (codesPerBlock fmt)).map fun i => packedCode payload (fmtBits fmt) i⟩)
  ∧ (s.engineHas st seq opTblLoad w → (checkTblLoad st s w matches .run) → (parseTblLoad w.record).groom = false →
    let off := (parseTblLoad w.record).image
    let id := tableImageId (s.stbRead st off 64)
    if ((s.dspOf st).ahead w.seq).any (fun x => tableUse x == some id) = true then Gives (.tblLoad st seq) s s
    else match s.tableImage st off with
      | some x => Ends (.tblLoad st seq) s fun t => Completed s t st w ∧ SMap.get t.tables none (1024 * st + id) = some x
          ∧ bit (t.rd Reg.TBL_VALID st (id / 32)) (id % 32) = true ∧ MemSame s t ∧ RegsKept s t [Reg.TBL_VALID.key st (id / 32)]
      | none => Ends (.tblLoad st seq) s fun t => SMap.get t.tables none (1024 * st + id) = none
          ∧ bit (t.rd Reg.TBL_VALID st (id / 32)) (id % 32) = false ∧ t.flag Reg.DEC_STATUS_TBL_BAD st = true
          ∧ t.rd Reg.TBL_BAD_ID st = id ∧ t.flag Reg.DSP_STATUS_CMD_REJ st = true ∧ MemSame s t)
  ∧ (∀ p n, s.engineHas st seq opTblLoad w → (checkTblLoad st s w matches .run) → (parseTblLoad w.record).groom = true →
      s.positionOf st (parseTblLoad w.record).gi = some p → s.hostOf p = some n →
      let c := parseTblLoad w.record
      let id := tableImageId (s.stbRead st c.image 64)
      let slot := s.physSlot p c.slot
      if (s.groom n).run.isSome = true then Gives (.tblLoad st seq) s s
      else match s.tableImage st c.image with
        | some x => Ends (.tblLoad st seq) s fun t => Completed s t st w ∧ SMap.get (t.groom n).tables none slot = some (id, x)
            ∧ t.grmTbl p c.slot = id + 2 ^ 31 ∧ MemSame s t ∧ RegsKept s t []
        | none => Ends (.tblLoad st seq) s fun t => SMap.get (t.groom n).tables none slot = none ∧ t.flag Reg.GRM_STATUS_TBL_BAD p = true
            ∧ t.rd Reg.TBL_BAD_ID st = id ∧ t.flag Reg.DSP_STATUS_CMD_REJ st = true ∧ MemSame s t)
  ∧ (s.engineHas st seq opGpLoad w → (checkGpLoad st s w matches .run) →
      let off := (parseGpLoad w.record).1
      let targets := s.gpTargets st (parseGpLoad w.record).2
      let len := 64 * bits (leAt (s.stbRead st off 64) 2 2) 8 0
      if (∀ p ∈ targets, s.ready p = true) then
        Ends (.gpLoad st seq) s fun t => Completed s t st w ∧ RegsKept s t [] ∧
          ∀ p ∈ targets, ∀ n, s.hostOf p = some n → (t.groom n).codeLen = len
            ∧ t.bytes (grmProgKey n 0) len = s.stbRead st (off + 64) len
            ∧ (t.groom n).entries = (List.range 16).map fun i => leAt (s.stbRead st off 64) (8 + 2 * i) 2
      else Ends (.gpLoad st seq) s fun t => t = { s with dsp := t.dsp }
        ∧ (t.dspOf st).running = (s.dspOf st).running.map (fun x => if x.seq = w.seq then { w with issued := true } else x)
        ∧ ∀ p ∈ targets, ∀ n, s.hostOf p = some n → s.stallOf n = st.val → t.loadHolds n = true)

/-- ATTN of one sequence: a row of OUT takes the node of its query row over the part's pages, as a FINAL row or as a NODE record, and RSTAT its status
(R265 to R272, R274); an entry without query rows writes nothing. A faulted sequence (its entry breaks R266) writes no cache line: it sets MMU_FAULT
with the first such entry, is counted, and is reported to the sequencer (R277). ATTN_MERGE: a row whose nodes fit together takes the merge tree of
them in part order; one whose nodes do not is the fault node, OUT all canonical NaN, RSTAT 8 (R270, R271, R275). -/
def Obligations.AttentionRowsAndFaults : Prop := ∀ (s a u y : State) (st : Stall) (seq : Word) (w : WinCmd) (found : List (Nat × KvPage × List Byte))
  (kv : List KvRow) (row : Nat × Nat × Nat) (r : Nat),
  let c := parseAttn w.record
  let v := s.stepTable st c.lt.loc false
  let e := parseLt (v.stbRead st c.lt.loc 32)
  let m := parseMerge w.record
  (s.engineHas st seq opAttn w → (checkAttn st s w matches .run) → c.nseq = 1 → (c.qlatch = 0xFF ∨ s.latch st c.qlatch = true) → s.paddockReady st = true →
    (ltGood c e = true → e.qrows = 0 → Ends (.attn st seq) s fun t => Completed s t st w ∧ MemSame v t)
    ∧ (let spans (x : Nat × Nat × Nat) : List (Nat × Nat) := outSpan c e x :: if c.rstat.present then [rstatSpan c e x] else []
       let n := y.rowNode st c e kv row
       ltGood c e = true → e.qrows ≠ 0 → (if c.newK.present then v.appendAll st c e (List.range e.qrows) else (v, none)) = (a, none) →
       a.walkPages st c e ((List.range ((e.l + 63) / 64)).filter fun p => c.covers e (64 * p)) = (u, .ok found) → u.readPages c e found = (y, kv) →
       row ∈ attnRows c e → (∀ x ∈ attnRows c e, x ≠ row → ∀ p ∈ spans row, ∀ q ∈ spans x, meets p q = false) →
       (c.rstat.present = true → meets (outSpan c e row) (rstatSpan c e row) = false) →
       Ends (.attn st seq) s fun t => Completed s t st w
         ∧ (c.rstat.present = true → t.byte (stbKey st (rstatSpan c e row).1) = rstatByte c.node n)
         ∧ (c.node = true → t.bytes (stbKey st (outSpan c e row).1) c.outBytes = nodeRecord c.d (c.part * c.w e) ((c.part + 1) * c.w e - 1) n)
         ∧ (c.node = false → c.out.fmt = 8 → ∀ i, i < c.d → t.holdsAt (stbKey st ((outSpan c e row).1 + 4 * i)) 4
             (narrow false 8 c.out.zpOpt (f32Dec ((finalRow c.d n).getD i 0))).code))
    ∧ (ltGood c e = false →
        Ends (.attn st seq) s fun t => Completed s t st w ∧ t.flag Reg.ATS_STATUS_MMU_FAULT st = true
          ∧ t.fld Reg.ATS_FAULT_CNT_COUNT st = min (s.fld Reg.ATS_FAULT_CNT_COUNT st + 1) (2 ^ 32 - 1)
          ∧ (s.flag Reg.ATS_STATUS_MMU_FAULT st = false →
              t.fld Reg.ATS_FAULT_SEQ_LEDGER st = e.ledger ∧ t.fld Reg.ATS_FAULT_SEQ_CAUSE st = causeAddr)
          ∧ SMap.get t.atsFault false e.ledger = true
          ∧ ∀ k, k < stbKey st 0 ∨ stbKey st 0 + stbSize ≤ k → t.byte k = s.byte k))
  ∧ (s.engineHas st seq opAttnMerge w → (checkMerge st s w matches .run) → r < m.rows → (m.rows = 1 ∨ m.outBytes ≤ m.out.stride) →
      let src (p : Nat) : Desc := match m.srcs.find? (fun x => x.1 == p) with | some x => x.2 | none => m.out
      let node (p : Nat) : Node × Nat × Nat := parseNode m.d (s.stbRead st ((src p).loc + r * (src p).stride) (64 + 4 * m.d))
      let first := (node 0).2.1
      let wd := (node 0).2.2 + 1 - first
      let n := mergeTree (Nat.log2 m.parts) ((List.range m.parts).map fun p => (node p).1)
      (wd ≠ 0 → first % (m.parts * wd) = 0 → (∀ p, p < m.parts → (node p).2.1 = first + p * wd ∧ (node p).2.2 + 1 = first + (p + 1) * wd) →
        (∀ p, p < m.parts → (node p).1.fault = false) → Ends (.attnMerge st seq) s fun t => Completed s t st w
          ∧ (m.rstat.present = true → t.byte (stbKey st (m.rstat.loc + r)) = rstatByte m.node n)
          ∧ (m.node = true → t.bytes (stbKey st (m.out.loc + r * m.out.stride)) m.outBytes = nodeRecord m.d first (node (m.parts - 1)).2.2 n)
          ∧ (m.node = false → m.out.fmt = 8 → ∀ i, i < m.d → t.holdsAt (stbKey st (m.out.loc + r * m.out.stride + 4 * i)) 4
              (narrow false 8 m.out.zpOpt (f32Dec ((finalRow m.d n).getD i 0))).code))
      ∧ ((node 1).2.1 ≠ (node 0).2.2 + 1 → Ends (.attnMerge st seq) s fun t => Completed s t st w ∧ t.flag Reg.ATS_STATUS_DESC_BAD st = true
          ∧ (m.rstat.present = true → t.byte (stbKey st (m.rstat.loc + r)) = 8)
          ∧ (m.node = false → m.out.fmt = 8 → ∀ i, i < m.d → t.holdsAt (stbKey st (m.out.loc + r * m.out.stride + 4 * i)) 4 f32NaN.toNat)))

/-- SAMPLE of one row with readable parameters and a candidate reports the token that R321 to R326 choose to the sequencer, counts the row, and queues its
record for a live request whose position has not been issued; a poisoned row gives no token: POISON_ROW, a count and no record (R328, R329, R334). -/
def Obligations.SampledRow : Prop := ∀ (s u : State) (st : Stall) (seq : Word) (w : WinCmd) (q : Params) (mask : List Byte) (p : Nat),
  let c := parseSample w.record
  let v := s.stepTable st c.table true
  let b := v.stbRead st c.table 64
  let ix := bits (leAt b 0 2) 12 0
  let pos := leAt b 4 4
  let at_ := c.logits.loc + leAt b 8 3 * c.logits.stride
  let n := rowBytes c.logits.fmt c.v
  s.engineHas st seq opSample w → (checkSample st s w matches .run) → c.nent = 1 → s.paddockReady st = true → s.paddockOf st = some p →
  bits (byteAt b 2) 4 0 = 1 → at_ + n ≤ stbSize →
  (v.spanPoison st at_ n = true → Ends (.sample st seq) s fun t => Completed s t st w ∧ t.flag Reg.TMB_STATUS_POISON_ROW st = true ∧ t.ledger = s.ledger
    ∧ t.fld Reg.TMB_POISON_CNT_COUNT st = min (s.fld Reg.TMB_POISON_CNT_COUNT st + 1) (2 ^ 32 - 1) ∧ MemSame v t)
  ∧ (v.spanPoison st at_ n = false → v.params st (leAt b 40 8) c.v = (u, some (q, mask)) → (u.pdkOf p).res = [] → u.paddockOf st = some p →
      let row := (List.range c.v).map fun k => widen32 c.logits.fmt none (packedCode (u.stbRead st at_ n) (fmtBits c.logits.fmt) k)
      let e := u.entryOf ix
      let live : Prop := e.state ≠ stFree ∧ e.state ≠ stDone ∧ (u.pdkOf e.paddock).abandonAt = none ∧ (u.pdkOf e.paddock).abandon = false
        ∧ u.follower e.paddock = false
      ∀ tok lp, chooseToken q c.v pos (candidates q mask row).1 = some (tok, lp) →
        Ends (.sample st seq) s fun t => Completed s t st w ∧ (t.pdkOf p).res = [⟨ix, 1, tok, q.stops.contains tok, 0⟩]
          ∧ t.rd Reg.TMB_ROW_CNT st = (u.rd Reg.TMB_ROW_CNT st + 1) % 2 ^ (8 * Reg.TMB_ROW_CNT.bytes)
          ∧ (live → max e.issuedTo (leAt b 36 4) ≤ pos → (t.entryOf ix).recs = e.recs ++
              [{ kind := 0, token := tok, pos := pos, logprob := lp, stop := q.stops.contains tok, draft := false, st := st, lead := true }])
          ∧ ((¬live ∨ pos < max e.issuedTo (leAt b 36 4)) → (t.entryOf ix).recs = e.recs))

/-! ### The grooms (06_grooms.md) -/

/-- A GO starts its sequence at its entry point on an idle groom, becomes pending on a running one and is held behind a drain; behind a full slot, or a
GP_LOAD that waits to write the groom, it stays in the port (R151). An ABORT stops the sequence, discards the pending GO and drains; one of an idle groom
discards the pending GO without a drain, and a second one during the drain cancels the held GO. A drain ends when every flit is delivered, and the held
GO starts (R152, R153). A sequence that has ended completes once its flits are acknowledged: SEQ goes to SEQ_DONE, DONE is set, ERR if it faulted, and
the pending GO starts (R154). One that runs past GPORT_WDOG is aborted with WDOG; a flit stuck in a hop aborts its source's sequence and is lost (R156,
R166). That it leaves the chain at once, with the other half of its line, is the model's choice (notes/assumptions/70.md). -/
def Obligations.GroomSequences : Prop :=
  (∀ (s : State) (st : Stall) (gi : Fin 256) (entry : BitVec 4) (seq : BitVec 16) (p : GroomIx)
     (n : Nat) (next : GoSnap), s.awake → s.portOpen st = true → s.positionOf st gi = some p.val → s.hostOf p = some n →
     let go : GoSnap := ⟨entry.toNat, seq.toNat, s.argsOf p⟩
     let went (t : State) : Prop := t.fld Reg.GRM_CTRL_ENTRY p = entry.toNat ∧ t.fld Reg.GRM_CTRL_SEQ p = seq.toNat ∧ MemSame s t
     let free : Prop := s.loadHolds n = false ∧ (s.ctxOf p).pend = none ∧ (s.ctxOf p).held = none
     let alone : Prop := ∀ k, k ≠ p.val → (s.ctxOf k).pend = none ∧ (s.ctxOf k).held = none ∧ (s.ctxOf k).draining = false
     (free → s.drains n = false → (s.groom n).run = none →
       Ends (.groomGo st gi entry seq) s fun t => went t ∧ (t.groom n).run = some { ctx := p, go := go }
         ∧ (t.groom n).pc = (s.groom n).entries.getD entry.toNat 0 ∧ t.flag Reg.GRM_STATUS_READY p = false ∧ t.flag Reg.GRM_STATUS_BUSY p = true)
     ∧ (free → s.drains n = false → (s.groom n).run ≠ none →
       Ends (.groomGo st gi entry seq) s fun t => went t ∧ (t.ctxOf p).pend = some go ∧ (t.groom n) = s.groom n
         ∧ t.flag Reg.GRM_STATUS_PENDING p = true ∧ t.flag Reg.GRM_STATUS_READY p = false)
     ∧ (free → s.drains n = true →
       Ends (.groomGo st gi entry seq) s fun t => went t ∧ (t.ctxOf p).held = some go ∧ t.groom n = s.groom n)
     ∧ (¬free → Gives (.groomGo st gi entry seq) s s)
     ∧ (s.running p = true → (s.ctxOf p).draining = false →
       Ends (.groomAbort st gi) s fun t => (t.groom n).run = none ∧ (t.ctxOf p).pend = none ∧ (t.ctxOf p).draining = true
         ∧ t.flag Reg.GRM_STATUS_ABORTED p = true ∧ MemSame s t)
     ∧ (s.running p = false → (s.ctxOf p).draining = false →
       Ends (.groomAbort st gi) s fun t => t.groom n = s.groom n ∧ (t.ctxOf p).pend = none ∧ (t.ctxOf p).draining = false
         ∧ t.flag Reg.GRM_STATUS_ABORTED p = true ∧ t.flag Reg.GRM_STATUS_READY p = true ∧ MemSame s t)
     ∧ ((s.ctxOf p).draining = true →
       Ends (.groomAbort st gi) s fun t => t.groom n = s.groom n ∧ t.ctxOf p = { s.ctxOf p with held := none } ∧ MemSame s t)
     ∧ ((s.ctxOf p).draining = true → s.flitsOf p = [] → (s.groom n).run = none → (s.ctxOf p).held = some next → alone →
       Ends (.groomDrainEnd p) s fun t => (t.groom n).run = some { ctx := p, go := next } ∧ (t.groom n).pc = (s.groom n).entries.getD next.entry 0
         ∧ (t.ctxOf p).draining = false ∧ (t.ctxOf p).held = none ∧ (t.ctxOf p).pend = none ∧ t.flag Reg.GRM_STATUS_BUSY p = true ∧ MemSame s t)
     ∧ ((s.ctxOf p).draining = true → (s.flitsOf p = [] ∧ ∀ k, (s.ctxOf k).pend = none ∧ (s.ctxOf k).held = none) →
       Ends (.groomDrainEnd p) s fun t => (t.ctxOf p).draining = false ∧ t.groom n = s.groom n ∧ MemSame s t
         ∧ (s.running p = false → t.flag Reg.GRM_STATUS_READY p = true)))
  ∧ (∀ (s : State) (p : GroomIx) (n : Nat) (r : GSeq) (cycles : Word),
     s.awake → s.hostOf p = some n → (s.groom n).run = some r → r.ctx = p.val →
     (r.ended = true → s.flitsOf p = [] → (∀ k, (s.ctxOf k).pend = none ∧ (s.ctxOf k).held = none) →
       Ends (.groomSequenceComplete p cycles) s fun t => (t.groom n).run = none ∧ t.fld Reg.GRM_STATUS_SEQ_DONE p = r.go.seq % 2 ^ 16
         ∧ t.flag Reg.GRM_STATUS_DONE p = true ∧ (r.err = true → t.flag Reg.GRM_STATUS_ERR p = true) ∧ t.rd Reg.GRM_CYCLES p = cycles.toNat
         ∧ MemSame s t)
     ∧ (∀ next, r.ended = true → s.flitsOf p = [] → (s.ctxOf p).pend = some next → (s.ctxOf p).held = none → (s.ctxOf p).draining = false →
       (∀ k, k ≠ p.val → (s.ctxOf k).pend = none ∧ (s.ctxOf k).held = none ∧ (s.ctxOf k).draining = false) →
       Ends (.groomSequenceComplete p cycles) s fun t => (t.groom n).run = some { ctx := p, go := next } ∧ (t.ctxOf p).pend = none
         ∧ (t.groom n).pc = (s.groom n).entries.getD next.entry 0 ∧ t.fld Reg.GRM_STATUS_SEQ_DONE p = r.go.seq % 2 ^ 16
         ∧ t.flag Reg.GRM_STATUS_DONE p = true ∧ t.flag Reg.GRM_STATUS_BUSY p = true ∧ MemSame s t)
     ∧ (s.rd Reg.GPORT_WDOG (s.stallOf p) ≠ 0 → s.rd Reg.GPORT_WDOG (s.stallOf p) < cycles.toNat → (s.ctxOf p).draining = false →
       Ends (.groomWatchdog p cycles) s fun t => (t.groom n).run = none ∧ t.flag Reg.GRM_STATUS_WDOG p = true
         ∧ t.flag Reg.GRM_STATUS_ABORTED p = true ∧ (t.ctxOf p).draining = true ∧ MemSame s t)
     ∧ ∀ k f, s.chain[k]? = some f → f.ctx = p.val → (s.ctxOf p).draining = false →
       Ends (.chainStuck k) s fun t => t.flag Reg.GRM_FAULT_CHAIN_STUCK p = true ∧ t.chain.length < s.chain.length
         ∧ (s.chain = [f] → t.chain = [] ∧ ∀ h, (t.groom h).rx = (s.groom h).rx) ∧ (t.groom n).run = none ∧ (t.ctxOf p).draining = true ∧ MemSame s t)

/-- The integer and branch instructions of a groom core, GWAIT, GEND and an unlisted instruction: results, next program counter, and nothing else. A shift
by 32 or more is a free value. The list of the core's operations is the model's choice (log entry 20). -/
def Obligations.GroomIntegerAndBranch : Prop := ∀ (s : State) (n : GroomIx) (r : GSeq) (rd a c : GReg) (b : GSrc) (target : BitVec 14)
  (e : GEngine), s.groomGoes n r →
  let x := s.greg n a
  let y := s.gsrc n b
  let z := s.greg n c
  let pc := (s.groom n).pc
  let gives (op : GIntOp) (v : Word) : Prop := Ends (.groomIntegerOp n op rd a b) s fun t => GroomFrame s t n ∧ (t.groom n).pc = pc + 4
    ∧ (t.greg n rd = if rd = 0 then 0 else v) ∧ ∀ q, q ≠ rd → t.greg n q = s.greg n q
  let goes (op : GBranchOp) (dest : Nat) : Prop := Ends (.groomBranchOp n op) s fun t => GroomFrame s t n ∧ (t.groom n).pc = dest
    ∧ ∀ q, t.greg n q = s.greg n q
  let br (k : GCond) (p : Prop) : Prop := (p → goes (.cond k a c target) target.toNat) ∧ (¬p → goes (.cond k a c target) (pc + 4))
  gives .add (x + y) ∧ gives .sub (x - y) ∧ gives .and (x &&& y) ∧ gives .or (x ||| y) ∧ gives .xor (x ^^^ y)
  ∧ (y.toNat < 32 → gives .shl (x <<< y.toNat) ∧ gives .shr (x >>> y.toNat) ∧ gives .shra (x.sshiftRight y.toNat))
  ∧ (∀ op, op = .shl ∨ op = .shr ∨ op = .shra → ∃ v, gives op v)
  ∧ gives .cmpEq (if x = y then 1 else 0) ∧ gives .cmpLt (if x.toInt < y.toInt then 1 else 0) ∧ gives .cmpLtu (if x.toNat < y.toNat then 1 else 0)
  ∧ gives .setIf (if x ≠ 0 then y else s.greg n rd)
  ∧ br .eq (x = z) ∧ br .ne (x ≠ z) ∧ br .lt (x.toInt < z.toInt) ∧ br .ge (z.toInt ≤ x.toInt) ∧ br .ltu (x.toNat < z.toNat)
  ∧ br .geu (z.toNat ≤ x.toNat) ∧ goes (.jump target) target.toNat ∧ goes (.ret a) x.toNat
  ∧ (Ends (.groomBranchOp n (.call rd target)) s fun t => GroomFrame s t n ∧ (t.groom n).pc = target.toNat
      ∧ t.greg n rd = if rd = 0 then 0 else BitVec.ofNat 32 (pc + 4))
  ∧ (Ends (.gwait n e) s fun t => GroomFrame s t n ∧ (t.groom n).pc = pc + 4 ∧ ∀ q, t.greg n q = s.greg n q)
  ∧ (Ends (.gend n) s fun t => t.groom n = { s.groom n with run := some { r with ended := true } } ∧ t = { s with grooms := t.grooms })
  ∧ (Ends (.groomUnlistedInstruction n) s fun t => GroomFaulted s t n r 1 ∧ MemSame s t)

/-- Loads and stores of scratch by a groom core move 1, 2 or 4 aligned bytes, low byte first; an address that is not aligned faults with cause 2. GLD and
GST move one 64-byte line between scratch and an open bank granule of the groom's own channel, unless its bank accesses wait for a refresh; a line
elsewhere sets ADDR_BAD and faults (R148, R172). -/
def Obligations.GroomScratchAndLines : Prop :=
  (∀ (s : State) (n : GroomIx) (r : GSeq) (w : GWidth) (g base : GReg) (off : BitVec 16) (o : Nat),
     s.groomGoes n r → s.greg n base + off.signExtend 32 = BitVec.ofNat 32 (0x4000 + o) → o < 0x2000 →
     let k := gwidthBytes w
     let v := leAt (s.bytes (grmScratchKey n o) k) 0 k
     if o % k = 0 then
       (Ends (.groomScratchOp n false false w g base off) s fun t => GroomFrame s t n ∧ (t.groom n).pc = (s.groom n).pc + 4
         ∧ t.greg n g = if g = 0 then 0 else BitVec.ofNat 32 v)
       ∧ (Ends (.groomScratchOp n false true w g base off) s fun t => GroomFrame s t n ∧ (t.groom n).pc = (s.groom n).pc + 4
         ∧ t.greg n g = if g = 0 then 0 else BitVec.ofInt 32 (if v < 2 ^ (8 * k - 1) then v else v - 2 ^ (8 * k)))
       ∧ (∀ sg, Ends (.groomScratchOp n true sg w g base off) s fun t => GroomNext s t n ∧ MemKept s t (grmScratchKey n o) k
         ∧ t.holdsAt (grmScratchKey n o) k (s.greg n g).toNat ∧ RegsKept s t [] ∧ ∀ q, t.greg n q = s.greg n q)
     else ∀ store sg, Ends (.groomScratchOp n store sg w g base off) s fun t => GroomFaulted s t n r 2 ∧ MemSame s t)
  ∧ (∀ (s : State) (n : GroomIx) (r : GSeq) (bank sc : GReg) (o : Nat), s.groomGoes n r →
     (s.greg n bank).toNat % 64 = 0 → s.greg n sc = BitVec.ofNat 32 (0x4000 + o) → o % 64 = 0 → o + 64 ≤ 0x2000 →
     let c := (s.greg n bank).toNat
     let dram := dramKey (n.val / 8) c
     let scr := grmScratchKey n o
     if s.bankOk r.ctx c 64 = false then
       ∀ i ∈ [Instr.gld n bank sc, .gst n bank sc], Ends i s fun t => GroomFaulted s t n r 5 ∧ t.flag Reg.GRM_STATUS_ADDR_BAD r.ctx = true ∧ MemSame s t
     else if s.paused (n.val / 8) = true then Gives (.gld n bank sc) s s ∧ Gives (.gst n bank sc) s s
     else
       (Ends (.gld n bank sc) s fun t => GroomNext s t n ∧ MemKept s t scr 64 ∧ RegsKept s t [] ∧ ∀ i, i < 64 → t.byte (scr + i) = s.byte (dram + i))
       ∧ (Ends (.gst n bank sc) s fun t => GroomNext s t n ∧ MemKept s t dram 64 ∧ RegsKept s t [] ∧ ∀ i, i < 64 → t.byte (dram + i) = s.byte (scr + i)))

/-- GMUL reads its weight stream row by row of its bank (R153) and writes the columns whose codes it has: result (c, b) is the canonical part sum of column
c and row b, written or added once at OUT, from the plain codes or the codes of the compressed blocks read so far (R71 to R73, R157 to R160); a count of
zero goes on at once; a failed check faults with its bit, a bad format with the stall's FMT_BAD too (R35). What is captured at issue, that a compressed
column is written with the row that brings its last block, and what a column added to itself reads, are the model's choice
(notes/assumptions/70.md). GVEC writes the operation's value of each element as the operands stood; GRED the reduction of its vector; GNAR its narrowed
codes, ties away from zero; GSCL scale entries; GTBL a good table image into its slot, a bad one empties it and faults (R77, R160 to R163). -/
def Obligations.GroomEngines : Prop :=
  let row (s : State) (n : GroomIx) (i : Instr) (g : GmulAt) : Prop :=
    let f := g.args
    let fmt := f.fmt.toNat
    let cpb := codesPerBlock fmt
    let next := gmNext f g.total g.data.length
    let data := g.data ++ s.bytes (dramKey (n.val / 8) (f.wAddr.toNat + g.data.length)) (next - g.data.length)
    let hi := if gmV32 f = 0 ∨ next = g.total then f.nc.toNat else min f.nc.toNat ({ g with data := data }.codesIn next / gmV32 f)
    let verdicts := match g.table with | some x => gmulBlocks s.crc fmt x g.sizes data | none => []
    let code (j : Nat) : Nat := if f.comp then (match verdicts[j / cpb]? with | some v => v.codes.getD (j % cpb) 0 | none => 0)
      else packedCode data (fmtBits fmt) j
    Ends i s fun t => (t.groom n).run = (s.groom n).run
      ∧ (if next = g.total then (t.groom n).gmul = none ∧ (t.groom n).pc = (s.groom n).pc + 4
         else (t.groom n).pc = (s.groom n).pc
           ∧ ∃ h, (t.groom n).gmul = some h ∧ h = { g with data := data, marks := h.marks } ∧ h.marks.length = f.b.toNat * max g.cols hi)
      ∧ MemKept s t (grmScratchKey n (f.out.toNat - 0x4000 + 4 * f.b.toNat * g.cols)) (4 * f.b.toNat * (hi - g.cols))
      ∧ ∀ c b, g.cols ≤ c → c < hi → b < f.b.toNat →
         let aOff := f.a.toNat - 0x4000 + b * f.aStride.toNat
         let out := f.out.toNat - 0x4000 + 4 * (c * f.b.toNat + b)
         let scale := if f.scaleEn then g.scales[c]? else none
         let start := partStart f.kTotal.toNat (gmParts f) f.part.toNat
         let term (k : Nat) : FAcc :=
           if start ≤ k ∧ k < start + gmV f then
             accMul (expandEX16 fmt (if f.zpEn then some f.zp.toNat else none) scale (code (c * gmV32 f + (k - start)))).v
               (BitVec.ofNat 32 (leAt (s.scratchRead n (aOff + 2 * (k - start)) 2) 0 2 * 65536))
           else accMul 0 0
         let sum := partDot term f.kTotal.toNat (gmParts f) f.part.toNat
         (f.comp = true → (∀ v ∈ verdicts, v.cause = 0) ∧ s.scratchBad n (f.blist.toNat - 0x4000) (gmBlocks f) = false) →
         s.scratchBad n aOff (2 * gmV32 f) = false → (f.add = true → s.scratchBad n out 4 = false) →
         t.holdsAt (grmScratchKey n out) 4 (if f.add then accAdd ⟨s.sword n out, false, false⟩ sum else sum).v.toNat
  (∀ (s : State) (n : GroomIx) (r : GSeq) (f : GMulArgs), s.groomGoes n r →
     let g : GmulAt := {
       args := f, sizes := if f.comp then s.blistSizes n f else [], table := if f.comp then s.ctxTable n r.ctx f.slot else none,
       scales := if f.scaleEn then (List.range f.nc.toNat).map fun c => s.scaleEntry n (s.physScale r.ctx (f.scaleBase.toNat + c)) else [] }
     (∀ u, s.gmulCheck n r f = some u → Ends (.gmul n f) s fun t => GroomFaulted s t n r 5 ∧ MemSame s t
       ∧ (∃ bad ∈ [Reg.GRM_STATUS_DESC_BAD, Reg.GRM_STATUS_ADDR_BAD, Reg.GRM_STATUS_SCALE_RANGE, Reg.GRM_STATUS_TBL_MISS], t.flag bad r.ctx = true)
       ∧ (gmFmtOk f = false → t.flag Reg.GRM_STATUS_DESC_BAD r.ctx = true ∧ t.flag Reg.NUM_STATUS_FMT_BAD (s.stallOf r.ctx) = true))
     ∧ (s.gmulCheck n r f = none → f.nc = 0 ∨ f.kTotal = 0 → Ends (.gmul n f) s fun t => GroomFrame s t n ∧ GroomNext s t n)
     ∧ (s.gmulCheck n r f = none → f.nc ≠ 0 → f.kTotal ≠ 0 → s.paused (n.val / 8) = false → row s n (.gmul n f) g)
     ∧ (s.gmulCheck n r f = none → f.nc ≠ 0 → f.kTotal ≠ 0 → s.paused (n.val / 8) = true → gmCodes f ≠ 0 →
         Ends (.gmul n f) s fun t => (t.groom n).gmul = some g ∧ (t.groom n).pc = (s.groom n).pc ∧ (t.groom n).run = (s.groom n).run ∧ MemSame s t))
  ∧ (∀ (s : State) (n : GroomIx) (r : GSeq) (g : GmulAt) (f : GMulArgs), s.awake → (s.groom n).run = some r → (s.groom n).gmul = some g →
     (s.paused (n.val / 8) = true → Gives (.gmul n f) s s)
     ∧ (s.paused (n.val / 8) = false → s.gmulCheck n r g.args = none → g.marks.length = g.args.b.toNat * g.cols → row s n (.gmul n f) g))
  ∧ (∀ (s : State) (n : GroomIx) (r : GSeq) (a dst idxDst : BitVec 16) (ao d : Nat) (count : BitVec 12),
     s.groomGoes n r → a.toNat = 0x4000 + ao → dst.toNat = 0x4000 + d → d % 4 = 0 →
     (∀ (op : Fin 26) (b c : GOperand) (bo co i : Nat), ao % 4 = 0 → ao + 4 * count.toNat ≤ 0x2000 → d + 4 * count.toNat ≤ 0x2000 →
       gopndGiven b = opNeedsB op → gopndGiven c = opNeedsC op → (gopndAt b count.toNat).toOption = some bo → (gopndAt c count.toNat).toOption = some co →
       i < count.toNat →
       Ends (.gvec n op a b c dst count) s fun t => (t.groom n).pc = (s.groom n).pc + 4 ∧ MemKept s t (grmScratchKey n d) (4 * count.toNat)
         ∧ t.holdsAt (grmScratchKey n (d + 4 * i)) 4 (stageRun op (s.sword n (ao + 4 * i)) (s.gopndVal n b bo i).1 (s.gopndVal n c co i).1).v.toNat)
     ∧ (∀ (op : GRedOp) (base : Word), op ≠ .sum → ao % 4 = 0 → ao + 4 * count.toNat ≤ 0x2000 → d + 4 ≤ 0x2000 → idxDst.toNat = 0x4000 + d + 4 →
         d + 8 ≤ 0x2000 →
         let best := reduceMax (gredOp op) base.toNat ((List.range count.toNat).map fun i => (s.sword n (ao + 4 * i), true)) false
         Ends (.gred n op a count base 0 0 0 dst idxDst) s fun t => (t.groom n).pc = (s.groom n).pc + 4
           ∧ t.holdsAt (grmScratchKey n d) 4 best.value.toNat ∧ (op = .maxi ∨ op = .mini → t.holdsAt (grmScratchKey n (d + 4)) 4 best.index))
     ∧ (ao % 4 = 0 → ao + 4 * count.toNat ≤ 0x2000 → d + 4 ≤ 0x2000 → 0 < count.toNat →
         Ends (.gred n .sum a count 0 0 0 0 dst idxDst) s fun t => (t.groom n).pc = (s.groom n).pc + 4
           ∧ t.holdsAt (grmScratchKey n d) 4
             (partDot (fun k => ⟨if k < count.toNat then s.sword n (ao + 4 * k) else 0, false, false⟩) count.toNat 1 0).v.toNat)
     ∧ (∀ (fmt : BitVec 4) (i : Nat), fmtOk fmt.toNat = true → fmtBits fmt.toNat % 8 = 0 → ao % 4 = 0 → ao + 4 * count.toNat ≤ 0x2000 →
         d + rowBytes fmt.toNat count.toNat ≤ 0x2000 → i < count.toNat →
         Ends (.gnar n fmt false 0 a dst count) s fun t => (t.groom n).pc = (s.groom n).pc + 4
           ∧ t.holdsAt (grmScratchKey n (d + i * (fmtBits fmt.toNat / 8))) (fmtBits fmt.toNat / 8)
             (narrow true fmt.toNat none (f32Dec (s.sword n (ao + 4 * i)))).code)
     ∧ (∀ (fmt : BitVec 4), fmtOk fmt.toNat = false → Ends (.gnar n fmt false 0 a dst count) s fun t => GroomFaulted s t n r 5 ∧ MemSame s t
         ∧ t.flag Reg.GRM_STATUS_DESC_BAD r.ctx = true ∧ t.flag Reg.NUM_STATUS_FMT_BAD (s.stallOf r.ctx) = true)
     ∧ (∀ (entry : BitVec 9) (i : Nat), entry.toNat + count.toNat ≤ 512 → ao % 2 = 0 → ao + 2 * count.toNat ≤ 0x2000 → i < count.toNat →
         Ends (.gscl n entry a (count.setWidth 10)) s fun t => (t.groom n).pc = (s.groom n).pc + 4 ∧ MemSame s t
           ∧ t.scaleEntry n (s.physScale r.ctx (entry.toNat + i)) = leAt (s.scratchRead n (ao + 2 * i) 2) 0 2)
     ∧ (∀ (slot : Fin 8), ao % 4 = 0 → ao + 64 ≤ 0x2000 → s.hostOf r.ctx = some n.val →
         let size := tableImageSize (tableImageFmt (s.scratchRead n ao 64))
         let img := s.scratchRead n ao size
         ao + size ≤ 0x2000 →
         match parseTable img with
         | some x => Ends (.gtbl n slot a) s fun t => GroomNext s t n ∧ MemSame s t ∧ t.grmTbl r.ctx slot = tableImageId img + 2 ^ 31
             ∧ SMap.get (t.groom n).tables none (s.physSlot r.ctx slot) = some (tableImageId img, x)
         | none => Ends (.gtbl n slot a) s fun t => GroomFaulted s t n r 5 ∧ t.flag Reg.GRM_STATUS_TBL_BAD r.ctx = true
             ∧ t.grmTbl r.ctx slot = 0 ∧ MemSame s t))

/-- GSEND over an empty chain puts its flits in order into the receive queue of its target or the queue of its exit node; GRECV takes them into scratch
in order and waits while the queue is empty; an exit node writes the two flits of a line into the buffer (R165 to R167). A write through a window of the groom port reaches the selected
groom's store where its ready line is high, and else sets DESC_BAD (R181). -/
def Obligations.FlitsAndWindows : Prop := ∀ (s : State) (n : GroomIx) (r : GSeq) (a : BitVec 16) (ao : Nat) (flits : BitVec 9),
  (s.groomGoes n r → a.toNat = 0x4000 + ao → ao % 32 = 0 → ao + 32 * flits.toNat ≤ 0x2000 → s.chain = [] →
    let data (i : Nat) : List Byte × Bool := (s.scratchRead n (ao + 32 * i) 32, s.scratchBad n (ao + 32 * i) 32)
    (∀ (i : Fin 256) (h : Nat), s.sendDst r.ctx (.groom i) flits.toNat = some (.groom h) → (s.groom h).rx.length + flits.toNat ≤ 16 →
      Ends (.gsend n (.groom i) a flits) s fun t => (t.groom h).rx = (s.groom h).rx ++ (List.range flits.toNat).map data ∧ t.chain = []
        ∧ (t.groom n).pc = (s.groom n).pc + 4 ∧ MemSame s t)
    ∧ (∀ (off : BitVec 24) (st : Nat), s.sendDst r.ctx (.stb off) flits.toNat = some (.stb st off.toNat) →
      (s.xqueue (n.val / 8)).length + flits.toNat ≤ 64 →
      Ends (.gsend n (.stb off) a flits) s fun t => (t.groom n).pc = (s.groom n).pc + 4 ∧ MemSame s t ∧ t.chain = []
        ∧ t.xqueue (n.val / 8) = s.xqueue (n.val / 8) ++ (List.range flits.toNat).map fun i => { src := n, ctx := r.ctx, dst := .stb st (off.toNat + 32 * i), data := (data i).1, poison := (data i).2 })
    ∧ ((s.groom n).recvDone = 0 → 0 < flits.toNat → (∀ f ∈ (s.groom n).rx, f.1.length = 32) →
      (flits.toNat ≤ (s.groom n).rx.length → Ends (.grecv n a flits) s fun t => (t.groom n).pc = (s.groom n).pc + 4
        ∧ (t.groom n).rx = (s.groom n).rx.drop flits.toNat ∧ MemKept s t (grmScratchKey n ao) (32 * flits.toNat)
        ∧ ∀ i j, i < flits.toNat → j < 32 → some (t.byte (grmScratchKey n (ao + 32 * i + j))) = ((s.groom n).rx[i]?).bind fun f => f.1[j]?)
      ∧ ((s.groom n).rx = [] → Gives (.grecv n a flits) s s)))
  ∧ (∀ (q : Chan) (x y : ChainFlit) (st : Stall) (off : Nat), s.awake → s.chain = [] → s.xqueue q = [x, y] → y.src = x.src → y.ctx = x.ctx →
      x.dst = .stb st off → y.dst = .stb st (off + 32) → x.data.length = 32 → y.data.length = 32 →
      off % 64 = 0 → off + 64 ≤ stbSize →
      Ends (.xNodeLineWrite q) s fun t => t.xqueue q = [] ∧ MemKept s t (stbKey st off) 64 ∧ t.linePoison st (off / 64) = (x.poison || y.poison)
        ∧ ∀ j, j < 64 → some (t.byte (stbKey st (off + j))) = (x.data ++ y.data)[j]?)
  ∧ (∀ (st : Stall) (p h o size : Nat) (v : Dword), s.awake → s.portOpen st = true → s.selGroom st = some (p, h) → p < 2048 → 0 < size → size ≤ 8 → o + size ≤ 0x4000 →
      if s.ready p = true then
        Ends (.gportWindowWrite st (BitVec.ofNat 16 o) size v) s fun t => t.holdsAt (grmProgKey h o) size v.toNat
          ∧ MemKept s t (grmProgKey h o) size ∧ RegsKept s t []
      else Ends (.gportWindowWrite st (BitVec.ofNat 16 o) size v) s fun t => t.flag Reg.GRM_STATUS_DESC_BAD p = true ∧ MemSame s t)

/-! ### Registers (00_scope.md R7 to R12, 14_host_interface.md R371, R373) -/

/-- The access codes of R7 on registers of a stall, as the physical function reaches them: W1C clears the bits written as 1, RW takes the value, RC
returns its value and loses it, and a write to it has no effect. An access that is not aligned or is wider than its register ends with an error and
changes nothing (R12); an offset without a register reads as zero and takes nothing (R11). A read of the low half of DEV_TB captures the high half for
the next read of it (R10). -/
def Obligations.RegisterAccessCodes : Prop := ∀ (s : State) (st : Stall) (v now : Dword),
  let pf : Requester := .fn 0
  let at_ (r : Loc) : BitVec 32 := BitVec.ofNat 32 (r.key st 0)
  s.reaches pf = true → s.stallUp st = true →
  (s.awake → Ends (.regWrite pf (at_ Reg.NUM_STATUS) 4 v) s fun t =>
    (∀ f ∈ [Reg.NUM_STATUS_SAT_SEEN, Reg.NUM_STATUS_NAN_NARROW, Reg.NUM_STATUS_ACC_INF, Reg.NUM_STATUS_ACC_NAN, Reg.NUM_STATUS_SCALE_RANGE,
      Reg.NUM_STATUS_FMT_BAD], t.flag f st = (s.flag f st && !bit v.toNat f.lo))
    ∧ MemSame s t ∧ RegsKept s t [Reg.NUM_STATUS.key st 0])
  ∧ (s.awake → Ends (.regWrite pf (at_ Reg.NUM_IRQ_EN) 4 v) s fun t => t.fld Reg.NUM_IRQ_EN_EN st = v.toNat % 2 ^ 6
    ∧ MemSame s t ∧ RegsKept s t [Reg.NUM_IRQ_EN.key st 0])
  ∧ exec (.regWrite pf (at_ Reg.NUM_SAT_CNT) 4 v) s = .next s
  ∧ (s.awake → Ends (.regRead pf (at_ Reg.NUM_SAT_CNT) 4) s fun t => t.fld Reg.NUM_SAT_CNT_COUNT st = 0 ∧ MemSame s t
    ∧ RegsKept s t [Reg.NUM_SAT_CNT.key st 0] ∧ t.bus = .regValue pf (Reg.NUM_SAT_CNT.key st 0) (BitVec.ofNat 64 (s.fld Reg.NUM_SAT_CNT_COUNT st)) :: s.bus)
  ∧ exec (.regRead pf (at_ Reg.NUM_IRQ_EN) 4) s = .next (s.emit (.regValue pf (Reg.NUM_IRQ_EN.key st 0) (BitVec.ofNat 64 (s.rd Reg.NUM_IRQ_EN st % 2 ^ 32))))
  ∧ (∀ c ∈ [Instr.regWrite pf (at_ Reg.NUM_STATUS + 2) 4 v, .regRead pf (at_ Reg.NUM_STATUS + 2) 4],
      exec c s = .next (s.emit (.regError pf (Reg.NUM_STATUS.key st 0 + 2))))
  ∧ (∀ c ∈ [Instr.regWrite pf (at_ Reg.NUM_STATUS) 8 v, .regRead pf (at_ Reg.NUM_STATUS) 8],
      exec c s = .next (s.emit (.regError pf (Reg.NUM_STATUS.key st 0))))
  ∧ exec (.regWrite pf (at_ Reg.NUM_STATUS + 0x20) 4 v) s = .next s
  ∧ exec (.regRead pf (at_ Reg.NUM_STATUS + 0x20) 4) s = .next (s.emit (.regValue pf (Reg.NUM_STATUS.key st 0 + 0x20) 0))
  ∧ (s.awake → Ends (.regRead pf 8 4) s fun t => t.bus = .regValue pf 8 (BitVec.ofNat 64 (s.tb.toNat % 2 ^ 32)) :: s.bus
      ∧ Ends (.regRead pf 12 4) { t with tb := now } fun u => u.bus = .regValue pf 12 (BitVec.ofNat 64 (s.tb.toNat / 2 ^ 32)) :: t.bus)

/-- A virtual function that writes in the ledger block, or reads an entry that is not its tenant's, reads zero and changes nothing there; the attempt is
counted and flagged for the function. Its own entries it reads (R315, R371, R373). A misaligned access ends with an error (R12), and is no counted
violation, the model's choice (notes/assumptions/14.md). -/
def Obligations.VirtualFunctionFence : Prop := ∀ (s : State) (f : Fn) (off : Nat) (v : Dword),
  let req : Requester := .fn f
  let caught (t : State) : Prop := t.flag Reg.FN_STATUS_VIOL 0 f = true ∧ t.ledger = s.ledger ∧ MemSame s t
    ∧ t.fld Reg.FN_VIOL_CNT_COUNT 0 f = min (s.fld Reg.FN_VIOL_CNT_COUNT 0 f + 1) (2 ^ 32 - 1)
    ∧ t.fld Reg.HIF_VIOL_CNT_COUNT = min (s.fld Reg.HIF_VIOL_CNT_COUNT + 1) (2 ^ 32 - 1)
  s.awake → f.val ≠ 0 → s.reaches req = true → off < 0x100000 →
  (if off % 4 = 0 then Ends (.regWrite req (BitVec.ofNat 32 off) 4 v) s caught
    else exec (.regWrite req (BitVec.ofNat 32 off) 4 v) s = .next (s.emit (.regError req off)))
  ∧ (0x80000 ≤ off → off % 4 = 0 →
      let ix := 4096 * s.fld Reg.FN_CTRL_WIN_HALF 0 f + (off - 0x80000) / 128
      if (s.entryOf ix).tenant = f.val - 1 then
        exec (.regRead req (BitVec.ofNat 32 off) 4) s = .next (s.emit (.regValue req off
          (BitVec.ofNat 64 (leAt ((List.range 4).map fun i => s.ledgerByte ix (off % 128 + i)) 0 4))))
      else Ends (.regRead req (BitVec.ofNat 32 off) 4) s fun t => caught t ∧ t.bus.head? = some (.regValue req off 0))

/-! ### The memory system (08_memory_system.md, 06_grooms.md R171 to R173) -/

/-- A refresh that falls due is performed while no groom of the channel runs, and else postponed, at most eight; at the release all eight run and none is
owed (R172, R173). That those owed are performed with one that falls due while no groom runs is the model's choice (notes/assumptions/30.md), and so is
that a release counts in GRM_REF_CNT when its pause begins. -/
def Obligations.RefreshIsPostponed : Prop := ∀ (s : State) (q : Chan), s.awake →
  let owed := s.fld Reg.CH_STATUS_OWED 0 q
  (s.chanUp q = true → s.runningOf q = [] →
    Ends (.refreshDue q) s fun t => t.fld Reg.CH_STATUS_OWED 0 q = 0 ∧ t.fld Reg.CH_REF_CNT_COUNT 0 q = (s.fld Reg.CH_REF_CNT_COUNT 0 q + owed + 1) % 2 ^ 32
      ∧ MemSame s t ∧ RegsKept s t [Reg.CH_STATUS.key 0 q, Reg.CH_REF_CNT.key 0 q])
  ∧ (s.chanUp q = true → s.runningOf q ≠ [] →
    Ends (.refreshDue q) s fun t => t.fld Reg.CH_STATUS_OWED 0 q = min 8 (owed + 1) ∧ MemSame s t
      ∧ RegsKept s t (Reg.CH_STATUS.key 0 q :: if owed = 7 then (s.runningOf q).map fun p => Reg.GRM_REF_CNT.key p 0 else [])
      ∧ ∀ p, p < 2048 → t.fld Reg.GRM_REF_CNT_COUNT p =
          if owed = 7 ∧ p ∈ s.runningOf q then (s.fld Reg.GRM_REF_CNT_COUNT p + 1) % 2 ^ 32 else s.fld Reg.GRM_REF_CNT_COUNT p)
  ∧ (s.chanUp q = true → owed = 8 → Ends (.refreshRelease q) s fun t => t.fld Reg.CH_STATUS_OWED 0 q = 0
      ∧ t.fld Reg.CH_REF_CNT_COUNT 0 q = (s.fld Reg.CH_REF_CNT_COUNT 0 q + 8) % 2 ^ 32 ∧ MemSame s t
      ∧ RegsKept s t [Reg.CH_STATUS.key 0 q, Reg.CH_REF_CNT.key 0 q])
  ∧ ((s.chanUp q = false ∨ owed ≠ 8) → exec (.refreshRelease q) s = .next s)

/-- The highest of a stack's five sensors sets HOT at 85 °C and THROTTLE at 95 °C and clears them 3 °C lower; a stall throttles itself at 115 °C down to
110 °C; a trip temperature trips once: TRIP with its source and cap level 4. HOT of a tier channel follows its sample; the refresh of one of its banks
changes nothing (R208, R209, R215, R465 to R468). -/
def Obligations.TemperatureSensors : Prop := ∀ (s : State) (k : Fin 8) (st : Stall) (temps : List Byte) (temp : Byte) (p : LpChan) (hot : Bool)
  (bank : Fin 16), s.awake → k.val < s.nStack → st.val < s.nStall → temps.length = 5 →
  let c := temps.foldl (fun m x => max m x.toNat) 0
  let tripped (t : State) (src temp : Nat) : Prop := t.flag Reg.THERM_STATUS_TRIP = true ∧
    (s.flag Reg.THERM_STATUS_TRIP = false → t.fld Reg.THERM_STATUS_SRC = src ∧ t.fld Reg.THERM_STATUS_TEMP = temp ∧ t.fld Reg.PWR_STATUS_LEVEL = 4)
  (Ends (.stackTempSample k temps) s fun t => t.fld Reg.STK_TEMP_TEMP 0 k = c ∧ MemSame s t
    ∧ (85 ≤ c → t.flag Reg.STK_TEMP_HOT 0 k = true) ∧ (c ≤ 82 → t.flag Reg.STK_TEMP_HOT 0 k = false)
    ∧ (82 < c → c < 85 → t.flag Reg.STK_TEMP_HOT 0 k = s.flag Reg.STK_TEMP_HOT 0 k)
    ∧ (95 ≤ c → t.flag Reg.STK_TEMP_THROTTLE 0 k = true) ∧ (c ≤ 92 → t.flag Reg.STK_TEMP_THROTTLE 0 k = false)
    ∧ (92 < c → c < 95 → t.flag Reg.STK_TEMP_THROTTLE 0 k = s.flag Reg.STK_TEMP_THROTTLE 0 k)
    ∧ (105 ≤ c → tripped t 1 c))
  ∧ (Ends (.stallTempSample st temp) s fun t => t.fld Reg.STL_TEMP_TEMP 0 st = temp.toNat ∧ MemSame s t
    ∧ (115 ≤ temp.toNat → t.flag Reg.STL_TEMP_SELF_HOT 0 st = true ∧ t.flag Reg.STL_TEMP_HALF 0 st = true)
    ∧ (temp.toNat ≤ 110 → t.flag Reg.STL_TEMP_SELF_HOT 0 st = false)
    ∧ (125 ≤ temp.toNat → tripped t 2 temp.toNat))
  ∧ (if 125 ≤ temp.toNat then Ends (.ostlerTempSample temp) s fun t => tripped t 3 temp.toNat ∧ MemSame s t
      else exec (.ostlerTempSample temp) s = .next s)
  ∧ (Ends (.lpMr4Sample p hot) s fun t => t.flag Reg.LP_STATUS_HOT 0 p = hot ∧ MemSame s t ∧ RegsKept s t [Reg.LP_STATUS.key 0 p])
  ∧ exec (.lpRefresh p bank) s = .next s

/-- A request that a channel of the stacks or the tier serves: a write puts its line there and leaves every other byte, with check symbols of its own; a
read in its turn brings the decoded line into the buffer, and of an uncorrectable one the stored bytes, poisoned (R197, R202, R203, R217, R218, R242).
A stack channel serves none while its grooms wait for a refresh or it retrains (R210, R214). What the decoder makes of more symbols in error than its
code corrects (notes/assumptions/29.md), the order of requests of one transfer (notes/assumptions/30.md), and that the fuses of FUSE_ROW are always
written (notes/assumptions/47.md) are the model's choices. The scrubber reads one line of a protected granule or of the tier and goes on to the
next: a line that the decoder corrects is written back so, counted and flagged; one it finds uncorrectable stays, counted with the address of the
first (R202, R203, R205, R218). A repair command of the ostler on a fitted channel binds, makes permanent or reports spares and sets DONE; without a
spare, or outside its mode, it sets REFUSED and changes nothing else; so does a command of another requester, the physical function in maintenance
mode apart, which is served as the ostler is (R213, R214). -/
def Obligations.QueuesScrubAndRepair : Prop :=
  (∀ (s : State) (q : Chan) (p : LpChan) (r : MemReq) (l : List Byte) (c a off : Nat) (st : Stall), s.awake → c % 64 = 0 → a % 64 = 0 →
     let serves : Prop := s.chanUp q = true ∧ s.paused q = false ∧ (s.chanOf q).retrain.toNat ≤ s.tb.toNat
     let put (t : State) (k : Nat) : Prop := MemKept s t k 64 ∧ (∀ i, i < 64 → some (t.byte (k + i)) = l[i]?)
     let got (t : State) (x : LineRead) (k : Nat) : Prop := MemKept s t (stbKey st off) 64 ∧ match x with
       | .clean => t.linePoison st (off / 64) = false ∧ ∀ i, i < 64 → t.byte (stbKey st off + i) = s.byte (k + i)
       | .corrected l _ => t.linePoison st (off / 64) = false ∧ ∀ i, i < 64 → some (t.byte (stbKey st off + i)) = l[i]?
       | .uncorrectable => t.linePoison st (off / 64) = true ∧ ∀ i, i < 64 → t.byte (stbKey st off + i) = s.byte (k + i)
     ((s.chanOf q).queue = [r] →
       (¬serves → exec (.channelRequestServe q []) s = .next s)
       ∧ (serves → r.data = some l → l.length = 64 → r.flight.dst = .dram q c → Ends (.channelRequestServe q []) s fun t =>
           (t.chanOf q).queue = [] ∧ put t (dramKey q c) ∧ (s.granuleOpen q (c / 2 ^ 21) = false → SMap.get t.checks [] (dramKey q c) = []))
       ∧ (serves → r.data = none → r.flight.src = .dram q c → r.flight.dst = .stb st off → off % 64 = 0 → off + 64 ≤ stbSize →
           s.granuleOpen q (c / 2 ^ 21) = false → c < 0x60000000 → s.readTurn r = true → Ends (.channelRequestServe q []) s fun t =>
             (t.chanOf q).queue = [] ∧ got t (s.decodeLine (dramKey q c) 8 2 (c / 64) (c / 64)) (dramKey q c))
       ∧ (s.readTurn r = false → exec (.channelRequestServe q []) s = .next s))
     ∧ (s.lpOf p = [r] →
       (r.data = some l → l.length = 64 → r.flight.dst = .tier p a → Ends (.lpRequestServe p []) s fun t => t.lpOf p = [] ∧ put t (tierKey p a)
           ∧ (s.lpBaseIndex p a = s.lpLineIndex p a → SMap.get t.checks [] (tierKey p a) = []))
       ∧ (r.data = none → r.flight.src = .tier p a → r.flight.dst = .stb st off → off % 64 = 0 → off + 64 ≤ stbSize → a < 2 ^ 33 → s.readTurn r = true →
           Ends (.lpRequestServe p []) s fun t =>
             t.lpOf p = [] ∧ got t (s.decodeLine (tierKey p a) 4 1 (s.lpBaseIndex p a) (s.lpLineIndex p a)) (tierKey p a))))
  ∧ (∀ (s : State) (q : Chan) (upset : List (Nat × Byte)) (c : Nat), s.awake → s.flag Reg.MEM_CTRL_SCRUB_EN = true →
     let mends (t u : State) (k base a : Nat) (x : LineRead) : Prop := MemKept s t k 64 ∧ match x with
       | .corrected l _ => (base = a → SMap.get t.checks [] k = []) ∧ ∀ i, i < 64 → l.length = 64 → some (t.byte (k + i)) = l[i]?
       | _ => SMap.get t.checks [] k = SMap.get u.checks [] k ∧ ∀ i, t.byte (k + i) = u.byte (k + i)
     (s.chanTakes q c false = true → s.nextProtected q (s.chanOf q).scrub = some c → c < 0x60000000 →
       let u := s.upsetLine (dramKey q c) 8 (c / 64) upset
       let x := u.decodeLine (dramKey q c) 8 2 (c / 64) (c / 64)
       Ends (.scrubRead false q upset) s fun t => mends t u (dramKey q c) (c / 64) (c / 64) x ∧ (t.chanOf q).scrub = (c + 64) % 0x60000000
         ∧ match x with
           | .clean => RegsKept s t []
           | .corrected _ _ => t.flag Reg.CH_STATUS_CE 0 q = true
               ∧ t.fld Reg.CH_CE_CNT_COUNT 0 q = min (s.fld Reg.CH_CE_CNT_COUNT 0 q + 1) (2 ^ 16 - 1)
           | .uncorrectable => t.flag Reg.CH_STATUS_UE 0 q = true
               ∧ t.fld Reg.CH_UE_CNT_COUNT 0 q = min (s.fld Reg.CH_UE_CNT_COUNT 0 q + 1) (2 ^ 16 - 1)
               ∧ (s.flag Reg.CH_STATUS_UE 0 q = false → t.fld Reg.CH_ERR_ADDR_C 0 q = c % 2 ^ 31))
     ∧ (let p := q.val % 64
        let a := SMap.get s.lpScrub 0 p
        let k := tierKey p a
        let u := s.upsetLine k 4 (s.lpBaseIndex p a) upset
        let x := u.decodeLine k 4 1 (s.lpBaseIndex p a) (s.lpLineIndex p a)
        s.lpNch ≠ 0 → s.lpFirst ≤ p → p < s.lpFirst + s.lpNch → Ends (.scrubRead true q upset) s fun t => mends t u k (s.lpBaseIndex p a) (s.lpLineIndex p a) x
          ∧ SMap.get t.lpScrub 0 p = (let next := if a % 1024 = 896 then a + 128 else a + 64; if next ≥ 2 ^ 33 then 0 else next)
          ∧ match x with
            | .clean => RegsKept s t []
            | .corrected _ _ => t.flag Reg.LP_STATUS_CE 0 p = true
            | .uncorrectable => t.flag Reg.LP_STATUS_UE 0 p = true
                ∧ (s.flag Reg.LP_STATUS_UE 0 p = false → t.fld Reg.LP_ERR_ADDR_LINE 0 p = a / 64 % 2 ^ 27)))
  ∧ (∀ (s : State), s.awake →
     let a := s.repairArg
     let r := (a.q, a.bank, a.row)
     let refused (c : Instr) : Prop := Ends c s fun t => t.flag Reg.MEM_REPAIR_STATUS_REFUSED = true ∧ RegsKept s t [Reg.MEM_REPAIR_STATUS.key 0 0]
       ∧ (∀ i, i < 32 → i ≠ Reg.MEM_REPAIR_STATUS_REFUSED.lo → bit (t.rd Reg.MEM_REPAIR_STATUS) i = bit (s.rd Reg.MEM_REPAIR_STATUS) i)
       ∧ t = { s with regs := t.regs, msixPend := t.msixPend, bus := t.bus }
     let done' (c : Instr) (p : State → Prop) : Prop := Ends c s fun t => t.flag Reg.MEM_REPAIR_STATUS_DONE = true ∧ p t
     let spare := s.sparesLeft a.q a.bank
     a.q < s.nChan → a.row < 24576 →
     (if spare = 0 then refused (.softRow .ostler)
       else done' (.softRow .ostler) fun t => r ∈ t.softRows ∧ t.fusedRows = s.fusedRows
         ∧ ∀ k, (k < dramKey a.q (rowBase a.bank a.row) ∨ dramKey a.q (rowBase a.bank a.row) + 2048 ≤ k) → t.byte k = s.byte k)
     ∧ (if s.startup = true ∧ r ∈ s.softRows ∧ spare ≠ 0 then done' (.fuseRow .ostler) fun t => r ∈ t.fusedRows ∧ t.softRows = s.softRows ∧ MemSame s t
         else refused (.fuseRow .ostler))
     ∧ (bits (s.rd Reg.MEM_REPAIR_ARG) 18 13 ≤ 35 →
         if s.flag Reg.CH_LANE_SPARED 0 a.q = true then refused (.spareLane .ostler)
         else done' (.spareLane .ostler) fun t => t.flag Reg.CH_LANE_SPARED 0 a.q = true ∧ (t.chanOf a.q).retrain = s.tb + 40000 ∧ MemSame s t)
     ∧ done' (.query .ostler) (fun t => t.fld Reg.MEM_REPAIR_STATUS_SPARES_LEFT = spare ∧ MemSame s t)
     ∧ (∀ req : Requester, req ≠ .ostler → (req = .fn 0 → s.maintenance = false) →
         refused (.softRow req) ∧ refused (.fuseRow req) ∧ refused (.spareLane req) ∧ refused (.query req))
     ∧ (s.maintenance = true → ∀ c ∈ [Instr.softRow, .fuseRow, .spareLane, .query], exec (c (.fn 0)) s = exec (c .ostler) s))

/-! ### DMA channels and short transfers (09_streams_and_dma.md) -/

/-- A pushed descriptor enters the queue of its channel, sixteen at most. The one at the head starts on an idle, enabled channel: a bad one is rejected
(DONE, ERR, REJECTED) and releases nothing, ALIGN_FAULT set where a list is misaligned (R230); a stream waits for a ring that is not free; else it waits for its trigger, and starts when the trigger is
met, a stream with its ring. A walk that has ended with no line in flight completes: DONE, code, count, tag, latch. A consumer of a stream that has
ended with its last slot taken is rejected (R231 to R239). RESUME sends a halted channel on; clearing EN drains it, and setting EN during a drain is
held; an ABORT empties an idle channel, completes a stream that waits for its ring ABORTED, and drains a busy channel, which then completes ABORTED
with its queue empty; a drained channel without EN stops,
and EN lets it go on (R248, R251, R252). -/
def Obligations.DmaWalkAndControl : Prop :=
  (∀ (s : State) (st : Stall) (c : Dch) (v : Word) (off : Nat) (rest : List Nat) (d : DmaDesc) (code : Nat), s.awake →
     let ch := s.dmaOf st c
     let b := s.stbRead st off 64
     (if s.stallUp st = true ∧ ch.queue.length < 16 then
         Ends (.descPush st c v) s fun t => (t.dmaOf st c).queue = ch.queue ++ [bits v.toNat 23 6 * 64] ∧ MemSame s t
           ∧ t.fld Reg.DMA_CH_STATUS_QDEPTH st c = ch.queue.length + 1 ∧ RegsKept s t [Reg.DMA_CH_STATUS.key st c]
       else exec (.descPush st c v) s = .next s)
     ∧ (s.stallUp st = true → ch.cur = none → s.flag Reg.DMA_CH_CTRL_EN st c = true → s.chState st c = stIdle → ch.queue = off :: rest → ch.queue.length ≤ 16 →
         if dmaDescOk b = false then
           Ends (.descStart st c) s fun t => (t.dmaOf st c).cur = none ∧ (t.dmaOf st c).queue = rest ∧ t.chState st c = stIdle
             ∧ t.flag Reg.DMA_CH_STATUS_DONE st c = true ∧ t.flag Reg.DMA_CH_STATUS_ERR st c = true ∧ t.fld Reg.DMA_CH_STATUS_CODE st c = codeRejected
             ∧ t.fld Reg.DMA_CH_DONE_CNT_COUNT st c = s.fld Reg.DMA_CH_DONE_CNT_COUNT st c ∧ LatchesKept s t ∧ MemSame s t
             ∧ ((parseDmaDesc b).aligned = false → t.flag Reg.DMA_STATUS_ALIGN_FAULT st = true)
         else if (parseDmaDesc b).kind = 0 ∨ (match ch.ring with | some r => r.allFree | none => true) = true then
           Ends (.descStart st c) s fun t => (t.dmaOf st c).cur = some (parseDmaDesc b) ∧ (t.dmaOf st c).queue = rest ∧ t.chState st c = stWaitTrig
             ∧ t.rd Reg.DMA_CH_SPOS st c = 0 ∧ t.rd Reg.DMA_CH_DPOS st c = 0 ∧ MemSame s t
         else Ends (.descStart st c) s fun t => t.chState st c = stWaitRing ∧ t.dmaOf st c = ch ∧ MemSame s t)
     ∧ (ch.cur = some d → s.chState st c = stWaitTrig →
         if s.triggered st d = true then
           Ends (.dmaTrigger st c) s fun t => t.chState st c = stRun ∧ (t.dmaOf st c).started = true ∧ MemSame s t
             ∧ (d.kind ≠ 0 → (t.dmaOf st c).ring = some { base := d.ringBase, nslot := d.nslot, slotLines := d.slotLines, isOut := d.kind == 2 })
         else exec (.dmaTrigger st c) s = .next s)
     ∧ (ch.cur = some d → ch.started = true → ch.flights = [] → s.chState st c = stRun → s.walkEnd st c d = some code → d.doneLatch < 256 →
         Ends (.descriptorComplete st c) s fun t => (t.dmaOf st c).cur = none ∧ t.chState st c = stIdle ∧ t.flag Reg.DMA_CH_STATUS_DONE st c = true
           ∧ t.fld Reg.DMA_CH_STATUS_CODE st c = code ∧ t.flag Reg.DMA_CH_STATUS_ERR st c = (s.flag Reg.DMA_CH_STATUS_ERR st c || code != codeOk)
           ∧ t.fld Reg.DMA_CH_DONE_CNT_COUNT st c = (s.fld Reg.DMA_CH_DONE_CNT_COUNT st c + 1) % 2 ^ 32
           ∧ t.fld Reg.DMA_CH_DONE_TAG_TAG st c = d.tag % 2 ^ 32 ∧ MemSame s t
           ∧ ∀ x l, x < 16 → l < 256 → t.latch x l = (s.latch x l || (d.latchEn && decide (x = st.val ∧ l = d.doneLatch))))
     ∧ (∀ (seq : Word) (w : WinCmd) (x : Desc) (r : Ring),
         (s.dspOf st).running.find? (fun w => w.seq == seq && !w.ok && w.outs.isNone && w.issued) = some w → x ∈ w.descs →
         x.present = true → x.kind = 3 → (s.dmaOf st x.chan).ring = some r → r.isOut = false → r.finished = true → r.inUse = false → r.head = r.started →
         SMap.get w.reads 0 x.place < x.slots → SMap.get w.holding false x.place = false → (s.dspOf st).held = none →
         Ends (.streamEnd st seq) s fun t => (t.dspOf st).held = some w ∧ t.flag Reg.DSP_STATUS_CMD_REJ st = true ∧ LatchesKept s t ∧ MemSame s t))
  ∧ (∀ (s : State) (st : Stall) (c : Dch) (d : DmaDesc) (off : Nat) (rest : List Nat), s.awake → s.stallUp st = true →
     let ch := s.dmaOf st c
     let en := s.flag Reg.DMA_CH_CTRL_EN st c
     let pend := s.flag Reg.DMA_CH_STATUS_PENDING_ENABLE st c
     let now := s.chState st c
     (now = stHalted → Ends (.dmaResume st c) s fun t => t.chState st c = stRun ∧ t.dmaOf st c = ch ∧ MemSame s t ∧ RegsKept s t [Reg.DMA_CH_STATUS.key st c])
     ∧ (Ends (.dmaEnClear st c) s fun t => t.flag Reg.DMA_CH_CTRL_EN st c = false ∧ t.flag Reg.DMA_CH_STATUS_PENDING_ENABLE st c = false ∧ t.dmaOf st c = ch
         ∧ t.chState st c = (if pend = false ∧ en = true then stDraining else now) ∧ MemSame s t)
     ∧ (Ends (.dmaEnSet st c) s fun t => t.dmaOf st c = ch ∧ MemSame s t ∧
         if now = stDraining then t.chState st c = stDraining ∧ t.flag Reg.DMA_CH_CTRL_EN st c = en ∧ (en = false → t.flag Reg.DMA_CH_STATUS_PENDING_ENABLE st c = true)
         else t.flag Reg.DMA_CH_CTRL_EN st c = true
           ∧ t.chState st c = (if now = stStopped then (if ch.cur = none then stIdle else if ch.started then stRun else stWaitTrig) else now))
     ∧ (now = stDraining → ch.flights = [] → ch.aborting = false → en = false → pend = false →
         Ends (.dmaDrainEnd st c) s fun t => t.chState st c = stStopped ∧ (t.dmaOf st c).cur = ch.cur ∧ (t.dmaOf st c).queue = ch.queue ∧ MemSame s t)
     ∧ (now = stDraining → ch.flights = [] → ch.aborting = true → ch.cur = some d → en = true →
         Ends (.dmaDrainEnd st c) s fun t => t.chState st c = stIdle ∧ (t.dmaOf st c).cur = none ∧ (t.dmaOf st c).queue = [] ∧ LatchesKept s t
           ∧ t.fld Reg.DMA_CH_STATUS_CODE st c = codeAborted ∧ t.flag Reg.DMA_CH_STATUS_DONE st c = true ∧ MemSame s t)
     ∧ (now = stWaitRing → ch.queue = off :: rest → Ends (.dmaAbort st c) s fun t => t.chState st c = stIdle ∧ (t.dmaOf st c).cur = none
         ∧ (t.dmaOf st c).queue = [] ∧ t.fld Reg.DMA_CH_STATUS_CODE st c = codeAborted ∧ t.flag Reg.DMA_CH_STATUS_DONE st c = true
         ∧ LatchesKept s t ∧ MemSame s t)
     ∧ (now ≠ stWaitRing → Ends (.dmaAbort st c) s fun t => MemSame s t ∧ (t.dmaOf st c).cur = ch.cur
         ∧ if ch.cur = none then (t.dmaOf st c).queue = [] ∧ t.chState st c = now else (t.dmaOf st c).aborting = true ∧ t.chState st c = stDraining))

/-- A COPY of one line within the stall's own buffer, its channel the only one that may issue, moves the line with its poison and counts 64 bytes; a short
transfer that has not gone out goes out first. A short transfer of one line completes with the line at its destination (R227, R240, R241, R244, R245). -/
def Obligations.LinesMove : Prop := ∀ (s : State) (st : Stall) (c : Dch) (d : DmaDesc) (so dest : Nat) (x : ShortXfer), s.awake → s.stallUp st = true →
  so % 64 = 0 → dest % 64 = 0 → so + 64 ≤ stbSize → dest + 64 ≤ stbSize →
  let at_ (o : Nat) : Nat := 2 ^ 40 + st.val * 2 ^ 24 + o
  let line (list o : Nat) : Prop := parseBlock (s.stbRead st list 32) =
    { addr := at_ o, len0 := 64, space := 0, view := false, latchWait := false, n1 := 1, n2 := 1, n3 := 1, latch := 0, s1 := 0, s2 := 0, s3 := 0, rsv := false }
  let moved (t : State) : Prop := MemKept s t (stbKey st dest) 64 ∧ ∀ i, i < 64 → t.byte (stbKey st dest + i) = s.byte (stbKey st so + i)
  (s.shortsOf st = [] → s.issueOrder st = [c.val] → (s.dmaOf st c).cur = some d → d.kind = 0 → d.srcCount = 1 → d.dstCount = 1 → d.pace = 0 →
    s.chState st c = stRun → (s.dmaOf st c).flights = [] → (s.dmaOf st c).unread = [] → s.rd Reg.DMA_CH_SPOS st c = 0 → s.rd Reg.DMA_CH_DPOS st c = 0 →
    line d.srcList so → line d.dstList dest → spansMeet dest 64 d.srcList 32 = false → spansMeet dest 64 d.dstList 32 = false →
    Ends (.transferIssue st) s fun t => moved t ∧ t.linePoison st (dest / 64) = s.linePoison st (so / 64) ∧ (t.dmaOf st c).flights = []
      ∧ t.rd Reg.DMA_CH_BYTES st c = (s.rd Reg.DMA_CH_BYTES st c + 64) % 2 ^ 64
      ∧ t.rd Reg.DMA_CH_SPOS st c = 64 * 2 ^ 16 ∧ t.rd Reg.DMA_CH_DPOS st c = 64 * 2 ^ 16)
  ∧ (s.shortsOf st = [x] → x.issued = false → s.issueOrder st = [] →
    Ends (.transferIssue st) s fun t => t.shortsOf st = [{ x with issued := true }] ∧ MemSame s t)
  ∧ (s.shortsOf st = [x] → x.issued = true → x.lines = 1 → x.tag < 2 ^ 16 → x.src = ⟨0, false, at_ so⟩ → x.dst = ⟨0, false, at_ dest⟩ →
    s.linePoison st (so / 64) = false →
    Ends (.shortTransferComplete st (BitVec.ofNat 16 x.tag)) s fun t => moved t ∧ t.shortsOf st = [] ∧ t.linePoison st (dest / 64) = false
      ∧ t.flag Reg.SHORT_STATUS_ERR st = s.flag Reg.SHORT_STATUS_ERR st)

/-! ### The host interface (14_host_interface.md) -/

/-- A translation completion fills the cache for the requests it answers, and an unasked one is ignored; an invalidation removes what it meets and is
answered when no line is on its way there; a page response or its timeout ends its request, and with it a completion record that waits for the page
fails unless the page was granted; a read without completion sets CPL_ERR and the error status of its function; a coalescing time that has passed
sends one message for the events gathered (R380 to R385). The model's choices: the response codes, 0 success, 1 an invalid request and every other a
Response Failure, and the row of a read that nothing completes (notes/assumptions/31.md); the bit of the error status (notes/assumptions/48.md). -/
def Obligations.TranslationService : Prop := ∀ (s : State) (fn : Fn) (page size pa t0 : Dword) (r w : Bool) (q : PageReq) (code : BitVec 4) (src : Nat),
  s.awake →
  (s.xlReqs = [(fn.val, page.toNat)] → page.toNat % 4096 = 0 → s.atc = [] → Ends (.translationCompletion fn page 4096 pa r w) s fun t =>
    t.xlReqs = [] ∧ t.atc = [⟨fn, page.toNat, 4096, pa.toNat / 4096 * 4096, r, w⟩] ∧ MemSame s t ∧ RegsKept s t [])
  ∧ (s.xlReqs = [] → exec (.translationCompletion fn page size pa r w) s = .next s)
  ∧ ((∀ i, i < 128 → (s.dmaOf (i / 8) (i % 8)).flights = []) → Ends (.atsInvalidation fn page size) s fun t =>
      (∀ e ∈ t.atc, e ∈ s.atc ∧ ¬(e.fn = fn.val ∧ e.page < page.toNat + size.toNat ∧ page.toNat < e.page + e.size))
      ∧ t.bus = .invalidationDone fn :: s.bus ∧ MemSame s t ∧ RegsKept s t [])
  ∧ (s.pageReqs = [q] → q.fn = fn.val → q.idx < 512 → Ends (.prgResponse fn (BitVec.ofNat 9 q.idx) code) s fun t =>
      t.pageReqs = [] ∧ MemSame s t ∧ (code ≠ 0 → code ≠ 1 → (t.fnOf fn).priStop = true ∧ t.flag Reg.FN_STATUS_PRI_FAIL 0 fn = true)
      ∧ ((s.fnOf fn).cplPage = some q.page → code ≠ 0 → (t.fnOf fn).cpl = none ∧ (t.fnOf fn).cplPage = none
          ∧ t.fld Reg.FN_CQ_HEAD_HEAD 0 fn = (s.fld Reg.FN_CQ_HEAD_HEAD 0 fn + 1) % 2 ^ 32)
      ∧ ∀ i, i < 128 → (s.dmaOf (i / 8) (i % 8)).waitPage = some (fn.val, q.page) → s.chState (i / 8) (i % 8) = stWaitPage →
          t.chState (i / 8) (i % 8) = if code = 0 then stRun else stHalted)
  ∧ (s.pageReqs = [q] → q.fn = fn.val → q.page = page.toNat → 0 < s.fld Reg.FN_PRI_TMO_TMO 0 fn →
      q.tb.toNat + 1000 * s.fld Reg.FN_PRI_TMO_TMO 0 fn ≤ t0.toNat → Ends (.priTimeout fn page t0) s fun t =>
        t.pageReqs = [] ∧ (t.fnOf fn).priStop = true ∧ t.flag Reg.FN_STATUS_PRI_FAIL 0 fn = true ∧ MemSame s t)
  ∧ (Ends (.completionTimeout fn) s fun t => t.flag Reg.HIF_STATUS_CPL_ERR = true ∧ bit (SMap.get t.aer 0 fn) aerTimeout = true ∧ MemSame s t
      ∧ LatchesKept s t)
  ∧ (src < 3 → 0 < (s.coalOf fn src).n → 0 < s.fld Reg.FN_COAL_TIME 0 fn → (s.coalOf fn src).first.toNat + 1000 * s.fld Reg.FN_COAL_TIME 0 fn ≤ t0.toNat →
      Ends (.coalTimer fn src t0) s fun t => (t.coalOf fn src).n = 0 ∧ MemSame s t ∧ RegsKept s t []
        ∧ (if s.msixOn fn (s.fnVec fn src) = true then t.bus = .msix fn (s.fnVec fn src) :: s.bus
            else SMap.get t.msixPend false (fn.val * 256 + s.fnVec fn src) = true))

/-- EN of a good configuration starts the rings at the counts last written; a bad one sets LQ_BAD; during a drain it is held. Clearing EN drains while
commands are fetched. A doorbell count beyond the ring sets LQ_BAD and clears EN. A fetch reads the next command of the ring (R374 to R377). -/
def Obligations.CommandRings : Prop := ∀ (s : State) (fn : Fn) (n : Word), s.awake →
  let f := s.fnOf fn
  let en := s.flag Reg.FN_CTRL_EN 0 fn
  let log2 := s.fld Reg.FN_LQ_CFG_LOG2 0 fn
  let head := BitVec.ofNat 32 (s.rd Reg.FN_LQ_HEAD 0 fn)
  (en = false → s.flag Reg.FN_STATUS_DRAINING 0 fn = false → Ends (.fnEnSet fn) s fun t => MemSame s t ∧
    if 2 ≤ log2 ∧ log2 ≤ 16 ∧ s.rd Reg.FN_LQ_BASE 0 fn % 64 = 0 ∧ s.rd Reg.FN_CQ_BASE 0 fn % 64 = 0 then
      t.flag Reg.FN_CTRL_EN 0 fn = true ∧ t.rd Reg.FN_LQ_HEAD 0 fn = f.lqTail.toNat ∧ t.rd Reg.FN_CQ_HEAD 0 fn = f.cqTail.toNat
    else t.flag Reg.FN_CTRL_EN 0 fn = false ∧ t.flag Reg.FN_STATUS_LQ_BAD 0 fn = true)
  ∧ (en = false → s.flag Reg.FN_STATUS_DRAINING 0 fn = true → Ends (.fnEnSet fn) s fun t => t.flag Reg.FN_CTRL_EN 0 fn = false
      ∧ t.flag Reg.FN_STATUS_PENDING_ENABLE 0 fn = true ∧ MemSame s t)
  ∧ (Ends (.fnEnClear fn) s fun t => t.flag Reg.FN_CTRL_EN 0 fn = false ∧ t.flag Reg.FN_STATUS_PENDING_ENABLE 0 fn = false ∧ MemSame s t
      ∧ t.flag Reg.FN_STATUS_DRAINING 0 fn = (s.flag Reg.FN_STATUS_DRAINING 0 fn || (en && !f.idle)))
  ∧ (s.flag Reg.FN_STATUS_DRAINING 0 fn = true → f.idle = true → f.flr = false → Ends (.fnDrainEnd fn) s fun t =>
      t.flag Reg.FN_STATUS_DRAINING 0 fn = false ∧ t.flag Reg.FN_STATUS_PENDING_ENABLE 0 fn = false ∧ MemSame s t
      ∧ (s.flag Reg.FN_STATUS_PENDING_ENABLE 0 fn = false → t.flag Reg.FN_CTRL_EN 0 fn = en))
  ∧ (Ends (.fnLqDbell fn n) s fun t => (t.fnOf fn).lqTail = n ∧ MemSame s t
      ∧ (en = true → if 2 ^ log2 < (n - head).toNat then t.flag Reg.FN_CTRL_EN 0 fn = false ∧ t.flag Reg.FN_STATUS_LQ_BAD 0 fn = true
          else t.flag Reg.FN_CTRL_EN 0 fn = true ∧ RegsKept s t []))
  ∧ (Ends (.fnCqDbell fn n) s fun t => t.fnOf fn = { f with cqTail := n } ∧ MemSame s t ∧ RegsKept s t [])
  ∧ (en = true → f.d3 = false → f.flr = false → f.fetchPage = none → f.ats = false → 0 < (f.lqTail - head).toNat → (f.lqTail - head).toNat ≤ 2 ^ log2 →
      (head - f.cqTail).toNat < 2 ^ log2 → SMap.get s.hostPoison false ((s.rd Reg.FN_LQ_BASE 0 fn + 64 * (head.toNat % 2 ^ log2)) / 64) = false →
      Ends (.ledgerFetch fn) s fun t => MemSame s t
        ∧ (t.fnOf fn).fetched = f.fetched ++ [(head, s.bytes (hostKey (s.rd Reg.FN_LQ_BASE 0 fn + 64 * (head.toNat % 2 ^ log2))) 64)]
        ∧ t.fld Reg.FN_LQ_HEAD_HEAD 0 fn = (s.fld Reg.FN_LQ_HEAD_HEAD 0 fn + 1) % 2 ^ 32)

/-- The direct queue takes the record at the offset its head names, while RUN is 0 and the window has room; an aperture of the physical function reads and
writes the device addresses of its window, and an address outside every window aborts the read, as the error status shows, and drops the write
(R372, R378, R379). The model's choice: the bit of the error status (notes/assumptions/48.md). -/
def Obligations.DirectAccess : Prop := ∀ (s : State) (st : Stall) (n : Word) (off : BitVec 40) (w o len : Nat) (data : List Byte), s.awake →
  (s.stallUp st = true → Ends (.stlDbell st n) s fun t => SMap.get t.dqTail 0 st = n ∧ MemSame s t ∧ RegsKept s t [])
  ∧ (let head := BitVec.ofNat 32 (s.rd Reg.STL_DQ_HEAD st)
     let ahead := (SMap.get s.dqTail 0 st - head).toNat
     let at_ := 64 * s.fld Reg.STL_DQ_CTRL_BASE st + 4 * (head.toNat % 2 ^ s.fld Reg.STL_DQ_CTRL_LOG2 st)
     let r := leAt (s.stbRead st at_ 4) 0 4
     let len := recordBytes (s.stbRead st r 16)
     s.stallUp st = true → s.flag Reg.STL_DQ_CTRL_EN st = true → s.flag Reg.SCC_CTRL_RUN st = false → 0 < ahead → ahead < 2 ^ 31 → s.windowFull st = false →
     if r % 64 = 0 ∧ r + len ≤ stbSize then
       Ends (.directQueueTake st) s fun t => MemSame s t ∧ t.fld Reg.STL_DQ_HEAD_HEAD st = (s.fld Reg.STL_DQ_HEAD_HEAD st + 1) % 2 ^ 32
         ∧ ∃ c : WinCmd, (t.dspOf st).window = (s.dspOf st).window ++ [c] ∧ c.viaDq = true ∧ c.record = s.stbRead st r len
     else Ends (.directQueueTake st) s fun t => MemSame s t ∧ LatchesKept s t ∧ t.flag Reg.DSP_STATUS_CMD_REJ st = true
       ∧ t.fld Reg.STL_DQ_HEAD_HEAD st = (s.fld Reg.STL_DQ_HEAD_HEAD st + 1) % 2 ^ 32 ∧ (t.dspOf st).window = (s.dspOf st).window)
  ∧ (s.fnAnswers 0 = true → s.aperture off.toNat = none →
      exec (.apertureWrite off data) s = .next s ∧ Ends (.apertureRead off len) s fun t => t = (s.aerErr 0 aerAborted).emit (.memError (.fn 0) off.toNat))
  ∧ (s.fnAnswers 0 = true → s.stallUp st = true → s.aperture off.toNat = some (false, 2 ^ 40 + st.val * 2 ^ 24 + o) → o % 64 + data.length ≤ 64 →
      o % 64 + len ≤ 64 → 0 < data.length → 0 < len → o + 64 ≤ stbSize →
      (Ends (.apertureWrite off data) s fun t => MemKept s t (stbKey st o) data.length ∧ ∀ i, i < data.length → some (t.byte (stbKey st o + i)) = data[i]?)
      ∧ Ends (.apertureRead off len) s fun t => t = s.emit (.memValue (.fn 0) (s.stbRead st o len) (s.linePoison st (o / 64))))
  ∧ (w < 16 → off.toNat / 2 ^ 32 = w → s.aperture off.toNat = if s.flag Reg.APT_WIN_EN 0 w = true then
      some (s.flag Reg.APT_WIN_VIEW 0 w, s.fld Reg.APT_WIN_BASE 0 w * 2 ^ 32 + off.toNat % 2 ^ 32) else none)

/-- A function-level reset returns the function's registers and drops its translations and page requests; clearing VF Enable resets every virtual
function, and setting it during the drain is held; the reset of the physical function also clears VF Enable and closes its windows. Nothing answers a
configuration request in cold reset; one in the first 60 ms of the boot is retried, one of a function that does not exist is unsupported, one of a
function in reset is retried, any other takes effect: a read answers what the capability holds, a write sets its field, a 1 clears a bit of the error
status, and VF Enable and the initiation of a reset do what their own rows do (R385 to R388, R368, R440). The model's choices: a reset drops the
commands fetched and turns translation off, and enabling translation clears the function's cache (notes/assumptions/49.md); MAX_PAYLOAD and
MAX_READ_REQUEST stand per function, and the bits of the error status (notes/assumptions/48.md); the boot as one step (notes/assumptions/64.md). -/
def Obligations.FunctionResets : Prop := ∀ (s : State) (k : Fn) (w : CfgReq) (item : CfgItem),
  (s.board.cold = true → exec (.configurationRequest k w) s = .next s) ∧ (s.awake →
  let gone (t : State) (fn : Nat) : Prop := (∀ r ∈ t.pageReqs, r.fn ≠ fn) ∧ (∀ e ∈ t.atc, e.fn ≠ fn) ∧ (∀ x ∈ t.xlReqs, x.1 ≠ fn)
    ∧ t.flag Reg.FN_CTRL_EN 0 fn = false ∧ (t.fnOf fn).fetched = [] ∧ (t.fnOf fn).ats = false
  (k.val ≠ 0 → Ends (.vfFlr k) s fun t => gone t k ∧ MemSame s t)
  ∧ (Ends .pfFlr s fun t => gone t 0 ∧ MemSame s t ∧ t.flag Reg.HIF_NUMVF_VF_EN = false ∧ ∀ i, i < 16 → t.flag Reg.APT_WIN_EN 0 i = false)
  ∧ (s.flag Reg.HIF_NUMVF_VF_EN = true → Ends .vfEnableClear s fun t => MemSame s t ∧ t.flag Reg.HIF_NUMVF_VF_EN = false
      ∧ ∀ fn, 1 ≤ fn → fn ≤ 256 → gone t fn)
  ∧ (Ends .vfEnableSet s fun t => MemSame s t ∧ RegsKept s t [Reg.HIF_NUMVF.key 0 0] ∧
      if s.flag Reg.HIF_NUMVF_DRAINING = true then t.flag Reg.HIF_NUMVF_PENDING_ENABLE = true ∧ t.flag Reg.HIF_NUMVF_VF_EN = s.flag Reg.HIF_NUMVF_VF_EN
      else t.flag Reg.HIF_NUMVF_VF_EN = true)
  ∧ (s.board.bootDue = true → s.tb.toNat < bootAnswers → Ends (.configurationRequest k w) s fun t => t = s.emit (.configRetry k))
  ∧ ((s.board.bootDue = false ∨ bootAnswers ≤ s.tb.toNat) →
  (s.fnExists k = false → Ends (.configurationRequest k w) s fun t => t = (s.aerErr 0 aerUnsupported).emit (.unsupported k))
  ∧ (s.fnExists k = true → (s.fnOf k).flr = true → Ends (.configurationRequest k w) s fun t => t = s.emit (.configRetry k))
  ∧ (s.fnExists k = true → (s.fnOf k).flr = false →
      (∀ on, Ends (.configurationRequest k (.pri on)) s fun t => (t.fnOf k).pri = on ∧ RegsKept s t [])
      ∧ (∀ on, Ends (.configurationRequest k (.ats on)) s fun t => (t.fnOf k).ats = on ∧ RegsKept s t [] ∧
          (on = true → (s.fnOf k).ats = false → ∀ e ∈ t.atc, e.fn ≠ k.val))
      ∧ (∀ d3, Ends (.configurationRequest k (.powerState d3)) s fun t => (t.fnOf k).d3 = d3 ∧ RegsKept s t [])
      ∧ (Ends (.configurationRequest k (.read item)) s fun t => t = s.emit (.configValue k item (s.cfgRead k item)))
      ∧ (Ends (.configurationRequest k (.maxPayload 256)) s fun t => t.cfgRead k .maxPayload = some 256 ∧ RegsKept s t [])
      ∧ (Ends (.configurationRequest k (.maxReadRequest 1024)) s fun t => t.cfgRead k .maxReadRequest = some 1024 ∧ RegsKept s t [])
      ∧ (∀ on, Ends (.configurationRequest k (.msix on)) s fun t => SMap.get t.msixEn false k = on ∧ RegsKept s t [])
      ∧ (∀ on, Ends (.configurationRequest k (.msixMask on)) s fun t => SMap.get t.msixFnMask false k = on ∧ RegsKept s t []
          ∧ (on = true → ∀ v, t.msixOn k v = false))
      ∧ (∀ b, Ends (.configurationRequest k (.aerClear b)) s fun t => RegsKept s t [] ∧
          ∀ i, bit (SMap.get t.aer 0 k) i = (bit (SMap.get s.aer 0 k) i && !b.getLsbD i))
      ∧ (∀ n, k.val = 0 → s.flag Reg.HIF_NUMVF_VF_EN = false → s.flag Reg.HIF_NUMVF_DRAINING = false → n.toNat ≤ 256 →
          Ends (.configurationRequest k (.numVfs n)) s fun t => t.fld Reg.HIF_NUMVF_NUMVF = n.toNat ∧ RegsKept s t [Reg.HIF_NUMVF.key 0 0])
      ∧ (k.val = 0 → exec (.configurationRequest k (.vfEnable true)) s = exec .vfEnableSet s
          ∧ exec (.configurationRequest k (.vfEnable false)) s = exec .vfEnableClear s ∧ exec (.configurationRequest k .flr) s = exec .pfFlr s)
      ∧ (k.val ≠ 0 → exec (.configurationRequest k .flr) s = exec (.vfFlr k) s))))

/-! ### The request ledger and the paddock sequencer (11_serving.md, 12_sampler_and_output.md) -/

/-- The ledger takes the functions with fetched commands in turn. The oldest command of the function whose turn it is is answered by one completion
record, with its serial number, status and phase. A refused command changes no entry: CMD_REJ with the first code, and the count. An accepted SUBMIT
fills the first free entry of its paddock, and its OPENED goes out before the completion; CANCEL, PAUSE, RESUME and IMPORT_DONE set their request in
the entry they name, and a CANCEL discards the records that are held, but for a closing one. A completion record that waited goes out when its row runs
again (R286 to R288, R301, R334, R375, R376). The model's choices: the SUBMIT row answers a command of unknown OP too, and a completion record that
waits goes out with the row of its command (notes/assumptions/48.md). -/
def Obligations.LedgerCommandsAnswered : Prop := ∀ (s : State) (fn : Fn) (serial : Word) (cmd : List Byte) (rest : List (Word × List Byte)) (a op : Nat)
  (c : Instr) (x : CplWait), s.awake → (op, c) ∈ [(1, Instr.submit fn), (2, .cancel fn), (3, .pause fn), (4, .resume fn), (5, .importDone fn)] →
  let mine (m : List Byte) : Prop := byteAt m 0 = op ∨ (op = 1 ∧ byteAt m 0 ∉ [1, 2, 3, 4, 5])
  ((s.fnOf fn).cpl = some x → mine x.cmd → (x.status = 0 → byteAt x.cmd 0 = 1 → s.openedWaits x.ix = false) →
    s.hostTry fn (s.rd Reg.FN_CQ_BASE 0 fn + 16 * (x.serial.toNat % 2 ^ s.fld Reg.FN_LQ_CFG_LOG2 0 fn)) true = (s, .ok a) → Ends c s fun t =>
      (t.fnOf fn).cpl = none ∧ (t.fnOf fn).fetched = (s.fnOf fn).fetched ∧ t.ledger = s.ledger ∧ MemKept s t (hostKey a) 16
        ∧ t.bytes (hostKey a) 16 = cplBytes x.serial x.status (!bit x.serial.toNat (s.fld Reg.FN_LQ_CFG_LOG2 0 fn)) x.ix x.cmd
        ∧ t.fld Reg.FN_CQ_HEAD_HEAD 0 fn = (s.fld Reg.FN_CQ_HEAD_HEAD 0 fn + 1) % 2 ^ 32 ∧ RegsKept s t [Reg.FN_CQ_HEAD.key 0 fn])
  ∧ ((s.fnOf fn).cpl = none → (s.fnOf fn).fetched = (serial, cmd) :: rest → mine cmd → cmd.length = 64 →
  (s.lqNext ≠ some fn.val → Gives c s s) ∧ (s.lqNext = some fn.val →
  let log2 := s.fld Reg.FN_LQ_CFG_LOG2 0 fn
  let ix := leAt cmd 4 2
  let e := s.entryOf ix
  let p := bits (byteAt cmd 1) 3 0
  let answered (t : State) (status index : Nat) : Prop := (t.fnOf fn).fetched = rest ∧ (t.fnOf fn).cpl = none ∧ t.lqTurn = (fn.val + 1) % 257
    ∧ t.bytes (hostKey a) 16 = cplBytes serial status (!bit serial.toNat log2) index cmd
    ∧ t.fld Reg.FN_CQ_HEAD_HEAD 0 fn = (s.fld Reg.FN_CQ_HEAD_HEAD 0 fn + 1) % 2 ^ 32
  let asked (t : State) (f : Entry → Entry) : Prop := answered t 0 ix ∧ MemKept s t (hostKey a) 16 ∧ RegsKept s t [Reg.FN_CQ_HEAD.key 0 fn]
    ∧ t.entryOf ix = { f e with version := (t.entryOf ix).version } ∧ ∀ j, j ≠ ix → t.entryOf j = s.entryOf j
  s.hostTry fn (s.rd Reg.FN_CQ_BASE 0 fn + 16 * (serial.toNat % 2 ^ log2)) true = (s, .ok a) →
  (∀ code, s.cmdCheck cmd fn none = some code → Ends c s fun t =>
    answered t code (if byteAt cmd 0 ∈ [2, 3, 4, 5] then ix else 0xFFFF) ∧ MemKept s t (hostKey a) 16 ∧ t.ledger = s.ledger
      ∧ t.flag Reg.LDG_STATUS_CMD_REJ = true ∧ t.fld Reg.LDG_REJ_CNT_COUNT = min (s.fld Reg.LDG_REJ_CNT_COUNT + 1) (2 ^ 32 - 1)
      ∧ (s.flag Reg.LDG_STATUS_CMD_REJ = false → t.fld Reg.LDG_STATUS_REJ_CODE = code)
      ∧ RegsKept s t [Reg.FN_CQ_HEAD.key 0 fn, Reg.LDG_STATUS.key 0 0, Reg.LDG_REJ_CNT.key 0 0])
  ∧ (s.cmdCheck cmd fn none = none → byteAt cmd 0 = op →
    (op = 1 → ∀ new, (s.slice p).find? (fun i => (s.entryOf i).state == stFree) = some new → Ends c s fun t => (t.fnOf fn).fetched = rest
      ∧ ((s.fnOf fn).ats = false → answered t 0 new ∧ (t.entryOf new).recs = [] ∧ (t.entryOf new).ringHead = 1)
      ∧ (∀ j, j ≠ new → t.entryOf j = s.entryOf j) ∧ (t.pdkOf p).due = true
      ∧ (t.entryOf new).state = stQueued ∧ (t.entryOf new).paddock = p ∧ (t.entryOf new).tenant = cmdTenant cmd fn
      ∧ (t.entryOf new).lPrompt = leAt cmd 12 4 ∧ (t.entryOf new).lMax = leAt cmd 16 4 ∧ (t.entryOf new).hostTag.toNat = leAt cmd 48 8
      ∧ (t.entryOf new).lCommit = 0 ∧ (t.entryOf new).pages = [] ∧ (t.entryOf new).tSubmit = s.tb)
    ∧ (op = 2 → Ends c s fun t => asked t fun e => { e with cancelReq := true, recs := e.recs.filter fun r => !r.held || r.closing })
    ∧ (op = 3 → Ends c s fun t => asked t fun e => { e with pauseReq := true, ttlReq := leAt cmd 8 2 })
    ∧ (op = 4 → Ends c s fun t => asked t fun e => { e with resumeReq := true })
    ∧ (op = 5 → Ends c s fun t => asked t fun e => { e with importDone := true, lastTok := leAt cmd 12 4 }))))

/-- A record goes out to the next place of its ring with its serial number, phase and time, and the entry's head and T_LAST follow it; without two free
places, one for a closing record, it and those behind it enter the hold, from which a TAIL read again frees them; a TAIL beyond the ring is flagged and
leaves it full. A token of a request whose CANCEL has been seen, and a token whose position has been issued, is dropped. After
RING_WAIT the hinge waits no longer (R301, R330 to R335). -/
def Obligations.RecordsGoOut : Prop := ∀ (s : State) (ix : LedgerIx) (r : Rec) (rest : List Rec) (a b : Nat) (p : Paddock) (t0 : Dword) (w : Dword),
  let e := s.entryOf ix
  let tail := BitVec.ofNat 32 (leAt (s.bytes (hostKey b) 4) 0 4)
  let need := if r.closing then 1 else 2
  let slot := e.ringBase + 64 + 16 * (e.ringHead.toNat % 2 ^ e.ringLog2)
  let out (t : State) : Prop := t.bytes (hostKey a) 16 = recBytes r e.ringHead e.ringLog2 s.tb ∧ MemKept s t (hostKey a) 16
    ∧ (t.entryOf ix).ringHead = e.ringHead + 1 ∧ (t.entryOf ix).tLast = s.tb ∧ (∀ j, j ≠ ix.val → t.entryOf j = s.entryOf j)
  s.awake →
  (e.recs = r :: rest → e.silent = false →
  (e.drops r = false → need ≤ e.room → s.hostTry e.fn slot true = (s, .ok a) → Ends (.recordIssue ix) s fun t => out t ∧
    (t.entryOf ix).recs = rest ∧ (r.kind = 0 → r.st < 16 → e.paddock < 16 → t.rd Reg.TMB_TOKEN_CNT r.st = (s.rd Reg.TMB_TOKEN_CNT r.st + 1) % 2 ^ 64))
  ∧ (e.drops r = true → Ends (.recordIssue ix) s fun t => (t.entryOf ix).recs = rest ∧ (t.entryOf ix).ringHead = e.ringHead ∧ MemSame s t
      ∧ RegsKept s t [])
  ∧ (e.drops r = false → e.room < need → s.hostTry e.fn e.ringBase false = (s, .ok b) → SMap.get s.hostPoison false (b / 64) = false →
      { e with tailSeen := tail }.room < need → Ends (.recordIssue ix) s fun t => MemSame s t
        ∧ (t.entryOf ix).recs = e.recs.map (fun y => { y with held := true }) ∧ (t.entryOf ix).tailSeen = tail ∧ (t.entryOf ix).ringHead = e.ringHead
        ∧ (r.st < 16 → r.held = false → t.flag Reg.TMB_STATUS_RING_HELD r.st = true)
        ∧ (r.st < 16 → (e.ringHead - tail).toNat > 2 ^ e.ringLog2 → t.flag Reg.TMB_STATUS_RING_BAD r.st = true))
  ∧ (rest = [] → r.held = true → e.drops r = false → s.hostTry e.fn e.ringBase false = (s, .ok b) → SMap.get s.hostPoison false (b / 64) = false →
      need ≤ { e with tailSeen := tail }.room → s.hostTry e.fn slot true = (s, .ok a) → Ends (.tailReread ix) s fun t => out t ∧ (t.entryOf ix).recs = []))
  ∧ ((s.pdkOf p).waitFrom = some w →
      if w.toNat + 1000 * s.ringWait p ≤ t0.toNat then Ends (.ringWaitTimeout p t0) s fun t => (t.pdkOf p).waited = true ∧ MemSame s t ∧ RegsKept s t []
      else exec (.ringWaitTimeout p t0) s = .next s)

/-- At a 1 ms boundary every tenant's budget rises by its refill up to its cap, both at most 2^31 − 1, whatever the budget's sign, and stays with a refill
of 0; the hinge of an idle paddock is wanted, and so it is by every write of PDK_CTRL. A paddock opens and closes as asked, but a follower and a
paddock whose books failed stay closed and an enable during an abort is held; ABORT_ALL cancels every live entry and closes the paddock (R289, R308,
R312, R314). -/
def Obligations.BudgetsAndOpening : Prop := ∀ (s : State) (p : Paddock) (t0 : Dword) (v : Bool), s.awake →
  let st := s.fld Reg.PDK_STATUS_STATE 0 p
  (if t0.toNat % 1000000 = 0 then Ends (.tntRefill t0) s fun t => MemSame s t
      ∧ RegsKept s t ((List.range 256).map fun k => Reg.TNT_BUDGET.key 0 k)
      ∧ ∀ k, k < 256 → t.rd Reg.TNT_BUDGET 0 k = if s.rd Reg.TNT_REFILL 0 k = 0 then s.rd Reg.TNT_BUDGET 0 k
          else budgetBits (min (budget (s.rd Reg.TNT_BUDGET 0 k) + s.rd Reg.TNT_REFILL 0 k) (s.rd Reg.TNT_CAP 0 k))
    else exec (.tntRefill t0) s = .next s)
  ∧ (s.reaches (.fn 0) = true → ∀ k, k < 256 → ∀ x : Dword, ∀ r ∈ [Reg.TNT_REFILL, Reg.TNT_CAP],
      Ends (.regWrite (.fn 0) (BitVec.ofNat 32 (r.key 0 k)) 4 x) s fun t => t.rd r 0 k = x.toNat % 2 ^ 31 ∧ MemSame s t ∧ RegsKept s t [r.key 0 k])
  ∧ (if s.pdkOn p = true ∧ t0.toNat % 1000000 = 0 ∧ ((s.pdkOf p).running = false ∨ (s.pdkOf p).stop ≠ 0) then
      Ends (.hingeTick p t0) s fun t => (t.pdkOf p).due = true ∧ MemSame s t ∧ RegsKept s t []
    else exec (.hingeTick p t0) s = .next s)
  ∧ (s.pdkOn p = false → exec (.pdkOpen p v) s = .next s ∧ Gives (.abortAll p) s s)
  ∧ (s.reaches (.fn 0) = true → s.pdkOn p = true → ∀ x : Dword,
      Ends (.regWrite (.fn 0) (BitVec.ofNat 32 (Reg.PDK_CTRL.key 0 p)) 4 x) s fun t => (t.pdkOf p).due = true ∧ MemSame s t)
  ∧ (s.pdkOn p = true → st ≠ 3 → v = true → (s.follower p = true ∨ (s.pdkOf p).bookBad = true) → Gives (.pdkOpen p v) s (s.wantHinge p))
  ∧ (s.pdkOn p = true → st ≠ 3 → (v = true → s.follower p = false ∧ (s.pdkOf p).bookBad = false) → Ends (.pdkOpen p v) s fun t => t.flag Reg.PDK_CTRL_OPEN 0 p = v
      ∧ t.fld Reg.PDK_STATUS_STATE 0 p = (if st = 1 ∨ st = 2 then (if v then 2 else 1) else st) ∧ (t.pdkOf p).due = true ∧ t.ledger = s.ledger ∧ MemSame s t
      ∧ RegsKept s t [Reg.PDK_CTRL.key 0 p, Reg.PDK_STATUS.key 0 p])
  ∧ (s.pdkOn p = true → st = 3 → Ends (.pdkOpen p v) s fun t => t.flag Reg.PDK_STATUS_PENDING_ENABLE 0 p = v ∧ (t.pdkOf p).due = true
      ∧ t.ledger = s.ledger ∧ MemSame s t
      ∧ RegsKept s t [Reg.PDK_STATUS.key 0 p])
  ∧ (s.pdkOn p = true → Ends (.abortAll p) s fun t => (∀ ix ∈ s.slice p, (s.entryOf ix).live = true → (t.entryOf ix).cancelReq = true)
      ∧ (∀ ix, ix ∉ s.slice p → t.entryOf ix = s.entryOf ix) ∧ t.flag Reg.PDK_CTRL_OPEN 0 p = false
      ∧ t.flag Reg.PDK_STATUS_PENDING_ENABLE 0 p = false ∧ MemSame s t ∧ RegsKept s t [Reg.PDK_CTRL.key 0 p, Reg.PDK_STATUS.key 0 p]
      ∧ t.fld Reg.PDK_STATUS_STATE 0 p = if s.allFree p = true then (if (s.pdkOf p).stop = 0 then 1 else 4) else 3)

/-- A hinge that is due makes a plan and changes no entry; while a record of the step is held it waits, as WAIT_HOST shows, and so it does while a channel
of the paddock takes no requests. The plan of a replay takes none but requests of the step and charges no tenant; any other takes generation requests up
to MAXB of its role set, and prompt positions up to CHUNK for each of its prompt stalls. A commit writes the states, lengths, counts and pages of the
plan into the entries it names and leaves the entries of other paddocks alone, charges each tenant, but on a follower, counts and stamps the step,
leaves no pages pending, sends its message to every stall where a step starts, and of the memory changes only the tables in the STBs. A copy of pages
that ends is ready for the next commit (R289 to R291, R293 to R295, R297, R304, R306, R313, R333, R354, R384). The model's choice: the waits of hinge
and page copy for channels that take no requests (notes/assumptions/71.md). -/
def Obligations.HingePlansAndCommits : Prop := ∀ (s : State) (p : Paddock) (pl : Plan) (ix : LedgerIx) (c : KvCopy), s.awake →
  let k := s.pdkOf p
  ((s.follower p = false ∨ k.stop ≠ 0) → s.hingeMay p = true → s.paddockReady (s.firstStall p) = true →
    if s.hingeWaits p = true then Ends (.hingePlan p) s fun t => (t.pdkOf p).waitFrom = some (k.waitFrom.getD s.tb) ∧ (t.pdkOf p).plan = none
        ∧ t.waitHost p = true ∧ t.ledger = s.ledger ∧ MemSame s t ∧ RegsKept s t []
    else Ends (.hingePlan p) s fun t => t.ledger = s.ledger ∧ (t.pdkOf p).due = false ∧ (t.pdkOf p).cmds = [] ∧ (t.pdkOf p).planTb = s.tb
        ∧ ∃ x, (t.pdkOf p).plan = some x ∧ x.cmds = k.cmds ∧ (s.noSteps p = true → x.step = [])
          ∧ (x.replay = true ↔ k.running = true ∧ k.replay = true ∧ k.stop = 0)
          ∧ (x.replay = true → x.charges = [] ∧ ∀ r ∈ x.step, r ∈ k.step)
          ∧ (x.replay = false → (x.step.filter fun r => !r.prompt).length ≤ ((s.bandHi p x.roleset).getLast?).getD 0
              ∧ ((x.step.filter fun r => r.prompt).map (·.qrows)).sum ≤ s.chunk p * (s.promptStalls p x.roleset).length))
  ∧ (((s.follower p = true ∧ k.stop = 0) ∨ s.hingeMay p = false ∨ s.paddockReady (s.firstStall p) = false) → exec (.hingePlan p) s = .next s)
  ∧ (k.plan = some pl → (∀ x ∈ s.fns, x.2.flr = false) → Ends (.hingeCommit p) s fun t => (t.pdkOf p).plan = none
      ∧ t.rd Reg.PDK_STEP 0 p = (s.rd Reg.PDK_STEP 0 p + 1) % 2 ^ 64 ∧ t.rd Reg.PDK_HINGE_TB 0 p = s.tb.toNat
      ∧ t.fld Reg.PDK_PG_PEND 0 p = 0 ∧ t.fld Reg.PDK_TIER_PEND 0 p = 0
      ∧ (∀ j, (∀ st ∈ s.pdkStalls p, j < stbKey st 0 ∨ stbKey st stbSize ≤ j) → t.byte j = s.byte j)
      ∧ (∀ j, j ∉ s.slice p → (∀ x ∈ pl.entries, x.1 ≠ j) → t.entryOf j = s.entryOf j)
      ∧ ((pl.entries.map fun x => x.1).Nodup → ∀ x ∈ pl.entries, let e := t.entryOf x.1
          e.state = x.2.2.state ∧ e.pages = x.2.2.pages ∧ e.kvLoc = x.2.2.kvLoc ∧ e.lCommit = x.2.2.lCommit ∧ e.lSpec = x.2.2.lSpec
          ∧ e.tokIn = x.2.2.tokIn ∧ e.tokOut = x.2.2.tokOut ∧ e.replay = x.2.2.replay)
      ∧ ((pl.charges.map fun x => x.1).Nodup → (∀ x ∈ pl.charges, x.1 < 256) → ∀ x ∈ pl.charges, t.rd Reg.TNT_BUDGET 0 x.1 =
          if s.follower p = true then s.rd Reg.TNT_BUDGET 0 x.1 else budgetBits (budget (s.rd Reg.TNT_BUDGET 0 x.1) - x.2))
      ∧ ((t.pdkOf p).running = true → (t.pdkOf p).step = pl.step ∧ pl.step ≠ []
          ∧ ∀ st ∈ t.pdkStalls p, ∃ m, SMap.get t.stepMsgs [] st = SMap.get s.stepMsgs [] st ++ [m]))
  ∧ (k.plan = none → exec (.hingeCommit p) s = .next s)
  ∧ ((s.entryOf ix).copy = some c → c.ready = false → s.paddockReady (s.firstStall (s.entryOf ix).paddock) = true →
      Ends (.kvCopyDone ix) s fun t => (t.entryOf ix).copy = some { c with ready := true } ∧ (∀ j, j ≠ ix.val → t.entryOf j = s.entryOf j))
  ∧ (((s.entryOf ix).copy = none ∨ (s.entryOf ix).copy = some { c with ready := true }
      ∨ ((s.entryOf ix).copy.isSome = true ∧ s.paddockReady (s.firstStall (s.entryOf ix).paddock) = false)) → exec (.kvCopyDone ix) s = .next s)

/-! ### The Dartin link (15_dartin_link.md) -/

/-- A flit with a bad CRC or that the error correction could not repair is answered with a NAK and not kept; the next flit in order is kept for this
device with its number acknowledged; one out of order is discarded without a NAK; a flit whose TTL is spent is dropped. An IDLE flit frees what its
ACK covers and returns credits. A NAK has every flit after its ACK sent again, in order and before any new one; a port sends IDLE flits with its ACK and the credits it owes
(R395 to R397, R400, R403). The model's choices: NAKs and the credits owed travel in IDLE flits, whose SEQ is 0 and whose DST is the port's peer, and
every bad flit is answered with a NAK (notes/assumptions/40.md). -/
def Obligations.LinkReplay : Prop := ∀ (s : State) (k : Port) (f : List Byte) (fec : Bool) (n : Nat), s.awake →
  let q := s.portOf k
  let next := (q.rxSeq + 1) % 65536
  let c := Instr.flitReceive k f fec n
  let good := fec = true ∧ flitGood f = true
  let idle (t : State) (nak : Bool) (b : List BusEvent) : Prop := ∃ g, .flit k g :: b <:+ t.bus ∧ flitGood g = true ∧ fType g = tIdle ∧ fNak g = nak
    ∧ fSrc g = s.did ∧ 1 ≤ fTtl g ∧ fAck g = q.rxSeq % 65536 ∧ ∀ vl, vl < 4 → byteAt g (6 + vl) = min 255 (SMap.get q.owed 0 vl)
  (s.portUp k = false → exec c s = .next s ∧ exec (.nak k) s = .next s ∧ Gives (.idleFlit k) s s)
  ∧ (s.portUp k = true → ¬good → Ends c s fun t => idle t true s.bus ∧ (t.portOf k).rx = q.rx ∧ (t.portOf k).rxSeq = q.rxSeq)
  ∧ (s.portUp k = true → good → fType f ≠ tIdle → fSeq f ≠ next → Ends c s fun t => (t.portOf k).rx = q.rx ∧ (t.portOf k).rxSeq = q.rxSeq
      ∧ t.rd Reg.DRT_PORT_RX 0 k = s.rd Reg.DRT_PORT_RX 0 k)
  ∧ (s.portUp k = true → good → fType f ≠ tIdle → fType f < 12 → fVl f = typeVl (fType f) → fSeq f = next → fDst f = s.did → Ends c s fun t =>
      (t.portOf k).rx = q.rx ++ [f] ∧ (t.portOf k).rxSeq = next ∧ (t.portOf k).lastGood = s.tb
      ∧ t.rd Reg.DRT_PORT_RX 0 k = (s.rd Reg.DRT_PORT_RX 0 k + 1) % 2 ^ 64)
  ∧ (s.portUp k = true → good → fType f ≠ tIdle → fType f < 12 → fVl f = typeVl (fType f) → fSeq f = next → fDst f ≠ s.did → fTtl f ≤ 1 → Ends c s fun t =>
      (t.portOf k).rx = q.rx ∧ (t.portOf k).rxSeq = next ∧ t.flag Reg.DRT_STATUS_TRANSIT_DROP = true)
  ∧ (s.portUp k = true → good → fType f = tIdle → q.tx = [] → s.exp.cur = none → s.exp.queue = [] → Ends c s fun t => MemSame s t
      ∧ (t.portOf k).sent = q.sent.filter (fun x => !seqLe x.1 (fAck f)) ∧ (t.portOf k).rx = q.rx ∧ (t.portOf k).rxSeq = q.rxSeq
      ∧ (fNak f = true → (t.portOf k).nakFrom = some (fAck f))
      ∧ ∀ vl, vl < 4 → t.cred k vl = min (vlCap vl) (s.cred k vl + byteAt f (6 + vl)))
  ∧ (∀ a, s.portUp k = true → q.nakFrom = some a → Ends (.nak k) s fun t => (t.portOf k).nakFrom = none ∧ MemSame s t
      ∧ (∃ l, (t.portOf k).sent = q.sent ++ l ∧ (q.tx = [] → l = []))
      ∧ ∃ new, t.bus = new ++ ((q.sent.filter fun x => !seqLe x.1 a).map fun x => BusEvent.flit k x.2).reverse ++ s.bus ∧ (q.tx = [] → new = []))
  ∧ (s.portUp k = true → Ends (.idleFlit k) s fun t => idle t false s.bus ∧ (t.portOf k).sent = q.sent ∧ (t.portOf k).rx = q.rx ∧ MemSame s t ∧ RegsKept s t [])

/-- A port with sixteen resends or silent for 4 µs goes DOWN, its buffers are discarded and event 0x09 is raised; it trains again at once, after 1 s and
after 10 s; a training that ends with the peer expected brings it up with a PING, with another leaves it DOWN and MISWIRED, and after the last failure
it is FAILED. The loss of the reference clock takes every port DOWN, and its return starts the schedule again; REVERT returns the routes to the ports
that are up (R393, R398, R405, R493). The model's choices: the times of a retrain count from the fall, and a training after start-up that fails counts
as a retry (notes/assumptions/40.md). -/
def Obligations.PortStates : Prop := ∀ (s : State) (k : Port) (t0 : Dword) (peer : BitVec 16), s.awake →
  let q := s.portOf k
  let wait := if q.tries = 0 then 0 else if q.tries = 1 then 10 ^ 9 else 10 ^ 10
  let may := s.portMay k = true
  (if s.portUp k = true ∧ (16 ≤ q.resends ∨ q.lastGood.toNat + 4000 ≤ t0.toNat) then Ends (.portDown k t0) s fun t => t.portState k = pDown
      ∧ t.flag Reg.DRT_PORT_STATUS_DOWN_EV 0 k = true ∧ (t.portOf k).sent = [] ∧ (t.portOf k).tx = [] ∧ (t.portOf k).rx = []
      ∧ (t.flag Reg.FLT_STATUS_DROPPED = false → t.raised 0x09 5 k) ∧ MemSame s t
    else exec (.portDown k t0) s = .next s)
  ∧ (if s.portState k = pDown ∧ may ∧ q.tries < 3 ∧ s.flag Reg.DRT_PORT_STATUS_MISWIRED 0 k = false ∧ q.downTb.toNat + wait ≤ t0.toNat then
      Ends (.portRetrain k t0) s fun t => t.portState k = pTraining ∧ t.portOf k = { q with tries := q.tries + 1 } ∧ MemSame s t
        ∧ t.fld Reg.DRT_PORT_STATUS_RETRAINS 0 k = min (s.fld Reg.DRT_PORT_STATUS_RETRAINS 0 k + 1) 255
        ∧ RegsKept s t [Reg.DRT_PORT_STATUS.key 0 k]
    else exec (.portRetrain k t0) s = .next s)
  ∧ (s.portState k = pTraining → may → peer.toNat = s.peerDid k → Ends (.portTrainDone k true peer) s fun t => t.portUp k = true ∧ MemSame s t
      ∧ t.flag Reg.DRT_PORT_STATUS_MISWIRED 0 k = false ∧ t.fld Reg.DRT_PORT_STATUS_PEER_DID 0 k = peer.toNat
      ∧ t.cred k 0 = 64 ∧ t.cred k 1 = 512 ∧ t.cred k 2 = 256 ∧ t.cred k 3 = 15 ∧ SentFlit s t k tPing peer.toNat fun g => leAt g 24 8 = s.tb.toNat)
  ∧ (s.portState k = pTraining → may → peer.toNat ≠ s.peerDid k → Ends (.portTrainDone k true peer) s fun t => t.portState k = pDown ∧ MemSame s t
      ∧ t.flag Reg.DRT_PORT_STATUS_MISWIRED 0 k = true)
  ∧ (s.portState k = pTraining → may → Ends (.portTrainDone k false peer) s fun t => MemSame s t
      ∧ RegsKept s t [Reg.DRT_PORT_STATUS.key 0 k, Reg.FLT_STATUS.key 0 0, Reg.FLT_DROP_CNT.key 0 0] ∧
      if 3 ≤ q.tries then t.portState k = pFailed ∧ (s.fltQueue.length < 256 → t.raised 0x0A 5 k) else t.portState k = pDown)
  ∧ (Ends .revert s fun t => MemSame s t ∧ RegsKept s t [] ∧ ∀ j, t.portOf j = if s.portUp j = true then { s.portOf j with diverted := false } else s.portOf j)
  ∧ (Ends .refclkDrtLoss s fun t => MemSame s t ∧ t.board = { s.board with refDrt := false } ∧
      ∀ j, j < 8 → t.portState j = if s.portState j = pUp ∨ s.portState j = pTraining then pDown else s.portState j)
  ∧ (Ends .refclkDrtReturn s fun t => MemSame s t ∧ RegsKept s t [] ∧ t.board = { s.board with refDrt := true } ∧
      ∀ j, j < 8 → t.portOf j = if s.portState j = pDown then { s.portOf j with tries := 0, downTb := s.tb } else s.portOf j)

/-- A message of this device leaves its buffer: a PING is answered with a PONG; a ledger command of another device is checked and applied or refused, and
answered with its XTAG, the kept answer coming again for a repeated one; a PONG and a completion are taken (R395, R418). The model's choice: the PONG
carries the TB of its sender (notes/assumptions/60.md). -/
def Obligations.RemoteMessages : Prop := ∀ (s : State) (k : Port) (j : Nat) (f : List Byte) (rest : List (List Byte)), s.awake →
  let src := fSrc f
  let tag := leAt f 16 4
  let cmd := (fPayload f).take 64
  let taken (t : State) : Prop := (t.portOf k).rx = rest
  (s.rxFirst k f rest tPing → s.linkTo src 3 j → Ends (.ping k) s fun t => taken t ∧ MemSame s t ∧ SentFlit s t j tPong src fun g => leAt g 24 8 = s.tb.toNat)
  ∧ (s.rxFirst k f rest tPong → Ends (.pong k) s fun t => taken t ∧ MemSame s t ∧ RegsKept s t [] ∧ t.bus = s.bus)
  ∧ (s.rxFirst k f rest tLedgerCpl → Ends (.ledgerCpl k) s fun t => taken t ∧ MemSame s t ∧ RegsKept s t [] ∧ t.bus = s.bus)
  ∧ (s.rxFirst k f rest tLedgerCmd → s.linkTo src 0 j →
      (∀ c, s.xtags.find? (fun x => x.1 == src && x.2.1 == tag) = some (src, tag, c) → c.length = 16 → Ends (.ledgerCmd k) s fun t => taken t ∧ MemSame s t
        ∧ t.ledger = s.ledger ∧ SentFlit s t j tLedgerCpl src fun g => leAt g 16 4 = tag ∧ (fPayload g).take 16 = c)
      ∧ (∀ code, s.xtags.find? (fun x => x.1 == src && x.2.1 == tag) = none → s.cmdCheck cmd 0 (some src) = some code → Ends (.ledgerCmd k) s fun t =>
        taken t ∧ MemSame s t ∧ t.ledger = s.ledger ∧ t.flag Reg.LDG_STATUS_CMD_REJ = true ∧ (∃ c, (src, tag, c) ∈ t.xtags)
        ∧ ∃ g, .flit j g ∈ t.bus ∧ fType g = tLedgerCpl ∧ fDst g = src ∧ leAt g 16 4 = tag ∧ bits (byteAt g 64) 3 0 = code)
      ∧ (s.xtags.find? (fun x => x.1 == src && x.2.1 == tag) = none → s.cmdCheck cmd 0 (some src) = none → byteAt cmd 0 = 2 →
        Ends (.ledgerCmd k) s fun t => taken t ∧ MemSame s t ∧ (t.entryOf (leAt cmd 4 2)).cancelReq = true ∧ (∃ c, (src, tag, c) ∈ t.xtags)
        ∧ ∃ g, .flit j g ∈ t.bus ∧ fType g = tLedgerCpl ∧ fDst g = src ∧ leAt g 16 4 = tag ∧ bits (byteAt g 64) 3 0 = 0))

/-- A round opens once its trigger latch is released, its descriptor going on in the stall's table: this member's chunk stands in STAGE. Data of another member go to STAGE, late data are only counted.
The lead commits with the votes of all and otherwise only keeps a vote; a member follows the lead's decision; past the deadline the lead aborts the
round, and past twice the deadline a member does and the group is broken. After an abort a round only releases its DONE latch (R407 to R413). A
follower keeps the parts of the lead's plan as they come and applies it with the last: it then stands at the lead's step, or the group has diverged; a
part missing past twice the deadline diverges it too, which breaks the group. A part for no group here is dropped (R415 to R417). The model's choices:
the place of a stall's table is that of the first descriptor opened from it, and an abort of a round that a member has not opened is acted on at once
while a decision of an epoch to come waits (notes/assumptions/41.md); the bytes of the plan's flits (notes/assumptions/42.md). -/
def Obligations.CollectivesAndFollowers : Prop :=
  (∀ (s : State) (st : Stall) (place : BitVec 24) (p : Paddock) (k : Port) (t0 : Dword) (f : List Byte)
     (rest : List (List Byte)) (r : Round), s.awake →
     let x := s.pdkOf p
     let g := s.groupSize p
     let b := s.stbRead st place.toNat 64
     let d := parseColl b
     let me := s.groupRank p
     let mine := s.pdkOfGroup (leAt f 16 2) = some p.val ∧ collEpoch f = s.epochOf p ∧ s.openRound p (collRound f) = some r ∧ collOk g r.desc = true
     let off := leAt f 24 4
     let rank := bits (byteAt f 18) 5 0
     let taken (t : State) : Prop := (t.portOf k).rx = rest
     let dest := (parseColl r.desc).stage + off
     (s.paddockOf st = some p.val → 2 ≤ g → me < g → x.running = true → place.toNat % 64 = 0 → collOk g b = true →
       tableGoesOn g (s.collBase p st) place.toNat b (x.rounds.filter fun y => y.st == st.val) = true → s.latch st d.trig = true →
       Ends (.roundOpen st place) s fun t => (t.pdkOf p).rounds.length = x.rounds.length + 1 ∧
         if (∃ n, x.abandonAt = some n ∧ n ≤ (x.rounds.filter fun y => y.st == st.val).length) then t.latch st d.done = true ∧ MemSame s t
         else MemKept s t (stbKey st (d.stage + me * d.chunk)) d.chunk ∧ ∀ i, i < d.chunk →
           t.byte (stbKey st (d.stage + me * d.chunk + i)) = s.byte (stbKey st ((if d.scatter then d.src + me * d.chunk else d.src) + i)))
     ∧ (s.paddockOf st = none → exec (.roundOpen st place) s = .next s)
     ∧ (s.rxFirst k f rest tCollData → s.pdkOfGroup (leAt f 16 2) = some p.val → s.late p f = true → Ends (.collData k) s fun t => taken t ∧ MemSame s t
         ∧ t.fld Reg.COLL_LATE_CNT_COUNT 0 p = min (s.fld Reg.COLL_LATE_CNT_COUNT 0 p + 1) (2 ^ 32 - 1) ∧ (t.pdkOf p).rounds = x.rounds)
     ∧ (s.rxFirst k f rest tCollData → mine → s.late p f = false → off % 64 = 0 → off + 64 * fLines f ≤ g * (parseColl r.desc).chunk →
         64 * (r.got.length + fLines f) < (g - 1) * (parseColl r.desc).chunk → Ends (.collData k) s fun t => taken t
         ∧ MemKept s t (stbKey r.st dest) (64 * fLines f) ∧ ∀ i, i < 64 * fLines f → some (t.byte (stbKey r.st (dest + i))) = (fPayload f)[i]?)
     ∧ (s.rxFirst k f rest tCollVote → mine → me = 0 → byteAt f 24 = 0 → r.votes.contains rank = false →
         if r.votes.length + 1 = g ∧ s.tb.toNat ≤ r.openTb.toNat + s.roundDeadline p r then
           Ends (.collVote k) s fun t => taken t ∧ RoundCommitted s t p r
         else Ends (.collVote k) s fun t => taken t ∧ MemSame s t ∧ LatchesKept s t ∧ ∃ y ∈ (t.pdkOf p).rounds, y.st = r.st ∧ y.idx = r.idx ∧ rank ∈ y.votes)
     ∧ (s.rxFirst k f rest tCollDecide → mine →
         if byteAt f 24 = 0 then Ends (.collDecide k) s fun t => taken t ∧ RoundCommitted s t p r
         else Ends (.collDecide k) s fun t => taken t ∧ RoundAborted s t p r)
     ∧ (s.rxFirst k f rest tCollDecide → s.pdkOfGroup (leAt f 16 2) = some p.val → s.ahead p f = true → rest = [] → exec (.collDecide k) s = .next s)
     ∧ (s.rxFirst k f rest tCollDecide → s.pdkOfGroup (leAt f 16 2) = some p.val → collEpoch f = s.epochOf p → s.late p f = false →
         s.openRound p (collRound f) = none → Ends (.collDecide k) s fun t => taken t ∧ MemSame s t ∧
           if byteAt f 24 = 0 then t.pdks = s.pdks else t.flag Reg.COLL_STATUS_ABORT 0 p = true ∧ (t.pdkOf p).replay = true
             ∧ ∃ n, (t.pdkOf p).abandonAt = some n ∧ n ≤ collRound f)
     ∧ (g ≠ 0 → me = 0 → x.rounds.find? (fun y => !y.done && decide ((s.atTb t0).tb.toNat > y.openTb.toNat + s.roundDeadline p y)) = some r →
         Ends (.roundDeadline p t0) s fun t => RoundAborted s t p r
           ∧ (s.flag Reg.COLL_STATUS_ABORT 0 p = false → t.fld Reg.COLL_STATUS_REASON 0 p = 1))
     ∧ (g ≠ 0 → me ≠ 0 → (s.atTb t0).overdue p 2 = some r → Ends (.noDecision p t0) s fun t => RoundAborted s t p r
         ∧ t.flag Reg.COLL_STATUS_BROKEN 0 p = true)
     ∧ ((g = 0 ∨ me ≠ 0) → exec (.roundDeadline p t0) s = .next s)
     ∧ ((g = 0 ∨ me = 0) → exec (.noDecision p t0) s = .next s))
  ∧ (∀ (s : State) (k : Port) (p : Paddock) (f : List Byte) (rest : List (List Byte)) (t0 : Dword), s.awake →
     let x := s.pdkOf p
     let g := byteAt (s.sect p) 260
     let all := byteAt f 33
     let parts := SMap.set x.parts [] (byteAt f 32) (fPayload f)
     (s.rxFirst k f rest tHinge → s.pdkOfGroup (leAt f 16 2) = none → Ends (.hinge k) s fun t => (t.portOf k).rx = rest ∧ MemSame s t ∧ RegsKept s t []
         ∧ t.pdks = s.pdks)
     ∧ (s.rxFirst k f rest tHinge → s.pdkOfGroup (leAt f 16 2) = some p.val → s.follower p = true → x.stop = 0 → x.parts.length + 1 < all →
         Ends (.hinge k) s fun t => (t.portOf k).rx = rest ∧ MemSame s t ∧ RegsKept s t [] ∧ t.pdkOf p =
           { x with parts := parts, partsTb := if x.parts.isEmpty then s.tb else x.partsTb })
     ∧ (s.rxFirst k f rest tHinge → s.pdkOfGroup (leAt f 16 2) = some p.val → s.follower p = true → x.stop = 0 → all ≤ parts.length → x.plan = none →
         x.resetTb = none → s.flag Reg.PDK_TACK_WAIT_SHRINK 0 p = false → (x.running = false ∨ s.stepOver p = true ∨ x.abandon = true) →
         s.paddockReady (s.firstStall p) = true → (∀ y ∈ s.fns, y.2.flr = false) → Ends (.hinge k) s fun t => (t.pdkOf p).parts = []
           ∧ (t.flag Reg.COLL_STATUS_DIVERGED 0 p = true ∨ ((t.pdkOf p).plan = none ∧ t.rd Reg.PDK_STEP 0 p = leAt f 24 8)))
     ∧ (if s.follower p = true ∧ x.parts ≠ [] ∧ s.partsWait p = false ∧ x.partsTb.toNat + 2000 * (if g ≠ 0 then g else 20) ≤ t0.toNat then
         Ends (.planPartTimeout p t0) s fun t => (t.pdkOf p).parts = [] ∧ (t.pdkOf p).stop ≠ 0 ∧ t.flag Reg.COLL_STATUS_DIVERGED 0 p = true
           ∧ t.flag Reg.COLL_STATUS_BROKEN 0 p = true ∧ MemSame s t
       else exec (.planPartTimeout p t0) s = .next s))

/-- An import write, once the channels of its paddock take requests, goes to the page that the entry's tables name, and is acknowledged with status 0; one
that fits no entry in import is refused with status 1 and counted. An export takes its descriptor, waits for IMPORT_READY, starts with it, sends a write again that is not acknowledged for 100 µs,
up to 8 times, and ends with its last acknowledgement; a refusal, a loss, a bad descriptor and a missing IMPORT_READY end it with their codes; a push
to a full queue is held (R420, R421). The model's choices: the order in which a write's faults are judged (notes/assumptions/43.md) and its wait for
the channels of the paddock (notes/assumptions/71.md). -/
def Obligations.ImportsAndExports : Prop := ∀ (s w u : State) (k : Port) (j : Nat) (f b : List Byte) (rest : List (List Byte)) (v t0 : Dword) (x : ExpWrite)
  (pg : KvPage) (q c : Nat) (st : Stall) (o : Nat), s.awake →
  let ix := leAt f 16 2
  let e := s.entryOf ix
  let va := leAt f 32 5 % 2 ^ 32 * 64
  let src := fSrc f
  let key := (src, ix, leAt f 24 8)
  let mine := (leAt b 0 2, leAt b 2 2, leAt b 8 8)
  let taken (t : State) : Prop := (t.portOf k).rx = rest
  let ended (t : State) (code : Nat) : Prop := t.exp.cur = none ∧ t.fld Reg.EXP_DONE_CNT_COUNT = (s.fld Reg.EXP_DONE_CNT_COUNT + 1) % 2 ^ 32
    ∧ if code = 0 then t.flag Reg.EXP_STATUS_ERR = s.flag Reg.EXP_STATUS_ERR
      else t.flag Reg.EXP_STATUS_ERR = true ∧ (s.flag Reg.EXP_STATUS_ERR = false → t.fld Reg.EXP_STATUS_CODE = code)
  let status (n : Nat) (g : List Byte) : Prop := leAt g 60 4 = leAt f 40 4 ∧ leAt g 64 4 = n
  let ready : Prop := s.paddockReady (s.firstStall e.paddock) = true
  (s.rxFirst k f rest tImportWr → s.linkTo src 0 j → ready → (e.state ≠ stPrompt ∨ e.imported = false ∨ e.importDone = true ∨ e.hostTag.toNat ≠ leAt f 24 8) →
    Ends (.importWr k) s fun t => taken t ∧ MemSame s t ∧ SentFlit s t j tImportAck src (status 1)
      ∧ t.fld Reg.IMP_REJ_CNT_COUNT = min (s.fld Reg.IMP_REJ_CNT_COUNT + 1) (2 ^ 32 - 1))
  ∧ (s.takeRx k (fun y => fType y == tImportWr && s.paddockReady (s.firstStall (s.entryOf (leAt y 16 2)).paddock)) = some (f, w) → f.length = 256 → w.linkTo src 0 j → ix < 8192 → e.state = stPrompt → e.imported = true →
      e.importDone = false → e.hostTag.toNat = leAt f 24 8 → (s.importSources e.paddock).contains src = true → bits va 29 16 < (e.lPrompt + 63) / 64 →
      w.mmuWalk (s.firstStall e.paddock) (bit e.root 0) (e.root / 64 * 64) va = (u, .ok pg) → bit (byteAt f 37) 0 = false → fLines f = 1 →
      va % 65536 + 64 ≤ 65536 → u.pageLine pg (va % 65536) = .dram q c → u.granuleOpen q (c / 2 ^ 21) = false → c % 64 = 0 →
      Ends (.importWr k) s fun t => MemKept s t (dramKey q c) 64 ∧ (∀ i, i < 64 → some (t.byte (dramKey q c + i)) = (fPayload f)[i]?)
        ∧ t.fld Reg.IMP_REJ_CNT_COUNT = s.fld Reg.IMP_REJ_CNT_COUNT
        ∧ ∃ g, .flit j g ∈ t.bus ∧ fType g = tImportAck ∧ fDst g = src ∧ status 0 g)
  ∧ (s.rxFirst k f rest tImportReady → (s.exp.cur = none ∨ (s.exp.cur = some b ∧ mine ≠ key)) → Ends (.importReady k) s fun t => taken t ∧ MemSame s t
      ∧ t.exp = { s.exp with readies := s.exp.readies ++ [key] })
  ∧ (s.rxFirst k f rest tImportReady → s.exp.cur = some b → mine = key → s.exp.next < expTotal b → s.expRoom (leAt b 0 2) = false →
      Ends (.importReady k) s fun t => taken t ∧ MemSame s t ∧ t.exp = { s.exp with ready := true })
  ∧ (s.rxFirst k f rest tImportAck → s.exp.cur = some b → ix = leAt b 2 2 → leAt f 24 8 = leAt b 8 8 → s.exp.queue = [] → s.exp.writes = [x] → fLines f = 1 →
      leAt (fPayload f) 0 4 = x.wseq → (∀ i, i < 8 → leAt (fPayload f) (8 * i) 4 = x.wseq → leAt (fPayload f) (8 * i + 4) 4 = leAt (fPayload f) 4 4) →
      if leAt (fPayload f) 4 4 ≠ 0 then Ends (.importAck k) s fun t => taken t ∧ MemSame s t ∧ ended t expRefused
      else s.exp.ready = true → expTotal b ≤ s.exp.next → Ends (.importAck k) s fun t => taken t ∧ MemSame s t ∧ ended t 0)
  ∧ (16 ≤ s.exp.queue.length → Gives (.expPush v) s s)
  ∧ (s.exp.queue.length < 16 → s.exp.cur = some b → s.exp.ready = false → Ends (.expPush v) s fun t => MemSame s t
      ∧ t.exp = { s.exp with queue := s.exp.queue ++ [(bit v.toNat 0, bits v.toNat 47 6 * 64)] } ∧ t.fld Reg.EXP_STATUS_QDEPTH = s.exp.queue.length + 1)
  ∧ (s.stallUp st = true → o % 64 = 0 → o + 64 ≤ stbSize → s.exp.cur = none → s.exp.queue = [] → bit v.toNat 0 = false →
      bits v.toNat 47 6 * 64 = 2 ^ 40 + st.val * 2 ^ 24 + o → b = s.stbRead st o 64 → s.exp.readies.contains mine = false →
      Ends (.expPush v) s fun t => MemSame s t ∧ t.exp.queue = [] ∧
        if expDescOk b = true then t.exp.cur = some b ∧ t.exp.ready = false ∧ t.exp.next = 0 ∧ t.exp.tb = s.tb else ended t expBad)
  ∧ (s.exp.cur = some b → s.exp.writes = [x] → s.exp.queue = [] → expTotal b ≤ s.exp.next → x.tb.toNat + 100000 ≤ (s.atTb t0).tb.toNat →
      if 8 ≤ x.resends then Ends (.exportResend t0) s fun t => ended t expLost ∧ MemSame s t
      else s.linkTo (fDst x.body) (fVl x.body) j → s.routePrimary (fDst x.body) = some j → x.body.length = 256 → Ends (.exportResend t0) s fun t => MemSame s t
        ∧ t.exp.writes = [{ x with tb := (s.atTb t0).tb, resends := x.resends + 1 }]
        ∧ ∃ g, t.bus = .flit j g :: s.bus ∧ (g.drop 10).take 242 = (x.body.drop 10).take 242)
  ∧ (s.exp.cur = none → exec (.exportResend t0) s = .next s ∧ exec (.exportReadyTimeout t0) s = .next s)
  ∧ (s.exp.cur = some b → s.exp.queue = [] →
      if s.exp.ready = false ∧ s.exp.tb.toNat + 10 ^ 9 ≤ t0.toNat then Ends (.exportReadyTimeout t0) s fun t => ended t expNoReady ∧ MemSame s t
      else exec (.exportReadyTimeout t0) s = .next s)

/-! ### Tack image, boot, resets and power-down (16_tack_image_and_boot.md, 19_package_and_electrical.md) -/

/-- A cold boot without a good firmware bundle leaves the boot ROM alone; with one it leaves every line of stacks and tier zero and loads the image, or
enters maintenance mode without a key. A device reset, of its cause or of the watchdog, reloads the image, frees every entry and keeps the fault log.
Before the boot, during a power-down and with the boot ROM alone a device reset is ignored, and while VDD_AUX is low no boot starts (R430, R439 to R444,
R446, R499). The model's choices: the boot as one step with the failures its tests find (notes/assumptions/64.md), and what a maintenance mode without
an image holds (notes/assumptions/62.md). -/
def Obligations.BootAndDeviceReset : Prop := ∀ (s : State) (r : BootResults) (b : Bundle) (cause : BitVec 4) (t0 : Dword), s.awake →
  let low := s.flag Reg.SAG_STATUS_AUX_LOW
  let keyless (t : State) : Prop := allZero s.board.keyHash = true →
    t.fld Reg.TACK_STATUS_STATE = 3 ∧ t.fld Reg.TACK_STATUS_MAINT_CAUSE = 1 ∧ ∀ p, p < 16 → t.pdkOn p = false
  let restarted (t : State) (cause : Nat) : Prop := t.fld Reg.RESET_CAUSE_CAUSE = cause ∧ t.fltLog = s.fltLog ∧ t.rd Reg.FLT_HEAD = s.rd Reg.FLT_HEAD
    ∧ t.ledger = [] ∧ t.dma = [] ∧ t.scc = [] ∧ t.dsp = [] ∧ t.pending = s.pending ∧ t.fld Reg.BOOT_STATUS_PHASE = 6 ∧ keyless t
  ((s.board.cold = true ∨ s.board.bootDue = false ∨ low = true) → exec (.coldBoot r) s = .next s)
  ∧ (s.board.cold = false → s.board.bootDue = true → low = false → r.bundle = none → Ends (.coldBoot r) s fun t => MemSame s t ∧ RegsKept s t [Reg.HIF_STATUS.key 0 0]
      ∧ t.board = { s.board with bootDue := false, romOnly := true })
  ∧ (s.board.cold = false → s.board.bootDue = true → low = false → r.bundle = some b → Ends (.coldBoot r) s fun t => (∀ k, k < 2 ^ 42 → t.byte k = 0)
      ∧ t.board.bootDue = false ∧ t.board.romOnly = false ∧ t.rd Reg.TACK_COMPAT = b.fw.toNat + b.uc.toNat * 2 ^ 32
      ∧ t.fld Reg.BOOT_STATUS_PHASE = 6 ∧ keyless t)
  ∧ (cause = 5 ∨ cause = 6 ∨ cause = 7 →
      if s.booted = true ∧ s.board.downTb = none ∧ s.board.romOnly = false then Ends (.deviceReset cause) s fun t => restarted t cause.toNat ∧ t.tb = s.tb
      else Gives (.deviceReset cause) s s)
  ∧ (cause ≠ 5 → cause ≠ 6 → cause ≠ 7 → exec (.deviceReset cause) s = .next s)
  ∧ (s.booted = true → s.board.downTb = none → s.board.romOnly = false → Ends (.ostlerWatchdog t0) s fun t => restarted t 6)

/-- A paddock reset resets every stall of the paddock, drops its plan and marks a step in progress for replay; memory contents stay. 200 SCLK later the
self-test starts the cores at their reset PC and enters a failing stall in the map-out list. A reset of a stall in no paddock resets that stall alone;
in a paddock it resets the paddock; a mapped-out stall accepts nothing (R435, R443 to R445, R474). -/
def Obligations.PaddockAndStallReset : Prop := ∀ (s : State) (p : Paddock) (st : Stall) (failed : BitVec 16), s.awake →
  let k := s.pdkOf p
  let clean (t : State) (x : Nat) : Prop := t.sccOf x = {} ∧ t.dspOf x = {} ∧ ∀ l, l < 256 → t.latch x l = false
  let resetting (t : State) : Prop := (t.pdkOf p).resetTb = some s.tb ∧ (t.pdkOf p).plan = none ∧ (t.pdkOf p).replay = k.running ∧ MemSame s t
    ∧ t.fld Reg.RESET_CAUSE_PDK_RESETS = min (s.fld Reg.RESET_CAUSE_PDK_RESETS + 1) (2 ^ 16 - 1)
    ∧ ∀ x ∈ s.pdkStalls p, clean t x ∧ bit (t.rd Reg.RESET_PEND) x = true
  (if s.pdkOn p = true ∧ k.resetTb = none then Ends (.paddockReset p) s resetting else Gives (.paddockReset p) s s)
  ∧ (k.resetTb ≠ none → k.heldCmd = 0 → Ends (.quickSelfTest p failed) s fun t => (t.pdkOf p).resetTb = none ∧ MemSame s t
      ∧ (∀ x ∈ s.pdkStalls p, bit (t.rd Reg.RESET_PEND) x = false)
      ∧ (∀ x ∈ s.pdkStalls p, bit failed.toNat x = true → s.sagNow = false → (1, x) ∈ t.mapList ∧ t.paddockOf x = none)
      ∧ (failed = 0 → (t.pdkOf p).due = true ∧ ∀ x ∈ s.pdkStalls p, s.stallUp x = true → s.flag Reg.SCC_STATUS_RUNNING x = false →
          (s.sccOf x).halting = false → t.flag Reg.SCC_CTRL_RUN x = true ∧ t.flag Reg.SCC_STATUS_RUNNING x = true ∧ t.sup x = s.sup x
            ∧ (t.sccOf x).pc = BitVec.ofNat 64 (4 * s.fld Reg.SCC_RESET_PC_PC x)))
  ∧ (k.resetTb = none → exec (.quickSelfTest p failed) s = .next s)
  ∧ (s.stallUp st = false → Gives (.stallReset st) s s)
  ∧ (s.stallUp st = true → s.paddockOf st = none → Ends (.stallReset st) s fun t => clean t st ∧ MemSame s t
      ∧ ∀ x, x ≠ st.val → t.sccOf x = s.sccOf x ∧ t.dspOf x = s.dspOf x)
  ∧ (s.stallUp st = true → s.paddockOf st = some p.val → s.pdkOn p = true → k.resetTb = none → Ends (.stallReset st) s resetting)

/-- A tack command that is not accepted, or whose staged bytes are bad, sets CMD_ERR with its cause and changes nothing else, but that LOAD_PADDOCK of a
paddock whose slice is not all FREE also shows BUSY in PDK_TACK. One whose staged bytes lie in channels that take no requests waits. LOAD_IMAGE loads a
good image, in maintenance mode of cause NO_KEY or MINSET without leaving it; LOAD_PADDOCK builds a good section and UNLOAD_PADDOCK ends a paddock;
FLASH_WRITE erases its slot and writes the staged bytes, and with none changes nothing, FLASH_READ copies flash to the staged bytes unless VDD_AUX is
low; SLOT_SELECT writes the older copy of the directory, MAPLIST_CLEAR, KEY_PROG and SHRINK_DONE do what they name; whether the fuses of KEY_PROG read
back as staged is the part's (R6, R426, R430, R433, R435 to R438, R499). The model's choices: CMD_ERR after the checks of LOAD_IMAGE and the order of its
causes (notes/assumptions/45.md), the causes of LOAD_PADDOCK (notes/assumptions/46.md), the flash commands in a sag (notes/assumptions/47.md) and the
free outcome of KEY_PROG (notes/assumptions/57.md). -/
def Obligations.TackCommands : Prop := ∀ (s w : State) (l : List Byte) (m : TackImage) (x : TackSect) (live : List Nat) (slots : List SlotUse) (st : Stall)
  (off : Nat), s.awake →
  let p := s.fld Reg.TACK_CMD_PADDOCK
  let slot := bits (s.fld Reg.TACK_CMD_TACK_ARG) 0 0
  let region := bits (s.fld Reg.TACK_CMD_TACK_ARG) 3 1
  let held := s.pdkOn p = true ∧ (s.pdkOf p).resetTb ≠ none
  let o := 64 * s.fld Reg.TACK_FLASH_OFS_OFFSET
  let n := s.stageLen
  let fails (c : Instr) (cause : Nat) : Prop := Ends c s fun t => TackFailed s t cause
  let wrong (t : State) (cause : Nat) : Prop := t.flag Reg.TACK_CMD_STATUS_CMD_ERR = true ∧ t.fld Reg.TACK_CMD_STATUS_CMD_CAUSE = cause
  (s.booted = false → (∀ c ∈ [Instr.unloadPaddock, .slotSelect, .maplistClear, .shrinkDone], Gives c s s)
    ∧ (s.stageReady false = true → ∀ c ∈ [Instr.loadImage, .loadPaddock, .flashWrite, .keyProg], Gives c s s)
    ∧ (s.stageReady true = true → Gives .flashRead s s))
  ∧ (s.stageReady false = false → ∀ c ∈ [Instr.loadImage, .loadPaddock, .flashWrite, .keyProg], exec c s = .next s)
  ∧ (s.stageReady true = false → exec .flashRead s = .next s)
  ∧ (s.booted = true →
    (s.stageReady false = true → if s.board.romOnly = true ∨ (s.maintenance = false ∧ ∃ e ∈ s.ledger, e.2.state ≠ stFree) then fails .loadImage 1
      else (s.staged = none → fails .loadImage 2)
        ∧ (s.staged = some (w, l) → parseImage l = none → Ends .loadImage s fun t => wrong t 3 ∧ t.tackPdk = s.tackPdk)
        ∧ (s.staged = some (w, l) → parseImage l = some m → m.authentic w.board.keyHash = true →
          if w.deviceStage m = 0 ∧ w.minSet m.device.body = true then Ends .loadImage s fun t => TackDone t ∧ t.fld Reg.BOOT_STATUS_PHASE = 6
            ∧ t.fld Reg.TACK_STATUS_STATE = if w.maintenance = true ∧ (w.fld Reg.TACK_STATUS_MAINT_CAUSE = 1 ∨ w.fld Reg.TACK_STATUS_MAINT_CAUSE = 6) then 3 else 2
          else Ends .loadImage s fun t => wrong t 4 ∧ t.tackPdk = s.tackPdk))
    ∧ (s.stageReady false = true → ¬held → if s.startup = true then fails .loadPaddock 1
      else if s.pdkOn p = true ∧ s.allFree p = false then Ends .loadPaddock s fun t => wrong t 1 ∧ t.fld Reg.PDK_TACK_CAUSE 0 p = 12
        ∧ MemSame s t ∧ RegsKept s t [Reg.TACK_CMD_STATUS.key 0 0, Reg.PDK_TACK.key 0 p, Reg.FLT_STATUS.key 0 0, Reg.FLT_DROP_CNT.key 0 0]
        ∧ t.ledger = s.ledger ∧ t.tackPdk = s.tackPdk ∧ t.pdks = s.pdks
      else (s.staged = none → fails .loadPaddock 2)
        ∧ (s.staged = some (w, l) → parseSect l = some (x, []) → x.kind = 3 → (w.coverSect x).sectCause x = 0 → (w.coverSect x).shrunk x.body = some (live, slots) →
          Ends .loadPaddock s fun t => TackDone t ∧ t.sect x.pdk = x.body ∧ ∀ y ∈ live, t.paddockOf y = some x.pdk)
        ∧ (s.staged = some (w, l) → parseSect l = some (x, []) → x.kind = 3 → (w.coverSect x).sectCause x ≠ 0 →
          Ends .loadPaddock s fun t => wrong t (if (w.coverSect x).sectCause x = 1 then 3 else 4) ∧ t.tackPdk = s.tackPdk))
    ∧ (if s.pdkOn p = true ∧ s.allFree p = true then Ends .unloadPaddock s fun t => TackDone t ∧ t.pdkOn p = false
          ∧ ∀ y ∈ s.pdkStalls p, t.paddockOf y = none
      else fails .unloadPaddock 1)
    ∧ (s.stageReady false = true → if 1 < region ∨ (s.board.romOnly = true ∧ region ≠ 0) then fails .flashWrite 1
      else (s.staged = none → fails .flashWrite 2)
        ∧ (s.staged = some (w, l) → l = [] → Ends .flashWrite s fun t => TackDone t ∧ MemSame s t ∧ t.board = w.board)
        ∧ (s.staged = some (w, l) → l ≠ [] → l.length ≤ slotSize region → s.sagNow = true → Ends .flashWrite s fun t => wrong t 5 ∧ MemSame s t)
        ∧ (s.staged = some (w, l) → l ≠ [] → l.length ≤ slotSize region → s.sagNow = false → Ends .flashWrite s fun t => TackDone t
          ∧ MemKept s t (flashKey (slotBase region slot)) (slotSize region) ∧ t.bytes (flashKey (slotBase region slot)) l.length = l
          ∧ ∀ i, l.length ≤ i → i < slotSize region → t.byte (flashKey (slotBase region slot + i)) = 0xFF))
    ∧ (if 1 < region ∨ s.board.romOnly = true then fails .slotSelect 1
      else if s.sagNow = true then fails .slotSelect 5
      else Ends .slotSelect s fun t => TackDone t ∧ MemSame s t ∧ (t.board = { s.board with dirA := t.dir } ∨ t.board = { s.board with dirB := t.dir })
        ∧ t.dir = if region = 0 then { s.dir with seq := s.dir.seq + 1, fw := slot } else { s.dir with seq := s.dir.seq + 1, tack := slot })
    ∧ (if s.maintenance = false then fails .maplistClear 1
      else if s.sagNow = true then fails .maplistClear 5
      else Ends .maplistClear s fun t => TackDone t ∧ MemSame s t ∧ t.mapList = [] ∧ t.mapRetry = [])
    ∧ (s.stageReady false = true → if s.maintenance = false ∨ allZero s.board.keyHash = false then fails .keyProg 1
      else (n ≠ 48 → fails .keyProg 2)
        ∧ (n = 48 → s.staged = some (w, l) → allZero l = false →
          if w.freeBit = true then Ends .keyProg s fun t => wrong t 6 ∧ MemSame s t ∧ t.board = { s.board with keyHash := t.board.keyHash }
          else Ends .keyProg s fun t => TackDone t ∧ MemSame s t ∧ t.board = { s.board with keyHash := l })
        ∧ (n = 48 → s.staged = some (w, l) → allZero l = true → Ends .keyProg s fun t => wrong t 2 ∧ t.board = s.board))
    ∧ (if s.flag Reg.PDK_TACK_WAIT_SHRINK 0 p = false then fails .shrinkDone 1
      else Ends .shrinkDone s fun t => TackDone t ∧ MemSame s t ∧ t.flag Reg.PDK_TACK_WAIT_SHRINK 0 p = false ∧ (t.pdkOf p).due = true)
    ∧ (s.stageReady true = true → if s.board.romOnly = true then fails .flashRead 1
      else if n % 64 ≠ 0 ∨ 2 ^ 26 < o + n ∨ 2 ^ 24 < n then fails .flashRead 2
      else if s.flag Reg.SAG_STATUS_AUX_LOW = true then fails .flashRead 5
      else s.stallUp st = true → s.stageView = false → s.stageAddr = 2 ^ 40 + st.val * 2 ^ 24 + off → off + n ≤ stbSize →
        Ends .flashRead s fun t => TackDone t ∧ MemKept s t (stbKey st off) n ∧ ∀ i, i < n → 0x10000 ≤ o + i →
          (o + i < 0x3810000 ∨ 0x3910000 ≤ o + i) → t.byte (stbKey st (off + i)) = s.byte (flashKey (o + i))))

/-- An orderly power-down closes every paddock; while a step runs it waits, at most 2 ms, after which the steps are abandoned; with nothing running it
sets POWERDOWN_READY, after which nothing but a cold reset changes the device. The board controller asks for it with code 0x30 and 0xA5 alone, at the
address of the straps; a write to another address or of another code gets no answer (R446, R496, R497). That a write of a code that is only read gets
none is the model's choice (notes/assumptions/61.md). -/
def Obligations.PowerDown : Prop := ∀ (s : State) (p : Paddock) (d t0 : Dword) (w : SmbWrite), s.awake → s.booted = true →
  let busy := (s.pdkOf p).running = true
  let idle := (∀ x ∈ s.pdks, x.2.running = false) ∧ (∀ st, st < 16 → s.flag Reg.SCC_STATUS_RUNNING st = false) ∧ s.dma = [] ∧ s.board.persist = []
  let closed (t : State) : Prop := ∀ q, q < 16 → s.pdkOn q = true → s.fld Reg.PDK_STATUS_STATE 0 q ≠ 3 → t.flag Reg.PDK_CTRL_OPEN 0 q = false
  let ready (t : State) : Prop := t.shut = true ∧ t.board.pdReadyLow = true ∧ t.board.downTb = none
  let taken := s.smbFor w.addr = true ∧ w.code = 0x30
  (∀ c ∈ [Instr.powerdown, .smbPowerdownRequest w], (c = .powerdown ∨ (taken ∧ w.data = 0xA5)) → s.board.downTb = none →
    (busy → Ends c s fun t => closed t ∧ t.board.downTb = some s.tb ∧ t.shut = false) ∧ (idle → Ends c s fun t => closed t ∧ ready t))
  ∧ (taken → w.data ≠ 0xA5 → exec (.smbPowerdownRequest w) s = .next s)
  ∧ (¬taken → exec (.smbPowerdownRequest w) s = .next (s.emit .smbNoResponse))
  ∧ (s.board.downTb = some d → if d.toNat + 2000000 ≤ t0.toNat then
      Ends (.powerdownStepTimeout t0) s fun t => ∀ q, q < 16 → (t.pdkOf q).running = false
    else exec (.powerdownStepTimeout t0) s = .next s)
  ∧ (s.board.downTb = none → exec (.powerdownStepTimeout t0) s = .next s)

/-! ### Power, supply and the fault log (17_reliability_power_thermal.md) -/

/-- A power evaluation shows its average and adds its energy; it raises the cap level by one while both averages lie over the limit, and lowers it by one
after ten evaluations in a row below 95 % of it; the fast limit raises it to 4. LIMIT takes a value from 200 W to the package limit. A rail shows its
voltage and current after the two commands of its poll; a silent regulator, in either poll, raises event 0x14 once, and each rail in alarm raises it. A
droop trip is counted (R462 to R464, R471, R498). The model's choice: a STATUS_WORD that is not zero is cleared at its regulator once it is logged
(notes/assumptions/61.md). -/
def Obligations.PowerAndRails : Prop := ∀ (s : State) (avg last : BitVec 16) (v : BitVec 12) (rail : Fin 9) (mv cur : BitVec 16)
  (words : List (Option (BitVec 16)))
  (i : Fin 25), s.awake →
  let lim := s.powerLimit
  let lvl := s.fld Reg.PWR_STATUS_LEVEL
  let high := lim < avg.toNat ∧ lim < last.toNat
  let low := avg.toNat * 100 < lim * 95 ∧ last.toNat * 100 < lim * 95
  let asked := BusEvent.pmbus (0x40 + rail.val) .readIout :: .pmbus (0x40 + rail.val) .readVout :: s.bus
  let fitted := if i.val < 16 then i.val < s.nStall else (i.val = 16 ∨ i.val - 17 < s.nStack)
  (Ends (.powerEval avg last) s fun t => MemSame s t ∧ t.fld Reg.PWR_STATUS_AVG = avg.toNat ∧ t.board.energy = s.board.energy + last.toNat
    ∧ t.rd Reg.PWR_ENERGY = (s.board.energy + last.toNat) / 20 % 2 ^ 64
    ∧ (s.flag Reg.THERM_STATUS_TRIP = true → t.fld Reg.PWR_STATUS_LEVEL = lvl)
    ∧ (s.flag Reg.THERM_STATUS_TRIP = false →
        (high → lvl < 4 → t.fld Reg.PWR_STATUS_LEVEL = lvl + 1)
        ∧ (¬high → ¬(low ∧ 10 ≤ s.board.calm + 1) → t.fld Reg.PWR_STATUS_LEVEL = lvl)
        ∧ (low → 10 ≤ s.board.calm + 1 → t.fld Reg.PWR_STATUS_LEVEL = lvl - 1)))
  ∧ (Ends .fastLimit s fun t => MemSame s t ∧ t.flag Reg.PWR_STATUS_FAST = true ∧ t.fld Reg.PWR_STATUS_LEVEL = max 4 lvl
      ∧ (lvl < 4 → t.fld Reg.PWR_CAP_CNT_COUNT = min (s.fld Reg.PWR_CAP_CNT_COUNT + 1) (2 ^ 32 - 1)))
  ∧ (if 200 ≤ v.toNat ∧ v.toNat ≤ s.board.pwrLimit then Ends (.pwrLimitWrite v) s fun t => t.fld Reg.PWR_CTRL_LIMIT = v.toNat ∧ MemSame s t
      ∧ RegsKept s t [Reg.PWR_CTRL.key 0 0] else Gives (.pwrLimitWrite v) s s)
  ∧ (Ends (.pmbusPoll rail (some (mv, cur))) s fun t => t.fld Reg.RAIL_MV 0 rail = mv.toNat ∧ t.fld Reg.RAIL_CURR 0 rail = cur.toNat ∧ MemSame s t
      ∧ RegsKept s t [Reg.RAIL.key 0 rail] ∧ t.bus = asked)
  ∧ (Ends (.pmbusPoll rail none) s fun t => MemSame s t ∧ t.bus = asked ∧ if s.board.silentRails.contains rail.val = true then
        t.board = s.board ∧ t.fltQueue = s.fltQueue ∧ RegsKept s t []
      else rail.val ∈ t.board.silentRails ∧ (s.fltQueue.length < 256 → t.raised 0x14 8 rail)
        ∧ RegsKept s t [Reg.FLT_STATUS.key 0 0, Reg.FLT_DROP_CNT.key 0 0])
  ∧ (Ends (.pmbAlert words) s fun t => MemSame s t ∧ RegsKept s t [Reg.FLT_STATUS.key 0 0, Reg.FLT_DROP_CNT.key 0 0]
      ∧ (∀ r, r < 9 → .pmbus (0x40 + r) .statusWord ∈ t.bus)
      ∧ (∀ r w, r < 9 → words[r]? = some (some w) → w ≠ 0 → .pmbus (0x40 + r) .clearFaults ∈ t.bus
          ∧ (s.fltQueue.length ≤ 247 → ∃ e ∈ t.fltQueue, e.code = 0x14 ∧ e.kind = 8 ∧ e.index = r ∧ e.detail.toNat = w.toNat))
      ∧ (∀ r, r < 9 → (words[r]?).getD none = none → r ∈ t.board.silentRails
          ∧ (s.fltQueue.length ≤ 247 → r ∉ s.board.silentRails → t.raised 0x14 8 r)))
  ∧ ((∀ r, r < 9 → words[r]? = some (some 0)) → Ends (.pmbAlert words) s fun t => t.board = s.board ∧ t.fltQueue = s.fltQueue ∧ MemSame s t
      ∧ RegsKept s t [])
  ∧ ((fitted → Ends (.droopTrip i) s fun t => t.fld Reg.DROOP_CNT_COUNT 0 i = min (s.fld Reg.DROOP_CNT_COUNT 0 i + 1) (2 ^ 32 - 1) ∧ MemSame s t
      ∧ RegsKept s t [Reg.DROOP_CNT.key 0 i]) ∧ (¬fitted → exec (.droopTrip i) s = .next s))

/-- The oldest event is appended to the log at its head and, while the persistent copy has room, kept for it; in a full log it is dropped and counted. A
write of FLT_TAIL between tail and head frees entries, any other sets TAIL_BAD. A page of eight entries that is full, or one 100 ms old, or what waits
1 ms after THERMTRIP_N fell, is programmed after the entries of this boot, and no further than its page. A supply sag abandons flash writes, and the
entries then waiting are never copied; when it clears, list entries are written again (R451 to R455, R469, R494). -/
def Obligations.FaultLogAndSag : Prop := ∀ (s : State) (e : FltEvent) (rest : List FltEvent) (v : Word) (t0 : Dword) (aux bod : Bool), s.awake →
  let copy := decide (s.persistUsed < 256) && !s.flag Reg.FLT_STATUS_PERSIST_DONE
  let n := s.fld Reg.FLT_PERSIST_CNT_COUNT
  let page := s.board.persist.take (8 - n % 8)
  let key := flashKey (s.bootRecord + 4096 + 32 * n)
  (s.fltQueue = [] → exec .faultAppend s = .next s)
  ∧ (s.fltQueue = e :: rest →
      if s.fltUsed < 1024 then Ends .faultAppend s fun t => t.fltQueue = rest ∧ SMap.get t.fltLog [] (s.rd Reg.FLT_HEAD % 1024) = e.bytes copy
        ∧ t.fld Reg.FLT_HEAD_COUNT = (s.fld Reg.FLT_HEAD_COUNT + 1) % 2 ^ 32 ∧ t.flag Reg.FLT_STATUS_NEW = true
        ∧ t.flag Reg.FLT_STATUS_FULL = decide (s.fltUsed + 1 = 1024) ∧ t.board.persist = s.board.persist ++ (if copy then [e.bytes copy] else []) ∧ MemSame s t
        ∧ RegsKept s t [Reg.FLT_HEAD.key 0 0, Reg.FLT_STATUS.key 0 0]
      else Ends .faultAppend s fun t => t.fltQueue = rest ∧ t.fltLog = s.fltLog ∧ t.flag Reg.FLT_STATUS_DROPPED = true ∧ MemSame s t
        ∧ t.fld Reg.FLT_DROP_CNT_COUNT = min (s.fld Reg.FLT_DROP_CNT_COUNT + 1) (2 ^ 32 - 1)
        ∧ RegsKept s t [Reg.FLT_DROP_CNT.key 0 0, Reg.FLT_STATUS.key 0 0])
  ∧ (if (v - BitVec.ofNat 32 (s.rd Reg.FLT_TAIL)).toNat ≤ s.fltUsed then Ends (.fltTailWrite v) s fun t => t.rd Reg.FLT_TAIL = v.toNat ∧ MemSame s t
        ∧ t.fltLog = s.fltLog ∧ t.flag Reg.FLT_STATUS_FULL = decide ((BitVec.ofNat 32 (s.rd Reg.FLT_HEAD) - v).toNat = 1024)
        ∧ RegsKept s t [Reg.FLT_TAIL.key 0 0, Reg.FLT_STATUS.key 0 0]
      else Ends (.fltTailWrite v) s fun t => t.flag Reg.FLT_STATUS_TAIL_BAD = true ∧ MemSame s t ∧ RegsKept s t [Reg.FLT_STATUS.key 0 0])
  ∧ (if s.sagNow = false ∧ s.board.persist ≠ [] ∧ (8 - n % 8 ≤ s.board.persist.length ∨ s.board.persistTb.toNat + 100000000 ≤ t0.toNat
        ∨ (s.board.tripLow = true ∧ s.board.tripTb.toNat + 1000000 ≤ t0.toNat)) then
      Ends (.persistPageProgram t0) s fun t => t.bytes key page.flatten.length = page.flatten ∧ MemKept s t key page.flatten.length
        ∧ t.board.persist = s.board.persist.drop (8 - n % 8) ∧ t.fld Reg.FLT_PERSIST_CNT_COUNT = (n + page.length) % 2 ^ 9
        ∧ (256 ≤ n + page.length + s.board.persistGone → t.flag Reg.FLT_STATUS_PERSIST_DONE = true)
    else exec (.persistPageProgram t0) s = .next s)
  ∧ (if aux || bod then Ends (.supplySag aux bod) s fun t => t.board.persist = [] ∧ MemSame s t
        ∧ t.board.persistGone = s.board.persistGone + s.board.persist.length
        ∧ t.flag Reg.SAG_STATUS_AUX_LOW = (s.flag Reg.SAG_STATUS_AUX_LOW || aux) ∧ t.flag Reg.SAG_STATUS_BOD = (s.flag Reg.SAG_STATUS_BOD || bod)
        ∧ t.flag Reg.SAG_STATUS_SAG_EV = true ∧ t.flag Reg.SAG_STATUS_FLASH_ABANDON = true
        ∧ (s.fltQueue.length < 256 → t.raised 0x13 0 0) ∧ (s.board.persist ≠ [] → t.flag Reg.FLT_STATUS_PERSIST_CUT = true)
    else exec (.supplySag aux bod) s = .next s)
  ∧ (Ends .sagClear s fun t => t.sagNow = false ∧ (∀ x ∈ s.mapRetry, x ∈ t.mapList) ∧ (∀ x ∈ s.mapList, x ∈ t.mapList) ∧ t.mapRetry = []
      ∧ t.repairTable = s.repairTable ++ s.repairRetry ∧ t.repairRetry = [] ∧ MemSame s t ∧ RegsKept s t [Reg.SAG_STATUS.key 0 0])

/-! ### Pins, SMBus and JTAG (19_package_and_electrical.md) -/

/-- The loss of power-good, PERST# or the loss of the PCIe clock under power-good is a cold reset: everything is at its reset value but flash, fuses and
host memory, and a boot is owed. Cold reset ends when power-good is high, PERST# released and the clock running; the timebase then starts at 0 and
GPIO[2:0], whatever their levels, set the SMBus address (R443, R444, R489, R490, R493, R496). That each sample of an input takes a free value is the model's
choice (notes/assumptions/61.md). -/
def Obligations.ColdResetPins : Prop := ∀ s : State,
  let b := s.board
  let cold (t : State) (cause : Nat) : Prop := t.board.cold = true ∧ t.board.bootDue = true ∧ t.fld Reg.RESET_CAUSE_CAUSE = cause ∧ t.ledger = []
    ∧ t.fltLog = [] ∧ t.tackPdk = [] ∧ t.scc = [] ∧ t.dma = [] ∧ t.mapList = s.mapList ∧ t.board.keyHash = b.keyHash ∧ t.pending = s.pending
    ∧ ∀ k, 2 ^ 46 ≤ k → t.byte k = s.byte k
  let waits (t : State) (on : Bool) : Prop := MemSame s t ∧ RegsKept s t [] ∧
    if b.cold = true ∧ on = true then t.board.cold = false ∧ t.tb = 0 ∧ (∃ gpio, gpio < 8 ∧ t.board.smbAddr = 0x58 + gpio) else t.board.cold = b.cold ∧ t.tb = s.tb
  (Ends .pwrgdRise s fun t => t.board.pwrgd = true ∧ waits t (!b.perst && b.refPcie))
  ∧ (Ends .perstDeassert s fun t => t.board.perst = false ∧ waits t (b.pwrgd && b.refPcie))
  ∧ (Ends .refclkPcieReturn s fun t => t.board.refPcie = true ∧ waits t (b.pwrgd && !b.perst))
  ∧ (if b.pwrgd = true then Ends .pwrgdFall s fun t => cold t 1 ∧ t.board.pwrgd = false ∧ t.board.tripLow = false ∧ t.board.pdReadyLow = false
      else exec .pwrgdFall s = .next s)
  ∧ (b.perst = true → exec .perstAssert s = .next s)
  ∧ (b.perst = false → Ends .perstAssert s fun t => t.board.perst = true ∧ (b.pwrgd = true → cold t 2) ∧ (b.pwrgd = false → MemSame s t ∧ RegsKept s t []))
  ∧ (Ends .refclkPcieLoss s fun t => t.board.refPcie = false ∧ (b.pwrgd = true → cold t 1) ∧ (b.pwrgd = false → MemSame s t ∧ RegsKept s t []))

/-- Every SMBus read answers its value from 0.4 ms after the release of cold reset, and nothing before that; no read changes anything else. While TRST#
is low no register shifts. Else IDCODE answers the part and its revision and BYPASS a zero; in cold reset with power-good and PERST# the boundary register
shifts, SAMPLE_PRELOAD and EXTEST load it, EXTEST puts it on the pins, and EXTEST_PULSE and EXTEST_TRAIN pulse the lanes with what it held; at any other
time the TAP bypasses (R496, R497, R500). The model's choices: the levels of the GPIO pins, as of any input, are free values, TRST# comes with the two scans
that load the register, and that register's width (notes/assumptions/61.md). -/
def Obligations.SmbusAndJtag : Prop := ∀ (s : State) (x : TapScan),
  let reads (c : Instr) (v n : Nat) : Prop := exec c s = .next (s.emit (if s.smbUp = true then .smbData (leBytes v n) else .smbNoResponse))
  let level := s.fld Reg.PWR_STATUS_LEVEL
  let may (trst : Bool) := trst = false ∧ s.board.cold = true ∧ s.board.pwrgd = true ∧ s.board.perst = true
  let bypass (trst : Bool) (t : State) : Prop := t.bus = if trst = true then s.bus else .jtagData 0 :: s.bus
  reads .smbReadDevIdHi 0x7101 2
  ∧ reads .smbReadDevIdStep ((if s.part.x8 then 0x10 else 0x20) + (if s.part.b0 then 1 else 0)) 1
  ∧ (∃ v, reads .smbReadStackTemp v 1 ∧ (∀ k, k < 8 → s.fld Reg.STK_TEMP_TEMP 0 k ≤ v) ∧ ∃ k, k < 8 ∧ s.fld Reg.STK_TEMP_TEMP 0 k = v)
  ∧ (∃ v, reads .smbReadStallTemp v 1 ∧ (∀ k, k < 16 → s.fld Reg.STL_TEMP_TEMP 0 k ≤ v) ∧ ∃ k, k < 16 ∧ s.fld Reg.STL_TEMP_TEMP 0 k = v)
  ∧ reads .smbReadPower (s.fld Reg.PWR_STATUS_AVG) 2
  ∧ (∃ v, reads .smbReadStatus v 1 ∧ bit v 0 = s.flag Reg.THERM_STATUS_TRIP ∧ bit v 1 = s.throttleLow ∧ bits v 4 2 = level ∧ bit v 5 = s.shut
      ∧ bit v 6 = s.maintenance)
  ∧ (Ends .smbReadGpio s fun t => (∃ v, v < 16 ∧ t.bus = (if s.smbUp = true then .smbData (leBytes v 1) else .smbNoResponse) :: s.bus)
      ∧ t.board = s.board ∧ MemSame s t ∧ RegsKept s t [])
  ∧ (if s.board.trst = true then ∀ c ∈ [Instr.idcode, .bypass, .extestPulse, .extestTrain], exec c s = .next s
    else exec .idcode s = .next (s.emit (.jtagData ((if s.part.b0 then 1 else 0) * 2 ^ 28 + 0x7101 * 2 ^ 12 + 0x3B5 * 2 + 1)))
      ∧ exec .bypass s = .next (s.emit (.jtagData 0)))
  ∧ (∀ c ∈ [(Instr.samplePreload x, []), (.extest x, [BusEvent.boundary .extest x.data])],
      Ends c.1 s fun t => MemSame s t ∧ RegsKept s t [] ∧
        if may x.trst then t.board = { s.board with trst := x.trst, bsr := x.data } ∧ ∃ v, t.bus = c.2 ++ .jtagData v :: s.bus
        else t.board = { s.board with trst := x.trst } ∧ bypass x.trst t)
  ∧ (∀ c ∈ [(Instr.extestPulse, BoundaryScan.pulse), (.extestTrain, .train)],
      Ends c.1 s fun t => MemSame s t ∧ RegsKept s t [] ∧
        if may s.board.trst then (∃ w, t.board = { s.board with bsr := w }) ∧ ∃ v, t.bus = .boundary c.2 s.board.bsr :: .jtagData v :: s.bus
        else t.board = s.board ∧ bypass s.board.trst t)
end

