-- ==== Sys2Proof/Laws/Bits.lean ====
section
/-! SUPPORT. Laws of the bit fields of a number: what a field or a bit reads after a field is replaced. -/
namespace Sys2Proof.Machine

theorem bit_eq_testBit (v i : Nat) : bit v i = v.testBit i := by
  rw [Nat.testBit_eq_decide_div_mod_eq]; unfold bit
  by_cases h : v / 2 ^ i % 2 = 1 <;> simp [h]

/-- A field replaced, as a sum of the part above, the new field and the part below. -/
theorem putBits_eq (v hi lo x : Nat) :
    putBits v hi lo x = 2 ^ lo * (2 ^ (hi + 1 - lo) * (v / 2 ^ lo / 2 ^ (hi + 1 - lo)) + x % 2 ^ (hi + 1 - lo)) + v % 2 ^ lo := by
  unfold putBits bits
  have h1 : 2 ^ lo * (v / 2 ^ lo) + v % 2 ^ lo = v := Nat.div_add_mod v (2 ^ lo)
  have h2 : 2 ^ (hi + 1 - lo) * (v / 2 ^ lo / 2 ^ (hi + 1 - lo)) + v / 2 ^ lo % 2 ^ (hi + 1 - lo) = v / 2 ^ lo :=
    Nat.div_add_mod (v / 2 ^ lo) _
  generalize hq : v / 2 ^ lo / 2 ^ (hi + 1 - lo) = q at *
  generalize hb : v / 2 ^ lo % 2 ^ (hi + 1 - lo) = b at *
  generalize hc : v % 2 ^ lo = c at *
  generalize x % 2 ^ (hi + 1 - lo) = y
  rw [← h1, ← h2]
  have e1 : 2 ^ lo * (2 ^ (hi + 1 - lo) * q + b) = 2 ^ lo * (2 ^ (hi + 1 - lo) * q) + b * 2 ^ lo := by
    rw [Nat.mul_add, Nat.mul_comm (2 ^ lo) b]
  have e2 : 2 ^ lo * (2 ^ (hi + 1 - lo) * q + y) = 2 ^ lo * (2 ^ (hi + 1 - lo) * q) + y * 2 ^ lo := by
    rw [Nat.mul_add, Nat.mul_comm (2 ^ lo) y]
  rw [e1, e2]; omega

/-- A bit after a field is replaced: the new field's inside it, the old one outside. -/
theorem bit_putBits (v hi lo x i : Nat) : bit (putBits v hi lo x) i = if lo ≤ i ∧ i ≤ hi then bit x (i - lo) else bit v i := by
  simp only [bit_eq_testBit, putBits_eq]
  have hc : v % 2 ^ lo < 2 ^ lo := Nat.mod_lt _ (Nat.two_pow_pos _)
  have hx : x % 2 ^ (hi + 1 - lo) < 2 ^ (hi + 1 - lo) := Nat.mod_lt _ (Nat.two_pow_pos _)
  rw [Nat.testBit_two_pow_mul_add _ hc]
  by_cases h1 : i < lo
  · rw [if_pos h1, if_neg (by omega), Nat.testBit_mod_two_pow]; simp [h1]
  · rw [if_neg h1, Nat.testBit_two_pow_mul_add _ hx]
    by_cases h2 : i - lo < hi + 1 - lo
    · rw [if_pos h2, if_pos (by omega), Nat.testBit_mod_two_pow]; simp [h2]
    · rw [if_neg h2, if_neg (by omega), Nat.testBit_div_two_pow, Nat.testBit_div_two_pow]
      congr 1; omega

theorem bits_testBit (v hi lo i : Nat) : (bits v hi lo).testBit i = (decide (i < hi + 1 - lo) && v.testBit (lo + i)) := by
  unfold bits
  rw [Nat.testBit_mod_two_pow, Nat.testBit_div_two_pow, Nat.add_comm i lo]

/-- The field replaced reads as the new value, cut to its width. -/
theorem bits_putBits_same (v hi lo x : Nat) : bits (putBits v hi lo x) hi lo = x % 2 ^ (hi + 1 - lo) := by
  refine Nat.eq_of_testBit_eq fun i => ?_
  rw [bits_testBit, ← bit_eq_testBit, bit_putBits, Nat.testBit_mod_two_pow]
  by_cases h : i < hi + 1 - lo
  · rw [if_pos (by omega), bit_eq_testBit]; simp [h]
  · simp [h]

/-- A field that shares no bit with the one replaced reads as before. -/
theorem bits_putBits_other (v hi lo x h l : Nat) (d : h < lo ∨ hi < l) : bits (putBits v hi lo x) h l = bits v h l := by
  refine Nat.eq_of_testBit_eq fun i => ?_
  rw [bits_testBit, bits_testBit, ← bit_eq_testBit, bit_putBits]
  by_cases hi' : i < h + 1 - l
  · rw [if_neg (by omega), bit_eq_testBit]
  · simp [hi']

/-- A field below the cut of a register keeps its value. -/
theorem bits_mod (v h l n : Nat) (hn : h < n) : bits (v % 2 ^ n) h l = bits v h l := by
  refine Nat.eq_of_testBit_eq fun i => ?_
  rw [bits_testBit, bits_testBit, Nat.testBit_mod_two_pow]
  by_cases hi' : i < h + 1 - l
  · have : l + i < n := by omega
    simp [this]
  · simp [hi']

theorem bit_mod (v i n : Nat) (h : i < n) : bit (v % 2 ^ n) i = bit v i := by
  rw [bit_eq_testBit, bit_eq_testBit, Nat.testBit_mod_two_pow]; simp [h]

end Sys2Proof.Machine
end

