-- ==== Sys2Proof/Laws/SMap.lean ====
section
/-! SUPPORT. Laws of the keyed store: what a read finds after a write, and that the canonical form is kept. -/
namespace Sys2Proof.SMap

variable {α : Type}

theorem get_erase_eq (m : SMap α) (d : α) (k : Nat) : get (erase m k) d k = d := by
  induction m with
  | nil => rfl
  | cons e r ih =>
    obtain ⟨a, v⟩ := e
    by_cases h : a = k
    · simp only [erase, h, if_true]; exact ih
    · simp only [erase, h, if_false, get]; exact ih

theorem get_erase_ne (m : SMap α) (d : α) {k j : Nat} (h : j ≠ k) : get (erase m k) d j = get m d j := by
  induction m with
  | nil => rfl
  | cons e r ih =>
    obtain ⟨a, v⟩ := e
    by_cases hk : a = k
    · have : a ≠ j := fun e => h (e ▸ hk)
      simp only [erase, hk, if_true, get, ih]
      rw [if_neg (fun e => h e.symm)]
    · simp only [erase, hk, if_false, get, ih]

theorem get_insertAt_eq (m : SMap α) (d : α) (k : Nat) (v : α) (hm : ∀ e ∈ m, e.1 ≠ k) : get (insertAt m k v) d k = v := by
  induction m with
  | nil => simp [insertAt, get]
  | cons e r ih =>
    obtain ⟨a, w⟩ := e
    have ha : a ≠ k := hm (a, w) (by simp)
    by_cases h : k < a
    · simp [insertAt, h, get]
    · simp only [insertAt, h, if_false, get, ha]
      exact ih fun e he => hm e (by simp [he])

theorem get_insertAt_ne (m : SMap α) (d : α) {k j : Nat} (v : α) (h : j ≠ k) : get (insertAt m k v) d j = get m d j := by
  induction m with
  | nil => simp [insertAt, get, Ne.symm h]
  | cons e r ih =>
    obtain ⟨a, w⟩ := e
    by_cases hk : k < a
    · simp [insertAt, hk, get, Ne.symm h]
    · simp only [insertAt, hk, if_false, get, ih]

theorem not_mem_erase (m : SMap α) (k : Nat) : ∀ e ∈ erase m k, e.1 ≠ k := by
  induction m with
  | nil => simp [erase]
  | cons e r ih =>
    obtain ⟨a, v⟩ := e
    by_cases h : a = k
    · simp only [erase, h, if_true]; exact ih
    · simp only [erase, h, if_false]
      intro e he
      rcases List.mem_cons.mp he with rfl | he
      · exact h
      · exact ih e he

/-- A read of the key written gives the value written. -/
@[simp] theorem get_set_eq [DecidableEq α] (m : SMap α) (d : α) (k : Nat) (v : α) : get (set m d k v) d k = v := by
  unfold set
  by_cases h : v = d
  · rw [if_pos h, get_erase_eq, h]
  · rw [if_neg h, get_insertAt_eq _ _ _ _ (not_mem_erase m k)]

/-- A write leaves every other key alone. -/
theorem get_set_ne [DecidableEq α] (m : SMap α) (d : α) {k j : Nat} (v : α) (h : j ≠ k) : get (set m d k v) d j = get m d j := by
  unfold set
  by_cases hv : v = d
  · rw [if_pos hv, get_erase_ne _ _ h]
  · rw [if_neg hv, get_insertAt_ne _ _ _ h, get_erase_ne _ _ h]

theorem get_set [DecidableEq α] (m : SMap α) (d : α) (k j : Nat) (v : α) :
    get (set m d k v) d j = if j = k then v else get m d j := by
  by_cases h : j = k
  · rw [h, get_set_eq, if_pos rfl]
  · rw [get_set_ne _ _ _ h, if_neg h]

/-! ### The canonical form -/

/-- The canonical form, read as a property of pairs: the head's key lies below every later key. -/
theorem rising_cons (a : Nat) (v : α) (r : SMap α) : rising ((a, v) :: r) = true ↔ (∀ e ∈ r, a < e.1) ∧ rising r = true := by
  induction r generalizing a v with
  | nil => simp [rising]
  | cons e t ih =>
    obtain ⟨b, w⟩ := e
    constructor
    · intro h
      simp only [rising, Bool.and_eq_true, decide_eq_true_eq] at h
      have hr : rising ((b, w) :: t) = true := by simpa [rising] using h.2
      refine ⟨fun e he => ?_, hr⟩
      rcases List.mem_cons.mp he with rfl | he
      · exact h.1
      · exact Nat.lt_trans h.1 (((ih b w).mp hr).1 e he)
    · rintro ⟨h, hr⟩
      have hb : a < b := h (b, w) (by simp)
      simp only [rising, Bool.and_eq_true, decide_eq_true_eq]
      exact ⟨hb, by simpa [rising] using hr⟩

theorem mem_erase {m : SMap α} {k : Nat} {e : Nat × α} (h : e ∈ erase m k) : e ∈ m ∧ e.1 ≠ k := by
  refine ⟨?_, not_mem_erase m k e h⟩
  induction m with
  | nil => simp [erase] at h
  | cons x r ih =>
    obtain ⟨a, v⟩ := x
    by_cases hk : a = k
    · simp only [erase, hk, if_true] at h; exact List.mem_cons_of_mem _ (ih h)
    · simp only [erase, hk, if_false] at h
      rcases List.mem_cons.mp h with rfl | h
      · simp
      · exact List.mem_cons_of_mem _ (ih h)

theorem rising_erase {m : SMap α} (k : Nat) (h : rising m = true) : rising (erase m k) = true := by
  induction m with
  | nil => rfl
  | cons x r ih =>
    obtain ⟨a, v⟩ := x
    rw [rising_cons] at h
    by_cases hk : a = k
    · simp only [erase, hk, if_true]; exact ih h.2
    · simp only [erase, hk, if_false]
      rw [rising_cons]
      exact ⟨fun e he => h.1 e (mem_erase he).1, ih h.2⟩

theorem mem_insertAt {m : SMap α} {k : Nat} {v : α} {e : Nat × α} (h : e ∈ insertAt m k v) : e = (k, v) ∨ e ∈ m := by
  induction m with
  | nil => simpa [insertAt] using h
  | cons x r ih =>
    obtain ⟨a, w⟩ := x
    by_cases hk : k < a
    · simp only [insertAt, hk, if_true] at h
      rcases List.mem_cons.mp h with h | h
      · exact .inl h
      · exact .inr h
    · simp only [insertAt, hk, if_false] at h
      rcases List.mem_cons.mp h with rfl | h
      · exact .inr (by simp)
      · exact (ih h).imp id (List.mem_cons_of_mem _)

theorem rising_insertAt {m : SMap α} (k : Nat) (v : α) (h : rising m = true) (hk : ∀ e ∈ m, e.1 ≠ k) :
    rising (insertAt m k v) = true := by
  induction m with
  | nil => simp [insertAt, rising]
  | cons x r ih =>
    obtain ⟨a, w⟩ := x
    by_cases hlt : k < a
    · simp only [insertAt, hlt, if_true]
      rw [rising_cons]
      refine ⟨fun e he => ?_, h⟩
      rcases List.mem_cons.mp he with rfl | he
      · exact hlt
      · exact Nat.lt_trans hlt (((rising_cons a w r).mp h).1 e he)
    · simp only [insertAt, hlt, if_false]
      have h' := (rising_cons a w r).mp h
      have ha : a < k := Nat.lt_of_le_of_ne (Nat.le_of_not_lt hlt) (hk (a, w) (by simp))
      rw [rising_cons]
      refine ⟨fun e he => ?_, ih h'.2 fun e he => hk e (List.mem_cons_of_mem _ he)⟩
      rcases mem_insertAt he with rfl | he
      · exact ha
      · exact h'.1 e he

/-- A write keeps the keys rising. -/
theorem rising_set [DecidableEq α] {m : SMap α} (d : α) (k : Nat) (v : α) (h : rising m = true) : rising (set m d k v) = true := by
  unfold set
  by_cases hv : v = d
  · rw [if_pos hv]; exact rising_erase k h
  · rw [if_neg hv]; exact rising_insertAt k v (rising_erase k h) (not_mem_erase m k)

/-- What a store holds after a write: the entry written, or one it held. -/
theorem mem_set [DecidableEq α] {m : SMap α} {d : α} {k : Nat} {v : α} {e : Nat × α} (h : e ∈ set m d k v) :
    (e = (k, v) ∧ v ≠ d) ∨ (e ∈ m ∧ e.1 ≠ k) := by
  unfold set at h
  by_cases hv : v = d
  · rw [if_pos hv] at h; exact .inr (mem_erase h)
  · rw [if_neg hv] at h
    rcases mem_insertAt h with h | h
    · exact .inl ⟨h, hv⟩
    · exact .inr (mem_erase h)

end Sys2Proof.SMap
end

