-- ==== Sys2Proof/Laws/Memory.lean ====
section
/-! SUPPORT. Laws of the addressed memories: read after write, writes elsewhere, the canonical form. -/
namespace Sys2Proof.Machine

@[simp] theorem Memory.read_write_eq (m : List Host.Cell) (k : Nat) (b : Byte) : Memory.read (Memory.write m k b) k = b :=
  SMap.get_set_eq m _ k b

theorem Memory.read_write_ne (m : List Host.Cell) {k j : Nat} (b : Byte) (h : j ≠ k) :
    Memory.read (Memory.write m k b) j = Memory.read m j := by
  unfold Memory.read Memory.write
  have aux : ∀ (m : List Host.Cell) (d e : Byte), (∀ c ∈ m, c.1 ≠ j) → SMap.get m d j = d ∧ SMap.get m e j = e := by
    intro m d e hm
    induction m with
    | nil => exact ⟨rfl, rfl⟩
    | cons x r ih =>
      obtain ⟨a, v⟩ := x
      have ha : a ≠ j := hm (a, v) (by simp)
      have := ih fun c hc => hm c (List.mem_cons_of_mem _ hc)
      simp only [SMap.get, ha, if_false]; exact this
  -- the default that `set` compares with is the key's own, and the read's is the other key's: neither matters to the other key
  have setne : ∀ (d e : Byte), SMap.get (SMap.set m d k b) e j = SMap.get m e j := by
    intro d e
    unfold SMap.set
    by_cases hb : b = d
    · rw [if_pos hb]; exact SMap.get_erase_ne m e h
    · rw [if_neg hb, SMap.get_insertAt_ne _ _ _ h, SMap.get_erase_ne _ _ h]
  exact setne _ _

/-- A write keeps the canonical form. -/
theorem Memory.wf_write {m : List Host.Cell} (k : Nat) (b : Byte) (h : Memory.wf m = true) : Memory.wf (Memory.write m k b) = true := by
  unfold Memory.wf at *
  simp only [Bool.and_eq_true, List.all_eq_true, decide_eq_true_eq] at *
  refine ⟨SMap.rising_set _ k b h.1, fun c hc => ?_⟩
  rcases SMap.mem_set hc with ⟨rfl, hb⟩ | ⟨hc, _⟩
  · exact hb
  · exact h.2 c hc

theorem Memory.wf_writeList {m : List Host.Cell} (k : Nat) (l : List Byte) (h : Memory.wf m = true) :
    Memory.wf (Memory.writeList m k l) = true := by
  induction l generalizing m k with
  | nil => exact h
  | cons b r ih => exact ih (k + 1) (Memory.wf_write k b h)

/-- A write of a list leaves every byte outside it alone. -/
theorem Memory.read_writeList_ne (m : List Host.Cell) (k : Nat) (l : List Byte) {j : Nat} (h : j < k ∨ k + l.length ≤ j) :
    Memory.read (Memory.writeList m k l) j = Memory.read m j := by
  induction l generalizing m k with
  | nil => rfl
  | cons b r ih =>
    simp only [List.length_cons] at h
    simp only [Memory.writeList]
    rw [ih (Memory.write m k b) (k + 1) (by omega), Memory.read_write_ne _ _ (by omega)]

/-- A read inside what was written gives the byte written there. -/
theorem Memory.read_writeList_mem (m : List Host.Cell) (k : Nat) (l : List Byte) {i : Nat} (h : i < l.length) :
    Memory.read (Memory.writeList m k l) (k + i) = l[i] := by
  induction l generalizing m k i with
  | nil => simp at h
  | cons b r ih =>
    cases i with
    | zero => rw [Memory.writeList, Memory.read_writeList_ne _ _ _ (by omega)]; simp
    | succ n =>
      have := ih (Memory.write m k b) (k + 1) (i := n) (by simpa using h)
      simp only [Memory.writeList, List.getElem_cons_succ]
      rw [← this]; congr 1; omega

theorem Memory.readList_length (m : List Host.Cell) (k n : Nat) : (Memory.readList m k n).length = n := by
  induction n generalizing k with
  | zero => rfl
  | succ n ih => simp [Memory.readList, ih]

/-- Read after write. -/
theorem Memory.readList_writeList (m : List Host.Cell) (k : Nat) (l : List Byte) :
    Memory.readList (Memory.writeList m k l) k l.length = l := by
  have aux : ∀ (n : Nat) (k' : Nat) (r : List Byte) (m' : List Host.Cell), r.length = n →
      (∀ i (h : i < r.length), Memory.read m' (k' + i) = r[i]) → Memory.readList m' k' n = r := by
    intro n
    induction n with
    | zero => intro k' r m' hr _; cases r with | nil => rfl | cons => simp at hr
    | succ n ih =>
      intro k' r m' hr hm
      cases r with
      | nil => simp at hr
      | cons b r =>
        simp only [Memory.readList]
        have h0 := hm 0 (by simp)
        simp only [Nat.add_zero, List.getElem_cons_zero] at h0
        rw [h0, ih (k' + 1) r m' (by simpa using hr) fun i hi => ?_]
        have := hm (i + 1) (by simpa using hi)
        simpa [Nat.add_assoc, Nat.add_comm 1 i] using this
  exact aux l.length k l _ rfl fun i hi => Memory.read_writeList_mem m k l hi

/-- A filter of the cells keeps the canonical form (a reset that empties some memories). -/
theorem Memory.wf_filter {m : List Host.Cell} (p : Host.Cell → Bool) (h : Memory.wf m = true) : Memory.wf (m.filter p) = true := by
  unfold Memory.wf at *
  simp only [Bool.and_eq_true, List.all_eq_true, decide_eq_true_eq] at *
  refine ⟨?_, fun c hc => h.2 c ((List.mem_filter.mp hc).1)⟩
  have hr := h.1
  clear h
  induction m with
  | nil => rfl
  | cons e r ih =>
    obtain ⟨a, v⟩ := e
    have h' := (SMap.rising_cons a v r).mp hr
    by_cases hp : p (a, v) = true
    · rw [List.filter_cons_of_pos hp, SMap.rising_cons]
      exact ⟨fun e he => h'.1 e ((List.mem_filter.mp he).1), ih h'.2⟩
    · rw [List.filter_cons_of_neg hp]; exact ih h'.2

/-! ### The memories of a state -/

@[simp] theorem State.putBytes_mem (s : State) (k : Nat) (l : List Byte) : (s.putBytes k l).mem = Memory.writeList s.mem k l := rfl

/-- Bytes written read back. -/
theorem State.bytes_putBytes (s : State) (k : Nat) (l : List Byte) : (s.putBytes k l).bytes k l.length = l :=
  Memory.readList_writeList s.mem k l

/-- A byte outside those written reads as before. -/
theorem State.byte_putBytes_ne (s : State) (k : Nat) (l : List Byte) {j : Nat} (h : j < k ∨ k + l.length ≤ j) :
    (s.putBytes k l).byte j = s.byte j := Memory.read_writeList_ne s.mem k l h

end Sys2Proof.Machine
end

