-- ==== Sys2Proof/Laws/State.lean ====
section
/-! SUPPORT. Laws of State's operations: one lemma per field and update, and what a register reads after a write. -/
namespace Sys2Proof.Machine


/-! ### wr -/

@[simp] theorem State.wr_part (s : State) (r : Loc) (v u i : Nat) : (s.wr r v u i).part = s.part := rfl
@[simp] theorem State.wr_tb (s : State) (r : Loc) (v u i : Nat) : (s.wr r v u i).tb = s.tb := rfl
@[simp] theorem State.wr_mem (s : State) (r : Loc) (v u i : Nat) : (s.wr r v u i).mem = s.mem := rfl
@[simp] theorem State.wr_checks (s : State) (r : Loc) (v u i : Nat) : (s.wr r v u i).checks = s.checks := rfl
@[simp] theorem State.wr_hostPoison (s : State) (r : Loc) (v u i : Nat) : (s.wr r v u i).hostPoison = s.hostPoison := rfl
@[simp] theorem State.wr_tierWas (s : State) (r : Loc) (v u i : Nat) : (s.wr r v u i).tierWas = s.tierWas := rfl
@[simp] theorem State.wr_msixFnMask (s : State) (r : Loc) (v u i : Nat) : (s.wr r v u i).msixFnMask = s.msixFnMask := rfl
@[simp] theorem State.wr_aer (s : State) (r : Loc) (v u i : Nat) : (s.wr r v u i).aer = s.aer := rfl
@[simp] theorem State.wr_wregs (s : State) (r : Loc) (v u i : Nat) : (s.wr r v u i).wregs = s.wregs := rfl
@[simp] theorem State.wr_xnode (s : State) (r : Loc) (v u i : Nat) : (s.wr r v u i).xnode = s.xnode := rfl
@[simp] theorem State.wr_lqTurn (s : State) (r : Loc) (v u i : Nat) : (s.wr r v u i).lqTurn = s.lqTurn := rfl
@[simp] theorem State.wr_tabAt (s : State) (r : Loc) (v u i : Nat) : (s.wr r v u i).tabAt = s.tabAt := rfl
@[simp] theorem State.wr_chans (s : State) (r : Loc) (v u i : Nat) : (s.wr r v u i).chans = s.chans := rfl
@[simp] theorem State.wr_lpQueue (s : State) (r : Loc) (v u i : Nat) : (s.wr r v u i).lpQueue = s.lpQueue := rfl
@[simp] theorem State.wr_lpScrub (s : State) (r : Loc) (v u i : Nat) : (s.wr r v u i).lpScrub = s.lpScrub := rfl
@[simp] theorem State.wr_corrected (s : State) (r : Loc) (v u i : Nat) : (s.wr r v u i).corrected = s.corrected := rfl
@[simp] theorem State.wr_repairTable (s : State) (r : Loc) (v u i : Nat) : (s.wr r v u i).repairTable = s.repairTable := rfl
@[simp] theorem State.wr_softRows (s : State) (r : Loc) (v u i : Nat) : (s.wr r v u i).softRows = s.softRows := rfl
@[simp] theorem State.wr_fusedRows (s : State) (r : Loc) (v u i : Nat) : (s.wr r v u i).fusedRows = s.fusedRows := rfl
@[simp] theorem State.wr_acc (s : State) (r : Loc) (v u i : Nat) : (s.wr r v u i).acc = s.acc := rfl
@[simp] theorem State.wr_treg (s : State) (r : Loc) (v u i : Nat) : (s.wr r v u i).treg = s.treg := rfl
@[simp] theorem State.wr_tregPoison (s : State) (r : Loc) (v u i : Nat) : (s.wr r v u i).tregPoison = s.tregPoison := rfl
@[simp] theorem State.wr_seg (s : State) (r : Loc) (v u i : Nat) : (s.wr r v u i).seg = s.seg := rfl
@[simp] theorem State.wr_tables (s : State) (r : Loc) (v u i : Nat) : (s.wr r v u i).tables = s.tables := rfl
@[simp] theorem State.wr_dsp (s : State) (r : Loc) (v u i : Nat) : (s.wr r v u i).dsp = s.dsp := rfl
@[simp] theorem State.wr_scc (s : State) (r : Loc) (v u i : Nat) : (s.wr r v u i).scc = s.scc := rfl
@[simp] theorem State.wr_dma (s : State) (r : Loc) (v u i : Nat) : (s.wr r v u i).dma = s.dma := rfl
@[simp] theorem State.wr_mapList (s : State) (r : Loc) (v u i : Nat) : (s.wr r v u i).mapList = s.mapList := rfl
@[simp] theorem State.wr_mapRetry (s : State) (r : Loc) (v u i : Nat) : (s.wr r v u i).mapRetry = s.mapRetry := rfl
@[simp] theorem State.wr_fltLog (s : State) (r : Loc) (v u i : Nat) : (s.wr r v u i).fltLog = s.fltLog := rfl
@[simp] theorem State.wr_repairRetry (s : State) (r : Loc) (v u i : Nat) : (s.wr r v u i).repairRetry = s.repairRetry := rfl
@[simp] theorem State.wr_tackDevice (s : State) (r : Loc) (v u i : Nat) : (s.wr r v u i).tackDevice = s.tackDevice := rfl
@[simp] theorem State.wr_tackCompat (s : State) (r : Loc) (v u i : Nat) : (s.wr r v u i).tackCompat = s.tackCompat := rfl
@[simp] theorem State.wr_tackPdk (s : State) (r : Loc) (v u i : Nat) : (s.wr r v u i).tackPdk = s.tackPdk := rfl
@[simp] theorem State.wr_granules (s : State) (r : Loc) (v u i : Nat) : (s.wr r v u i).granules = s.granules := rfl
@[simp] theorem State.wr_fwTable (s : State) (r : Loc) (v u i : Nat) : (s.wr r v u i).fwTable = s.fwTable := rfl
@[simp] theorem State.wr_grooms (s : State) (r : Loc) (v u i : Nat) : (s.wr r v u i).grooms = s.grooms := rfl
@[simp] theorem State.wr_gctx (s : State) (r : Loc) (v u i : Nat) : (s.wr r v u i).gctx = s.gctx := rfl
@[simp] theorem State.wr_chain (s : State) (r : Loc) (v u i : Nat) : (s.wr r v u i).chain = s.chain := rfl
@[simp] theorem State.wr_shorts (s : State) (r : Loc) (v u i : Nat) : (s.wr r v u i).shorts = s.shorts := rfl
@[simp] theorem State.wr_fns (s : State) (r : Loc) (v u i : Nat) : (s.wr r v u i).fns = s.fns := rfl
@[simp] theorem State.wr_atc (s : State) (r : Loc) (v u i : Nat) : (s.wr r v u i).atc = s.atc := rfl
@[simp] theorem State.wr_xlReqs (s : State) (r : Loc) (v u i : Nat) : (s.wr r v u i).xlReqs = s.xlReqs := rfl
@[simp] theorem State.wr_pageReqs (s : State) (r : Loc) (v u i : Nat) : (s.wr r v u i).pageReqs = s.pageReqs := rfl
@[simp] theorem State.wr_invPend (s : State) (r : Loc) (v u i : Nat) : (s.wr r v u i).invPend = s.invPend := rfl
@[simp] theorem State.wr_atsFault (s : State) (r : Loc) (v u i : Nat) : (s.wr r v u i).atsFault = s.atsFault := rfl
@[simp] theorem State.wr_ledger (s : State) (r : Loc) (v u i : Nat) : (s.wr r v u i).ledger = s.ledger := rfl
@[simp] theorem State.wr_pdks (s : State) (r : Loc) (v u i : Nat) : (s.wr r v u i).pdks = s.pdks := rfl
@[simp] theorem State.wr_stepMsgs (s : State) (r : Loc) (v u i : Nat) : (s.wr r v u i).stepMsgs = s.stepMsgs := rfl
@[simp] theorem State.wr_msixTab (s : State) (r : Loc) (v u i : Nat) : (s.wr r v u i).msixTab = s.msixTab := rfl
@[simp] theorem State.wr_ports (s : State) (r : Loc) (v u i : Nat) : (s.wr r v u i).ports = s.ports := rfl
@[simp] theorem State.wr_exp (s : State) (r : Loc) (v u i : Nat) : (s.wr r v u i).exp = s.exp := rfl
@[simp] theorem State.wr_xtags (s : State) (r : Loc) (v u i : Nat) : (s.wr r v u i).xtags = s.xtags := rfl
@[simp] theorem State.wr_board (s : State) (r : Loc) (v u i : Nat) : (s.wr r v u i).board = s.board := rfl
@[simp] theorem State.wr_dqTail (s : State) (r : Loc) (v u i : Nat) : (s.wr r v u i).dqTail = s.dqTail := rfl
@[simp] theorem State.wr_fltSerial (s : State) (r : Loc) (v u i : Nat) : (s.wr r v u i).fltSerial = s.fltSerial := rfl
@[simp] theorem State.wr_msixPend (s : State) (r : Loc) (v u i : Nat) : (s.wr r v u i).msixPend = s.msixPend := rfl
@[simp] theorem State.wr_msixUnmasked (s : State) (r : Loc) (v u i : Nat) : (s.wr r v u i).msixUnmasked = s.msixUnmasked := rfl
@[simp] theorem State.wr_msixEn (s : State) (r : Loc) (v u i : Nat) : (s.wr r v u i).msixEn = s.msixEn := rfl
@[simp] theorem State.wr_fltQueue (s : State) (r : Loc) (v u i : Nat) : (s.wr r v u i).fltQueue = s.fltQueue := rfl
@[simp] theorem State.wr_captured (s : State) (r : Loc) (v u i : Nat) : (s.wr r v u i).captured = s.captured := rfl
@[simp] theorem State.wr_bus (s : State) (r : Loc) (v u i : Nat) : (s.wr r v u i).bus = s.bus := rfl
@[simp] theorem State.wr_free (s : State) (r : Loc) (v u i : Nat) : (s.wr r v u i).free = s.free := rfl
@[simp] theorem State.wr_pending (s : State) (r : Loc) (v u i : Nat) : (s.wr r v u i).pending = s.pending := rfl

/-! ### putBytes -/

@[simp] theorem State.putBytes_part (s : State) (k : Nat) (l : List Byte) : (s.putBytes k l).part = s.part := rfl
@[simp] theorem State.putBytes_tb (s : State) (k : Nat) (l : List Byte) : (s.putBytes k l).tb = s.tb := rfl
@[simp] theorem State.putBytes_regs (s : State) (k : Nat) (l : List Byte) : (s.putBytes k l).regs = s.regs := rfl
@[simp] theorem State.putBytes_checks (s : State) (k : Nat) (l : List Byte) : (s.putBytes k l).checks = s.checks := rfl
@[simp] theorem State.putBytes_hostPoison (s : State) (k : Nat) (l : List Byte) : (s.putBytes k l).hostPoison = s.hostPoison := rfl
@[simp] theorem State.putBytes_tierWas (s : State) (k : Nat) (l : List Byte) : (s.putBytes k l).tierWas = s.tierWas := rfl
@[simp] theorem State.putBytes_msixFnMask (s : State) (k : Nat) (l : List Byte) : (s.putBytes k l).msixFnMask = s.msixFnMask := rfl
@[simp] theorem State.putBytes_aer (s : State) (k : Nat) (l : List Byte) : (s.putBytes k l).aer = s.aer := rfl
@[simp] theorem State.putBytes_wregs (s : State) (k : Nat) (l : List Byte) : (s.putBytes k l).wregs = s.wregs := rfl
@[simp] theorem State.putBytes_xnode (s : State) (k : Nat) (l : List Byte) : (s.putBytes k l).xnode = s.xnode := rfl
@[simp] theorem State.putBytes_lqTurn (s : State) (k : Nat) (l : List Byte) : (s.putBytes k l).lqTurn = s.lqTurn := rfl
@[simp] theorem State.putBytes_tabAt (s : State) (k : Nat) (l : List Byte) : (s.putBytes k l).tabAt = s.tabAt := rfl
@[simp] theorem State.putBytes_chans (s : State) (k : Nat) (l : List Byte) : (s.putBytes k l).chans = s.chans := rfl
@[simp] theorem State.putBytes_lpQueue (s : State) (k : Nat) (l : List Byte) : (s.putBytes k l).lpQueue = s.lpQueue := rfl
@[simp] theorem State.putBytes_lpScrub (s : State) (k : Nat) (l : List Byte) : (s.putBytes k l).lpScrub = s.lpScrub := rfl
@[simp] theorem State.putBytes_corrected (s : State) (k : Nat) (l : List Byte) : (s.putBytes k l).corrected = s.corrected := rfl
@[simp] theorem State.putBytes_repairTable (s : State) (k : Nat) (l : List Byte) : (s.putBytes k l).repairTable = s.repairTable := rfl
@[simp] theorem State.putBytes_softRows (s : State) (k : Nat) (l : List Byte) : (s.putBytes k l).softRows = s.softRows := rfl
@[simp] theorem State.putBytes_fusedRows (s : State) (k : Nat) (l : List Byte) : (s.putBytes k l).fusedRows = s.fusedRows := rfl
@[simp] theorem State.putBytes_acc (s : State) (k : Nat) (l : List Byte) : (s.putBytes k l).acc = s.acc := rfl
@[simp] theorem State.putBytes_treg (s : State) (k : Nat) (l : List Byte) : (s.putBytes k l).treg = s.treg := rfl
@[simp] theorem State.putBytes_tregPoison (s : State) (k : Nat) (l : List Byte) : (s.putBytes k l).tregPoison = s.tregPoison := rfl
@[simp] theorem State.putBytes_seg (s : State) (k : Nat) (l : List Byte) : (s.putBytes k l).seg = s.seg := rfl
@[simp] theorem State.putBytes_tables (s : State) (k : Nat) (l : List Byte) : (s.putBytes k l).tables = s.tables := rfl
@[simp] theorem State.putBytes_dsp (s : State) (k : Nat) (l : List Byte) : (s.putBytes k l).dsp = s.dsp := rfl
@[simp] theorem State.putBytes_scc (s : State) (k : Nat) (l : List Byte) : (s.putBytes k l).scc = s.scc := rfl
@[simp] theorem State.putBytes_dma (s : State) (k : Nat) (l : List Byte) : (s.putBytes k l).dma = s.dma := rfl
@[simp] theorem State.putBytes_mapList (s : State) (k : Nat) (l : List Byte) : (s.putBytes k l).mapList = s.mapList := rfl
@[simp] theorem State.putBytes_mapRetry (s : State) (k : Nat) (l : List Byte) : (s.putBytes k l).mapRetry = s.mapRetry := rfl
@[simp] theorem State.putBytes_fltLog (s : State) (k : Nat) (l : List Byte) : (s.putBytes k l).fltLog = s.fltLog := rfl
@[simp] theorem State.putBytes_repairRetry (s : State) (k : Nat) (l : List Byte) : (s.putBytes k l).repairRetry = s.repairRetry := rfl
@[simp] theorem State.putBytes_tackDevice (s : State) (k : Nat) (l : List Byte) : (s.putBytes k l).tackDevice = s.tackDevice := rfl
@[simp] theorem State.putBytes_tackCompat (s : State) (k : Nat) (l : List Byte) : (s.putBytes k l).tackCompat = s.tackCompat := rfl
@[simp] theorem State.putBytes_tackPdk (s : State) (k : Nat) (l : List Byte) : (s.putBytes k l).tackPdk = s.tackPdk := rfl
@[simp] theorem State.putBytes_granules (s : State) (k : Nat) (l : List Byte) : (s.putBytes k l).granules = s.granules := rfl
@[simp] theorem State.putBytes_fwTable (s : State) (k : Nat) (l : List Byte) : (s.putBytes k l).fwTable = s.fwTable := rfl
@[simp] theorem State.putBytes_grooms (s : State) (k : Nat) (l : List Byte) : (s.putBytes k l).grooms = s.grooms := rfl
@[simp] theorem State.putBytes_gctx (s : State) (k : Nat) (l : List Byte) : (s.putBytes k l).gctx = s.gctx := rfl
@[simp] theorem State.putBytes_chain (s : State) (k : Nat) (l : List Byte) : (s.putBytes k l).chain = s.chain := rfl
@[simp] theorem State.putBytes_shorts (s : State) (k : Nat) (l : List Byte) : (s.putBytes k l).shorts = s.shorts := rfl
@[simp] theorem State.putBytes_fns (s : State) (k : Nat) (l : List Byte) : (s.putBytes k l).fns = s.fns := rfl
@[simp] theorem State.putBytes_atc (s : State) (k : Nat) (l : List Byte) : (s.putBytes k l).atc = s.atc := rfl
@[simp] theorem State.putBytes_xlReqs (s : State) (k : Nat) (l : List Byte) : (s.putBytes k l).xlReqs = s.xlReqs := rfl
@[simp] theorem State.putBytes_pageReqs (s : State) (k : Nat) (l : List Byte) : (s.putBytes k l).pageReqs = s.pageReqs := rfl
@[simp] theorem State.putBytes_invPend (s : State) (k : Nat) (l : List Byte) : (s.putBytes k l).invPend = s.invPend := rfl
@[simp] theorem State.putBytes_atsFault (s : State) (k : Nat) (l : List Byte) : (s.putBytes k l).atsFault = s.atsFault := rfl
@[simp] theorem State.putBytes_ledger (s : State) (k : Nat) (l : List Byte) : (s.putBytes k l).ledger = s.ledger := rfl
@[simp] theorem State.putBytes_pdks (s : State) (k : Nat) (l : List Byte) : (s.putBytes k l).pdks = s.pdks := rfl
@[simp] theorem State.putBytes_stepMsgs (s : State) (k : Nat) (l : List Byte) : (s.putBytes k l).stepMsgs = s.stepMsgs := rfl
@[simp] theorem State.putBytes_msixTab (s : State) (k : Nat) (l : List Byte) : (s.putBytes k l).msixTab = s.msixTab := rfl
@[simp] theorem State.putBytes_ports (s : State) (k : Nat) (l : List Byte) : (s.putBytes k l).ports = s.ports := rfl
@[simp] theorem State.putBytes_exp (s : State) (k : Nat) (l : List Byte) : (s.putBytes k l).exp = s.exp := rfl
@[simp] theorem State.putBytes_xtags (s : State) (k : Nat) (l : List Byte) : (s.putBytes k l).xtags = s.xtags := rfl
@[simp] theorem State.putBytes_board (s : State) (k : Nat) (l : List Byte) : (s.putBytes k l).board = s.board := rfl
@[simp] theorem State.putBytes_dqTail (s : State) (k : Nat) (l : List Byte) : (s.putBytes k l).dqTail = s.dqTail := rfl
@[simp] theorem State.putBytes_fltSerial (s : State) (k : Nat) (l : List Byte) : (s.putBytes k l).fltSerial = s.fltSerial := rfl
@[simp] theorem State.putBytes_msixPend (s : State) (k : Nat) (l : List Byte) : (s.putBytes k l).msixPend = s.msixPend := rfl
@[simp] theorem State.putBytes_msixUnmasked (s : State) (k : Nat) (l : List Byte) : (s.putBytes k l).msixUnmasked = s.msixUnmasked := rfl
@[simp] theorem State.putBytes_msixEn (s : State) (k : Nat) (l : List Byte) : (s.putBytes k l).msixEn = s.msixEn := rfl
@[simp] theorem State.putBytes_fltQueue (s : State) (k : Nat) (l : List Byte) : (s.putBytes k l).fltQueue = s.fltQueue := rfl
@[simp] theorem State.putBytes_captured (s : State) (k : Nat) (l : List Byte) : (s.putBytes k l).captured = s.captured := rfl
@[simp] theorem State.putBytes_bus (s : State) (k : Nat) (l : List Byte) : (s.putBytes k l).bus = s.bus := rfl
@[simp] theorem State.putBytes_free (s : State) (k : Nat) (l : List Byte) : (s.putBytes k l).free = s.free := rfl
@[simp] theorem State.putBytes_pending (s : State) (k : Nat) (l : List Byte) : (s.putBytes k l).pending = s.pending := rfl

/-! ### putDsp -/

@[simp] theorem State.putDsp_part (s : State) (st : Nat) (d : Dsp) : (s.putDsp st d).part = s.part := rfl
@[simp] theorem State.putDsp_tb (s : State) (st : Nat) (d : Dsp) : (s.putDsp st d).tb = s.tb := rfl
@[simp] theorem State.putDsp_regs (s : State) (st : Nat) (d : Dsp) : (s.putDsp st d).regs = s.regs := rfl
@[simp] theorem State.putDsp_mem (s : State) (st : Nat) (d : Dsp) : (s.putDsp st d).mem = s.mem := rfl
@[simp] theorem State.putDsp_checks (s : State) (st : Nat) (d : Dsp) : (s.putDsp st d).checks = s.checks := rfl
@[simp] theorem State.putDsp_hostPoison (s : State) (st : Nat) (d : Dsp) : (s.putDsp st d).hostPoison = s.hostPoison := rfl
@[simp] theorem State.putDsp_tierWas (s : State) (st : Nat) (d : Dsp) : (s.putDsp st d).tierWas = s.tierWas := rfl
@[simp] theorem State.putDsp_msixFnMask (s : State) (st : Nat) (d : Dsp) : (s.putDsp st d).msixFnMask = s.msixFnMask := rfl
@[simp] theorem State.putDsp_aer (s : State) (st : Nat) (d : Dsp) : (s.putDsp st d).aer = s.aer := rfl
@[simp] theorem State.putDsp_wregs (s : State) (st : Nat) (d : Dsp) : (s.putDsp st d).wregs = s.wregs := rfl
@[simp] theorem State.putDsp_xnode (s : State) (st : Nat) (d : Dsp) : (s.putDsp st d).xnode = s.xnode := rfl
@[simp] theorem State.putDsp_lqTurn (s : State) (st : Nat) (d : Dsp) : (s.putDsp st d).lqTurn = s.lqTurn := rfl
@[simp] theorem State.putDsp_tabAt (s : State) (st : Nat) (d : Dsp) : (s.putDsp st d).tabAt = s.tabAt := rfl
@[simp] theorem State.putDsp_chans (s : State) (st : Nat) (d : Dsp) : (s.putDsp st d).chans = s.chans := rfl
@[simp] theorem State.putDsp_lpQueue (s : State) (st : Nat) (d : Dsp) : (s.putDsp st d).lpQueue = s.lpQueue := rfl
@[simp] theorem State.putDsp_lpScrub (s : State) (st : Nat) (d : Dsp) : (s.putDsp st d).lpScrub = s.lpScrub := rfl
@[simp] theorem State.putDsp_corrected (s : State) (st : Nat) (d : Dsp) : (s.putDsp st d).corrected = s.corrected := rfl
@[simp] theorem State.putDsp_repairTable (s : State) (st : Nat) (d : Dsp) : (s.putDsp st d).repairTable = s.repairTable := rfl
@[simp] theorem State.putDsp_softRows (s : State) (st : Nat) (d : Dsp) : (s.putDsp st d).softRows = s.softRows := rfl
@[simp] theorem State.putDsp_fusedRows (s : State) (st : Nat) (d : Dsp) : (s.putDsp st d).fusedRows = s.fusedRows := rfl
@[simp] theorem State.putDsp_acc (s : State) (st : Nat) (d : Dsp) : (s.putDsp st d).acc = s.acc := rfl
@[simp] theorem State.putDsp_treg (s : State) (st : Nat) (d : Dsp) : (s.putDsp st d).treg = s.treg := rfl
@[simp] theorem State.putDsp_tregPoison (s : State) (st : Nat) (d : Dsp) : (s.putDsp st d).tregPoison = s.tregPoison := rfl
@[simp] theorem State.putDsp_seg (s : State) (st : Nat) (d : Dsp) : (s.putDsp st d).seg = s.seg := rfl
@[simp] theorem State.putDsp_tables (s : State) (st : Nat) (d : Dsp) : (s.putDsp st d).tables = s.tables := rfl
@[simp] theorem State.putDsp_scc (s : State) (st : Nat) (d : Dsp) : (s.putDsp st d).scc = s.scc := rfl
@[simp] theorem State.putDsp_dma (s : State) (st : Nat) (d : Dsp) : (s.putDsp st d).dma = s.dma := rfl
@[simp] theorem State.putDsp_mapList (s : State) (st : Nat) (d : Dsp) : (s.putDsp st d).mapList = s.mapList := rfl
@[simp] theorem State.putDsp_mapRetry (s : State) (st : Nat) (d : Dsp) : (s.putDsp st d).mapRetry = s.mapRetry := rfl
@[simp] theorem State.putDsp_fltLog (s : State) (st : Nat) (d : Dsp) : (s.putDsp st d).fltLog = s.fltLog := rfl
@[simp] theorem State.putDsp_repairRetry (s : State) (st : Nat) (d : Dsp) : (s.putDsp st d).repairRetry = s.repairRetry := rfl
@[simp] theorem State.putDsp_tackDevice (s : State) (st : Nat) (d : Dsp) : (s.putDsp st d).tackDevice = s.tackDevice := rfl
@[simp] theorem State.putDsp_tackCompat (s : State) (st : Nat) (d : Dsp) : (s.putDsp st d).tackCompat = s.tackCompat := rfl
@[simp] theorem State.putDsp_tackPdk (s : State) (st : Nat) (d : Dsp) : (s.putDsp st d).tackPdk = s.tackPdk := rfl
@[simp] theorem State.putDsp_granules (s : State) (st : Nat) (d : Dsp) : (s.putDsp st d).granules = s.granules := rfl
@[simp] theorem State.putDsp_fwTable (s : State) (st : Nat) (d : Dsp) : (s.putDsp st d).fwTable = s.fwTable := rfl
@[simp] theorem State.putDsp_grooms (s : State) (st : Nat) (d : Dsp) : (s.putDsp st d).grooms = s.grooms := rfl
@[simp] theorem State.putDsp_gctx (s : State) (st : Nat) (d : Dsp) : (s.putDsp st d).gctx = s.gctx := rfl
@[simp] theorem State.putDsp_chain (s : State) (st : Nat) (d : Dsp) : (s.putDsp st d).chain = s.chain := rfl
@[simp] theorem State.putDsp_shorts (s : State) (st : Nat) (d : Dsp) : (s.putDsp st d).shorts = s.shorts := rfl
@[simp] theorem State.putDsp_fns (s : State) (st : Nat) (d : Dsp) : (s.putDsp st d).fns = s.fns := rfl
@[simp] theorem State.putDsp_atc (s : State) (st : Nat) (d : Dsp) : (s.putDsp st d).atc = s.atc := rfl
@[simp] theorem State.putDsp_xlReqs (s : State) (st : Nat) (d : Dsp) : (s.putDsp st d).xlReqs = s.xlReqs := rfl
@[simp] theorem State.putDsp_pageReqs (s : State) (st : Nat) (d : Dsp) : (s.putDsp st d).pageReqs = s.pageReqs := rfl
@[simp] theorem State.putDsp_invPend (s : State) (st : Nat) (d : Dsp) : (s.putDsp st d).invPend = s.invPend := rfl
@[simp] theorem State.putDsp_atsFault (s : State) (st : Nat) (d : Dsp) : (s.putDsp st d).atsFault = s.atsFault := rfl
@[simp] theorem State.putDsp_ledger (s : State) (st : Nat) (d : Dsp) : (s.putDsp st d).ledger = s.ledger := rfl
@[simp] theorem State.putDsp_pdks (s : State) (st : Nat) (d : Dsp) : (s.putDsp st d).pdks = s.pdks := rfl
@[simp] theorem State.putDsp_stepMsgs (s : State) (st : Nat) (d : Dsp) : (s.putDsp st d).stepMsgs = s.stepMsgs := rfl
@[simp] theorem State.putDsp_msixTab (s : State) (st : Nat) (d : Dsp) : (s.putDsp st d).msixTab = s.msixTab := rfl
@[simp] theorem State.putDsp_ports (s : State) (st : Nat) (d : Dsp) : (s.putDsp st d).ports = s.ports := rfl
@[simp] theorem State.putDsp_exp (s : State) (st : Nat) (d : Dsp) : (s.putDsp st d).exp = s.exp := rfl
@[simp] theorem State.putDsp_xtags (s : State) (st : Nat) (d : Dsp) : (s.putDsp st d).xtags = s.xtags := rfl
@[simp] theorem State.putDsp_board (s : State) (st : Nat) (d : Dsp) : (s.putDsp st d).board = s.board := rfl
@[simp] theorem State.putDsp_dqTail (s : State) (st : Nat) (d : Dsp) : (s.putDsp st d).dqTail = s.dqTail := rfl
@[simp] theorem State.putDsp_fltSerial (s : State) (st : Nat) (d : Dsp) : (s.putDsp st d).fltSerial = s.fltSerial := rfl
@[simp] theorem State.putDsp_msixPend (s : State) (st : Nat) (d : Dsp) : (s.putDsp st d).msixPend = s.msixPend := rfl
@[simp] theorem State.putDsp_msixUnmasked (s : State) (st : Nat) (d : Dsp) : (s.putDsp st d).msixUnmasked = s.msixUnmasked := rfl
@[simp] theorem State.putDsp_msixEn (s : State) (st : Nat) (d : Dsp) : (s.putDsp st d).msixEn = s.msixEn := rfl
@[simp] theorem State.putDsp_fltQueue (s : State) (st : Nat) (d : Dsp) : (s.putDsp st d).fltQueue = s.fltQueue := rfl
@[simp] theorem State.putDsp_captured (s : State) (st : Nat) (d : Dsp) : (s.putDsp st d).captured = s.captured := rfl
@[simp] theorem State.putDsp_bus (s : State) (st : Nat) (d : Dsp) : (s.putDsp st d).bus = s.bus := rfl
@[simp] theorem State.putDsp_free (s : State) (st : Nat) (d : Dsp) : (s.putDsp st d).free = s.free := rfl
@[simp] theorem State.putDsp_pending (s : State) (st : Nat) (d : Dsp) : (s.putDsp st d).pending = s.pending := rfl

/-! ### putScc -/

@[simp] theorem State.putScc_part (s : State) (st : Nat) (c : Scc) : (s.putScc st c).part = s.part := rfl
@[simp] theorem State.putScc_tb (s : State) (st : Nat) (c : Scc) : (s.putScc st c).tb = s.tb := rfl
@[simp] theorem State.putScc_regs (s : State) (st : Nat) (c : Scc) : (s.putScc st c).regs = s.regs := rfl
@[simp] theorem State.putScc_mem (s : State) (st : Nat) (c : Scc) : (s.putScc st c).mem = s.mem := rfl
@[simp] theorem State.putScc_checks (s : State) (st : Nat) (c : Scc) : (s.putScc st c).checks = s.checks := rfl
@[simp] theorem State.putScc_hostPoison (s : State) (st : Nat) (c : Scc) : (s.putScc st c).hostPoison = s.hostPoison := rfl
@[simp] theorem State.putScc_tierWas (s : State) (st : Nat) (c : Scc) : (s.putScc st c).tierWas = s.tierWas := rfl
@[simp] theorem State.putScc_msixFnMask (s : State) (st : Nat) (c : Scc) : (s.putScc st c).msixFnMask = s.msixFnMask := rfl
@[simp] theorem State.putScc_aer (s : State) (st : Nat) (c : Scc) : (s.putScc st c).aer = s.aer := rfl
@[simp] theorem State.putScc_wregs (s : State) (st : Nat) (c : Scc) : (s.putScc st c).wregs = s.wregs := rfl
@[simp] theorem State.putScc_xnode (s : State) (st : Nat) (c : Scc) : (s.putScc st c).xnode = s.xnode := rfl
@[simp] theorem State.putScc_lqTurn (s : State) (st : Nat) (c : Scc) : (s.putScc st c).lqTurn = s.lqTurn := rfl
@[simp] theorem State.putScc_tabAt (s : State) (st : Nat) (c : Scc) : (s.putScc st c).tabAt = s.tabAt := rfl
@[simp] theorem State.putScc_chans (s : State) (st : Nat) (c : Scc) : (s.putScc st c).chans = s.chans := rfl
@[simp] theorem State.putScc_lpQueue (s : State) (st : Nat) (c : Scc) : (s.putScc st c).lpQueue = s.lpQueue := rfl
@[simp] theorem State.putScc_lpScrub (s : State) (st : Nat) (c : Scc) : (s.putScc st c).lpScrub = s.lpScrub := rfl
@[simp] theorem State.putScc_corrected (s : State) (st : Nat) (c : Scc) : (s.putScc st c).corrected = s.corrected := rfl
@[simp] theorem State.putScc_repairTable (s : State) (st : Nat) (c : Scc) : (s.putScc st c).repairTable = s.repairTable := rfl
@[simp] theorem State.putScc_softRows (s : State) (st : Nat) (c : Scc) : (s.putScc st c).softRows = s.softRows := rfl
@[simp] theorem State.putScc_fusedRows (s : State) (st : Nat) (c : Scc) : (s.putScc st c).fusedRows = s.fusedRows := rfl
@[simp] theorem State.putScc_acc (s : State) (st : Nat) (c : Scc) : (s.putScc st c).acc = s.acc := rfl
@[simp] theorem State.putScc_treg (s : State) (st : Nat) (c : Scc) : (s.putScc st c).treg = s.treg := rfl
@[simp] theorem State.putScc_tregPoison (s : State) (st : Nat) (c : Scc) : (s.putScc st c).tregPoison = s.tregPoison := rfl
@[simp] theorem State.putScc_seg (s : State) (st : Nat) (c : Scc) : (s.putScc st c).seg = s.seg := rfl
@[simp] theorem State.putScc_tables (s : State) (st : Nat) (c : Scc) : (s.putScc st c).tables = s.tables := rfl
@[simp] theorem State.putScc_dsp (s : State) (st : Nat) (c : Scc) : (s.putScc st c).dsp = s.dsp := rfl
@[simp] theorem State.putScc_dma (s : State) (st : Nat) (c : Scc) : (s.putScc st c).dma = s.dma := rfl
@[simp] theorem State.putScc_mapList (s : State) (st : Nat) (c : Scc) : (s.putScc st c).mapList = s.mapList := rfl
@[simp] theorem State.putScc_mapRetry (s : State) (st : Nat) (c : Scc) : (s.putScc st c).mapRetry = s.mapRetry := rfl
@[simp] theorem State.putScc_fltLog (s : State) (st : Nat) (c : Scc) : (s.putScc st c).fltLog = s.fltLog := rfl
@[simp] theorem State.putScc_repairRetry (s : State) (st : Nat) (c : Scc) : (s.putScc st c).repairRetry = s.repairRetry := rfl
@[simp] theorem State.putScc_tackDevice (s : State) (st : Nat) (c : Scc) : (s.putScc st c).tackDevice = s.tackDevice := rfl
@[simp] theorem State.putScc_tackCompat (s : State) (st : Nat) (c : Scc) : (s.putScc st c).tackCompat = s.tackCompat := rfl
@[simp] theorem State.putScc_tackPdk (s : State) (st : Nat) (c : Scc) : (s.putScc st c).tackPdk = s.tackPdk := rfl
@[simp] theorem State.putScc_granules (s : State) (st : Nat) (c : Scc) : (s.putScc st c).granules = s.granules := rfl
@[simp] theorem State.putScc_fwTable (s : State) (st : Nat) (c : Scc) : (s.putScc st c).fwTable = s.fwTable := rfl
@[simp] theorem State.putScc_grooms (s : State) (st : Nat) (c : Scc) : (s.putScc st c).grooms = s.grooms := rfl
@[simp] theorem State.putScc_gctx (s : State) (st : Nat) (c : Scc) : (s.putScc st c).gctx = s.gctx := rfl
@[simp] theorem State.putScc_chain (s : State) (st : Nat) (c : Scc) : (s.putScc st c).chain = s.chain := rfl
@[simp] theorem State.putScc_shorts (s : State) (st : Nat) (c : Scc) : (s.putScc st c).shorts = s.shorts := rfl
@[simp] theorem State.putScc_fns (s : State) (st : Nat) (c : Scc) : (s.putScc st c).fns = s.fns := rfl
@[simp] theorem State.putScc_atc (s : State) (st : Nat) (c : Scc) : (s.putScc st c).atc = s.atc := rfl
@[simp] theorem State.putScc_xlReqs (s : State) (st : Nat) (c : Scc) : (s.putScc st c).xlReqs = s.xlReqs := rfl
@[simp] theorem State.putScc_pageReqs (s : State) (st : Nat) (c : Scc) : (s.putScc st c).pageReqs = s.pageReqs := rfl
@[simp] theorem State.putScc_invPend (s : State) (st : Nat) (c : Scc) : (s.putScc st c).invPend = s.invPend := rfl
@[simp] theorem State.putScc_atsFault (s : State) (st : Nat) (c : Scc) : (s.putScc st c).atsFault = s.atsFault := rfl
@[simp] theorem State.putScc_ledger (s : State) (st : Nat) (c : Scc) : (s.putScc st c).ledger = s.ledger := rfl
@[simp] theorem State.putScc_pdks (s : State) (st : Nat) (c : Scc) : (s.putScc st c).pdks = s.pdks := rfl
@[simp] theorem State.putScc_stepMsgs (s : State) (st : Nat) (c : Scc) : (s.putScc st c).stepMsgs = s.stepMsgs := rfl
@[simp] theorem State.putScc_msixTab (s : State) (st : Nat) (c : Scc) : (s.putScc st c).msixTab = s.msixTab := rfl
@[simp] theorem State.putScc_ports (s : State) (st : Nat) (c : Scc) : (s.putScc st c).ports = s.ports := rfl
@[simp] theorem State.putScc_exp (s : State) (st : Nat) (c : Scc) : (s.putScc st c).exp = s.exp := rfl
@[simp] theorem State.putScc_xtags (s : State) (st : Nat) (c : Scc) : (s.putScc st c).xtags = s.xtags := rfl
@[simp] theorem State.putScc_board (s : State) (st : Nat) (c : Scc) : (s.putScc st c).board = s.board := rfl
@[simp] theorem State.putScc_dqTail (s : State) (st : Nat) (c : Scc) : (s.putScc st c).dqTail = s.dqTail := rfl
@[simp] theorem State.putScc_fltSerial (s : State) (st : Nat) (c : Scc) : (s.putScc st c).fltSerial = s.fltSerial := rfl
@[simp] theorem State.putScc_msixPend (s : State) (st : Nat) (c : Scc) : (s.putScc st c).msixPend = s.msixPend := rfl
@[simp] theorem State.putScc_msixUnmasked (s : State) (st : Nat) (c : Scc) : (s.putScc st c).msixUnmasked = s.msixUnmasked := rfl
@[simp] theorem State.putScc_msixEn (s : State) (st : Nat) (c : Scc) : (s.putScc st c).msixEn = s.msixEn := rfl
@[simp] theorem State.putScc_fltQueue (s : State) (st : Nat) (c : Scc) : (s.putScc st c).fltQueue = s.fltQueue := rfl
@[simp] theorem State.putScc_captured (s : State) (st : Nat) (c : Scc) : (s.putScc st c).captured = s.captured := rfl
@[simp] theorem State.putScc_bus (s : State) (st : Nat) (c : Scc) : (s.putScc st c).bus = s.bus := rfl
@[simp] theorem State.putScc_free (s : State) (st : Nat) (c : Scc) : (s.putScc st c).free = s.free := rfl
@[simp] theorem State.putScc_pending (s : State) (st : Nat) (c : Scc) : (s.putScc st c).pending = s.pending := rfl

/-! ### putDma -/

@[simp] theorem State.putDma_part (s : State) (st c : Nat) (d : DmaChan) : (s.putDma st c d).part = s.part := rfl
@[simp] theorem State.putDma_tb (s : State) (st c : Nat) (d : DmaChan) : (s.putDma st c d).tb = s.tb := rfl
@[simp] theorem State.putDma_regs (s : State) (st c : Nat) (d : DmaChan) : (s.putDma st c d).regs = s.regs := rfl
@[simp] theorem State.putDma_mem (s : State) (st c : Nat) (d : DmaChan) : (s.putDma st c d).mem = s.mem := rfl
@[simp] theorem State.putDma_checks (s : State) (st c : Nat) (d : DmaChan) : (s.putDma st c d).checks = s.checks := rfl
@[simp] theorem State.putDma_hostPoison (s : State) (st c : Nat) (d : DmaChan) : (s.putDma st c d).hostPoison = s.hostPoison := rfl
@[simp] theorem State.putDma_tierWas (s : State) (st c : Nat) (d : DmaChan) : (s.putDma st c d).tierWas = s.tierWas := rfl
@[simp] theorem State.putDma_msixFnMask (s : State) (st c : Nat) (d : DmaChan) : (s.putDma st c d).msixFnMask = s.msixFnMask := rfl
@[simp] theorem State.putDma_aer (s : State) (st c : Nat) (d : DmaChan) : (s.putDma st c d).aer = s.aer := rfl
@[simp] theorem State.putDma_wregs (s : State) (st c : Nat) (d : DmaChan) : (s.putDma st c d).wregs = s.wregs := rfl
@[simp] theorem State.putDma_xnode (s : State) (st c : Nat) (d : DmaChan) : (s.putDma st c d).xnode = s.xnode := rfl
@[simp] theorem State.putDma_lqTurn (s : State) (st c : Nat) (d : DmaChan) : (s.putDma st c d).lqTurn = s.lqTurn := rfl
@[simp] theorem State.putDma_tabAt (s : State) (st c : Nat) (d : DmaChan) : (s.putDma st c d).tabAt = s.tabAt := rfl
@[simp] theorem State.putDma_chans (s : State) (st c : Nat) (d : DmaChan) : (s.putDma st c d).chans = s.chans := rfl
@[simp] theorem State.putDma_lpQueue (s : State) (st c : Nat) (d : DmaChan) : (s.putDma st c d).lpQueue = s.lpQueue := rfl
@[simp] theorem State.putDma_lpScrub (s : State) (st c : Nat) (d : DmaChan) : (s.putDma st c d).lpScrub = s.lpScrub := rfl
@[simp] theorem State.putDma_corrected (s : State) (st c : Nat) (d : DmaChan) : (s.putDma st c d).corrected = s.corrected := rfl
@[simp] theorem State.putDma_repairTable (s : State) (st c : Nat) (d : DmaChan) : (s.putDma st c d).repairTable = s.repairTable := rfl
@[simp] theorem State.putDma_softRows (s : State) (st c : Nat) (d : DmaChan) : (s.putDma st c d).softRows = s.softRows := rfl
@[simp] theorem State.putDma_fusedRows (s : State) (st c : Nat) (d : DmaChan) : (s.putDma st c d).fusedRows = s.fusedRows := rfl
@[simp] theorem State.putDma_acc (s : State) (st c : Nat) (d : DmaChan) : (s.putDma st c d).acc = s.acc := rfl
@[simp] theorem State.putDma_treg (s : State) (st c : Nat) (d : DmaChan) : (s.putDma st c d).treg = s.treg := rfl
@[simp] theorem State.putDma_tregPoison (s : State) (st c : Nat) (d : DmaChan) : (s.putDma st c d).tregPoison = s.tregPoison := rfl
@[simp] theorem State.putDma_seg (s : State) (st c : Nat) (d : DmaChan) : (s.putDma st c d).seg = s.seg := rfl
@[simp] theorem State.putDma_tables (s : State) (st c : Nat) (d : DmaChan) : (s.putDma st c d).tables = s.tables := rfl
@[simp] theorem State.putDma_dsp (s : State) (st c : Nat) (d : DmaChan) : (s.putDma st c d).dsp = s.dsp := rfl
@[simp] theorem State.putDma_scc (s : State) (st c : Nat) (d : DmaChan) : (s.putDma st c d).scc = s.scc := rfl
@[simp] theorem State.putDma_mapList (s : State) (st c : Nat) (d : DmaChan) : (s.putDma st c d).mapList = s.mapList := rfl
@[simp] theorem State.putDma_mapRetry (s : State) (st c : Nat) (d : DmaChan) : (s.putDma st c d).mapRetry = s.mapRetry := rfl
@[simp] theorem State.putDma_fltLog (s : State) (st c : Nat) (d : DmaChan) : (s.putDma st c d).fltLog = s.fltLog := rfl
@[simp] theorem State.putDma_repairRetry (s : State) (st c : Nat) (d : DmaChan) : (s.putDma st c d).repairRetry = s.repairRetry := rfl
@[simp] theorem State.putDma_tackDevice (s : State) (st c : Nat) (d : DmaChan) : (s.putDma st c d).tackDevice = s.tackDevice := rfl
@[simp] theorem State.putDma_tackCompat (s : State) (st c : Nat) (d : DmaChan) : (s.putDma st c d).tackCompat = s.tackCompat := rfl
@[simp] theorem State.putDma_tackPdk (s : State) (st c : Nat) (d : DmaChan) : (s.putDma st c d).tackPdk = s.tackPdk := rfl
@[simp] theorem State.putDma_granules (s : State) (st c : Nat) (d : DmaChan) : (s.putDma st c d).granules = s.granules := rfl
@[simp] theorem State.putDma_fwTable (s : State) (st c : Nat) (d : DmaChan) : (s.putDma st c d).fwTable = s.fwTable := rfl
@[simp] theorem State.putDma_grooms (s : State) (st c : Nat) (d : DmaChan) : (s.putDma st c d).grooms = s.grooms := rfl
@[simp] theorem State.putDma_gctx (s : State) (st c : Nat) (d : DmaChan) : (s.putDma st c d).gctx = s.gctx := rfl
@[simp] theorem State.putDma_chain (s : State) (st c : Nat) (d : DmaChan) : (s.putDma st c d).chain = s.chain := rfl
@[simp] theorem State.putDma_shorts (s : State) (st c : Nat) (d : DmaChan) : (s.putDma st c d).shorts = s.shorts := rfl
@[simp] theorem State.putDma_fns (s : State) (st c : Nat) (d : DmaChan) : (s.putDma st c d).fns = s.fns := rfl
@[simp] theorem State.putDma_atc (s : State) (st c : Nat) (d : DmaChan) : (s.putDma st c d).atc = s.atc := rfl
@[simp] theorem State.putDma_xlReqs (s : State) (st c : Nat) (d : DmaChan) : (s.putDma st c d).xlReqs = s.xlReqs := rfl
@[simp] theorem State.putDma_pageReqs (s : State) (st c : Nat) (d : DmaChan) : (s.putDma st c d).pageReqs = s.pageReqs := rfl
@[simp] theorem State.putDma_invPend (s : State) (st c : Nat) (d : DmaChan) : (s.putDma st c d).invPend = s.invPend := rfl
@[simp] theorem State.putDma_atsFault (s : State) (st c : Nat) (d : DmaChan) : (s.putDma st c d).atsFault = s.atsFault := rfl
@[simp] theorem State.putDma_ledger (s : State) (st c : Nat) (d : DmaChan) : (s.putDma st c d).ledger = s.ledger := rfl
@[simp] theorem State.putDma_pdks (s : State) (st c : Nat) (d : DmaChan) : (s.putDma st c d).pdks = s.pdks := rfl
@[simp] theorem State.putDma_stepMsgs (s : State) (st c : Nat) (d : DmaChan) : (s.putDma st c d).stepMsgs = s.stepMsgs := rfl
@[simp] theorem State.putDma_msixTab (s : State) (st c : Nat) (d : DmaChan) : (s.putDma st c d).msixTab = s.msixTab := rfl
@[simp] theorem State.putDma_ports (s : State) (st c : Nat) (d : DmaChan) : (s.putDma st c d).ports = s.ports := rfl
@[simp] theorem State.putDma_exp (s : State) (st c : Nat) (d : DmaChan) : (s.putDma st c d).exp = s.exp := rfl
@[simp] theorem State.putDma_xtags (s : State) (st c : Nat) (d : DmaChan) : (s.putDma st c d).xtags = s.xtags := rfl
@[simp] theorem State.putDma_board (s : State) (st c : Nat) (d : DmaChan) : (s.putDma st c d).board = s.board := rfl
@[simp] theorem State.putDma_dqTail (s : State) (st c : Nat) (d : DmaChan) : (s.putDma st c d).dqTail = s.dqTail := rfl
@[simp] theorem State.putDma_fltSerial (s : State) (st c : Nat) (d : DmaChan) : (s.putDma st c d).fltSerial = s.fltSerial := rfl
@[simp] theorem State.putDma_msixPend (s : State) (st c : Nat) (d : DmaChan) : (s.putDma st c d).msixPend = s.msixPend := rfl
@[simp] theorem State.putDma_msixUnmasked (s : State) (st c : Nat) (d : DmaChan) : (s.putDma st c d).msixUnmasked = s.msixUnmasked := rfl
@[simp] theorem State.putDma_msixEn (s : State) (st c : Nat) (d : DmaChan) : (s.putDma st c d).msixEn = s.msixEn := rfl
@[simp] theorem State.putDma_fltQueue (s : State) (st c : Nat) (d : DmaChan) : (s.putDma st c d).fltQueue = s.fltQueue := rfl
@[simp] theorem State.putDma_captured (s : State) (st c : Nat) (d : DmaChan) : (s.putDma st c d).captured = s.captured := rfl
@[simp] theorem State.putDma_bus (s : State) (st c : Nat) (d : DmaChan) : (s.putDma st c d).bus = s.bus := rfl
@[simp] theorem State.putDma_free (s : State) (st c : Nat) (d : DmaChan) : (s.putDma st c d).free = s.free := rfl
@[simp] theorem State.putDma_pending (s : State) (st c : Nat) (d : DmaChan) : (s.putDma st c d).pending = s.pending := rfl

/-! ### tick -/

@[simp] theorem State.tick_part (s : State) (n : Nat) : (s.tick n).part = s.part := rfl
@[simp] theorem State.tick_tb (s : State) (n : Nat) : (s.tick n).tb = s.tb := rfl
@[simp] theorem State.tick_regs (s : State) (n : Nat) : (s.tick n).regs = s.regs := rfl
@[simp] theorem State.tick_mem (s : State) (n : Nat) : (s.tick n).mem = s.mem := rfl
@[simp] theorem State.tick_checks (s : State) (n : Nat) : (s.tick n).checks = s.checks := rfl
@[simp] theorem State.tick_hostPoison (s : State) (n : Nat) : (s.tick n).hostPoison = s.hostPoison := rfl
@[simp] theorem State.tick_tierWas (s : State) (n : Nat) : (s.tick n).tierWas = s.tierWas := rfl
@[simp] theorem State.tick_msixFnMask (s : State) (n : Nat) : (s.tick n).msixFnMask = s.msixFnMask := rfl
@[simp] theorem State.tick_aer (s : State) (n : Nat) : (s.tick n).aer = s.aer := rfl
@[simp] theorem State.tick_wregs (s : State) (n : Nat) : (s.tick n).wregs = s.wregs := rfl
@[simp] theorem State.tick_xnode (s : State) (n : Nat) : (s.tick n).xnode = s.xnode := rfl
@[simp] theorem State.tick_lqTurn (s : State) (n : Nat) : (s.tick n).lqTurn = s.lqTurn := rfl
@[simp] theorem State.tick_tabAt (s : State) (n : Nat) : (s.tick n).tabAt = s.tabAt := rfl
@[simp] theorem State.tick_chans (s : State) (n : Nat) : (s.tick n).chans = s.chans := rfl
@[simp] theorem State.tick_lpQueue (s : State) (n : Nat) : (s.tick n).lpQueue = s.lpQueue := rfl
@[simp] theorem State.tick_lpScrub (s : State) (n : Nat) : (s.tick n).lpScrub = s.lpScrub := rfl
@[simp] theorem State.tick_corrected (s : State) (n : Nat) : (s.tick n).corrected = s.corrected := rfl
@[simp] theorem State.tick_repairTable (s : State) (n : Nat) : (s.tick n).repairTable = s.repairTable := rfl
@[simp] theorem State.tick_softRows (s : State) (n : Nat) : (s.tick n).softRows = s.softRows := rfl
@[simp] theorem State.tick_fusedRows (s : State) (n : Nat) : (s.tick n).fusedRows = s.fusedRows := rfl
@[simp] theorem State.tick_acc (s : State) (n : Nat) : (s.tick n).acc = s.acc := rfl
@[simp] theorem State.tick_treg (s : State) (n : Nat) : (s.tick n).treg = s.treg := rfl
@[simp] theorem State.tick_tregPoison (s : State) (n : Nat) : (s.tick n).tregPoison = s.tregPoison := rfl
@[simp] theorem State.tick_seg (s : State) (n : Nat) : (s.tick n).seg = s.seg := rfl
@[simp] theorem State.tick_tables (s : State) (n : Nat) : (s.tick n).tables = s.tables := rfl
@[simp] theorem State.tick_dsp (s : State) (n : Nat) : (s.tick n).dsp = s.dsp := rfl
@[simp] theorem State.tick_scc (s : State) (n : Nat) : (s.tick n).scc = s.scc := rfl
@[simp] theorem State.tick_dma (s : State) (n : Nat) : (s.tick n).dma = s.dma := rfl
@[simp] theorem State.tick_mapList (s : State) (n : Nat) : (s.tick n).mapList = s.mapList := rfl
@[simp] theorem State.tick_mapRetry (s : State) (n : Nat) : (s.tick n).mapRetry = s.mapRetry := rfl
@[simp] theorem State.tick_fltLog (s : State) (n : Nat) : (s.tick n).fltLog = s.fltLog := rfl
@[simp] theorem State.tick_repairRetry (s : State) (n : Nat) : (s.tick n).repairRetry = s.repairRetry := rfl
@[simp] theorem State.tick_tackDevice (s : State) (n : Nat) : (s.tick n).tackDevice = s.tackDevice := rfl
@[simp] theorem State.tick_tackCompat (s : State) (n : Nat) : (s.tick n).tackCompat = s.tackCompat := rfl
@[simp] theorem State.tick_tackPdk (s : State) (n : Nat) : (s.tick n).tackPdk = s.tackPdk := rfl
@[simp] theorem State.tick_granules (s : State) (n : Nat) : (s.tick n).granules = s.granules := rfl
@[simp] theorem State.tick_fwTable (s : State) (n : Nat) : (s.tick n).fwTable = s.fwTable := rfl
@[simp] theorem State.tick_grooms (s : State) (n : Nat) : (s.tick n).grooms = s.grooms := rfl
@[simp] theorem State.tick_gctx (s : State) (n : Nat) : (s.tick n).gctx = s.gctx := rfl
@[simp] theorem State.tick_chain (s : State) (n : Nat) : (s.tick n).chain = s.chain := rfl
@[simp] theorem State.tick_shorts (s : State) (n : Nat) : (s.tick n).shorts = s.shorts := rfl
@[simp] theorem State.tick_fns (s : State) (n : Nat) : (s.tick n).fns = s.fns := rfl
@[simp] theorem State.tick_atc (s : State) (n : Nat) : (s.tick n).atc = s.atc := rfl
@[simp] theorem State.tick_xlReqs (s : State) (n : Nat) : (s.tick n).xlReqs = s.xlReqs := rfl
@[simp] theorem State.tick_pageReqs (s : State) (n : Nat) : (s.tick n).pageReqs = s.pageReqs := rfl
@[simp] theorem State.tick_invPend (s : State) (n : Nat) : (s.tick n).invPend = s.invPend := rfl
@[simp] theorem State.tick_atsFault (s : State) (n : Nat) : (s.tick n).atsFault = s.atsFault := rfl
@[simp] theorem State.tick_ledger (s : State) (n : Nat) : (s.tick n).ledger = s.ledger := rfl
@[simp] theorem State.tick_pdks (s : State) (n : Nat) : (s.tick n).pdks = s.pdks := rfl
@[simp] theorem State.tick_stepMsgs (s : State) (n : Nat) : (s.tick n).stepMsgs = s.stepMsgs := rfl
@[simp] theorem State.tick_msixTab (s : State) (n : Nat) : (s.tick n).msixTab = s.msixTab := rfl
@[simp] theorem State.tick_ports (s : State) (n : Nat) : (s.tick n).ports = s.ports := rfl
@[simp] theorem State.tick_exp (s : State) (n : Nat) : (s.tick n).exp = s.exp := rfl
@[simp] theorem State.tick_xtags (s : State) (n : Nat) : (s.tick n).xtags = s.xtags := rfl
@[simp] theorem State.tick_board (s : State) (n : Nat) : (s.tick n).board = s.board := rfl
@[simp] theorem State.tick_dqTail (s : State) (n : Nat) : (s.tick n).dqTail = s.dqTail := rfl
@[simp] theorem State.tick_fltSerial (s : State) (n : Nat) : (s.tick n).fltSerial = s.fltSerial := rfl
@[simp] theorem State.tick_msixPend (s : State) (n : Nat) : (s.tick n).msixPend = s.msixPend := rfl
@[simp] theorem State.tick_msixUnmasked (s : State) (n : Nat) : (s.tick n).msixUnmasked = s.msixUnmasked := rfl
@[simp] theorem State.tick_msixEn (s : State) (n : Nat) : (s.tick n).msixEn = s.msixEn := rfl
@[simp] theorem State.tick_fltQueue (s : State) (n : Nat) : (s.tick n).fltQueue = s.fltQueue := rfl
@[simp] theorem State.tick_captured (s : State) (n : Nat) : (s.tick n).captured = s.captured := rfl
@[simp] theorem State.tick_bus (s : State) (n : Nat) : (s.tick n).bus = s.bus := rfl
@[simp] theorem State.tick_pending (s : State) (n : Nat) : (s.tick n).pending = s.pending := rfl

/-! ### emit -/

@[simp] theorem State.emit_part (s : State) (e : BusEvent) : (s.emit e).part = s.part := rfl
@[simp] theorem State.emit_tb (s : State) (e : BusEvent) : (s.emit e).tb = s.tb := rfl
@[simp] theorem State.emit_regs (s : State) (e : BusEvent) : (s.emit e).regs = s.regs := rfl
@[simp] theorem State.emit_mem (s : State) (e : BusEvent) : (s.emit e).mem = s.mem := rfl
@[simp] theorem State.emit_checks (s : State) (e : BusEvent) : (s.emit e).checks = s.checks := rfl
@[simp] theorem State.emit_hostPoison (s : State) (e : BusEvent) : (s.emit e).hostPoison = s.hostPoison := rfl
@[simp] theorem State.emit_tierWas (s : State) (e : BusEvent) : (s.emit e).tierWas = s.tierWas := rfl
@[simp] theorem State.emit_msixFnMask (s : State) (e : BusEvent) : (s.emit e).msixFnMask = s.msixFnMask := rfl
@[simp] theorem State.emit_aer (s : State) (e : BusEvent) : (s.emit e).aer = s.aer := rfl
@[simp] theorem State.emit_wregs (s : State) (e : BusEvent) : (s.emit e).wregs = s.wregs := rfl
@[simp] theorem State.emit_xnode (s : State) (e : BusEvent) : (s.emit e).xnode = s.xnode := rfl
@[simp] theorem State.emit_lqTurn (s : State) (e : BusEvent) : (s.emit e).lqTurn = s.lqTurn := rfl
@[simp] theorem State.emit_tabAt (s : State) (e : BusEvent) : (s.emit e).tabAt = s.tabAt := rfl
@[simp] theorem State.emit_chans (s : State) (e : BusEvent) : (s.emit e).chans = s.chans := rfl
@[simp] theorem State.emit_lpQueue (s : State) (e : BusEvent) : (s.emit e).lpQueue = s.lpQueue := rfl
@[simp] theorem State.emit_lpScrub (s : State) (e : BusEvent) : (s.emit e).lpScrub = s.lpScrub := rfl
@[simp] theorem State.emit_corrected (s : State) (e : BusEvent) : (s.emit e).corrected = s.corrected := rfl
@[simp] theorem State.emit_repairTable (s : State) (e : BusEvent) : (s.emit e).repairTable = s.repairTable := rfl
@[simp] theorem State.emit_softRows (s : State) (e : BusEvent) : (s.emit e).softRows = s.softRows := rfl
@[simp] theorem State.emit_fusedRows (s : State) (e : BusEvent) : (s.emit e).fusedRows = s.fusedRows := rfl
@[simp] theorem State.emit_acc (s : State) (e : BusEvent) : (s.emit e).acc = s.acc := rfl
@[simp] theorem State.emit_treg (s : State) (e : BusEvent) : (s.emit e).treg = s.treg := rfl
@[simp] theorem State.emit_tregPoison (s : State) (e : BusEvent) : (s.emit e).tregPoison = s.tregPoison := rfl
@[simp] theorem State.emit_seg (s : State) (e : BusEvent) : (s.emit e).seg = s.seg := rfl
@[simp] theorem State.emit_tables (s : State) (e : BusEvent) : (s.emit e).tables = s.tables := rfl
@[simp] theorem State.emit_dsp (s : State) (e : BusEvent) : (s.emit e).dsp = s.dsp := rfl
@[simp] theorem State.emit_scc (s : State) (e : BusEvent) : (s.emit e).scc = s.scc := rfl
@[simp] theorem State.emit_dma (s : State) (e : BusEvent) : (s.emit e).dma = s.dma := rfl
@[simp] theorem State.emit_mapList (s : State) (e : BusEvent) : (s.emit e).mapList = s.mapList := rfl
@[simp] theorem State.emit_mapRetry (s : State) (e : BusEvent) : (s.emit e).mapRetry = s.mapRetry := rfl
@[simp] theorem State.emit_fltLog (s : State) (e : BusEvent) : (s.emit e).fltLog = s.fltLog := rfl
@[simp] theorem State.emit_repairRetry (s : State) (e : BusEvent) : (s.emit e).repairRetry = s.repairRetry := rfl
@[simp] theorem State.emit_tackDevice (s : State) (e : BusEvent) : (s.emit e).tackDevice = s.tackDevice := rfl
@[simp] theorem State.emit_tackCompat (s : State) (e : BusEvent) : (s.emit e).tackCompat = s.tackCompat := rfl
@[simp] theorem State.emit_tackPdk (s : State) (e : BusEvent) : (s.emit e).tackPdk = s.tackPdk := rfl
@[simp] theorem State.emit_granules (s : State) (e : BusEvent) : (s.emit e).granules = s.granules := rfl
@[simp] theorem State.emit_fwTable (s : State) (e : BusEvent) : (s.emit e).fwTable = s.fwTable := rfl
@[simp] theorem State.emit_grooms (s : State) (e : BusEvent) : (s.emit e).grooms = s.grooms := rfl
@[simp] theorem State.emit_gctx (s : State) (e : BusEvent) : (s.emit e).gctx = s.gctx := rfl
@[simp] theorem State.emit_chain (s : State) (e : BusEvent) : (s.emit e).chain = s.chain := rfl
@[simp] theorem State.emit_shorts (s : State) (e : BusEvent) : (s.emit e).shorts = s.shorts := rfl
@[simp] theorem State.emit_fns (s : State) (e : BusEvent) : (s.emit e).fns = s.fns := rfl
@[simp] theorem State.emit_atc (s : State) (e : BusEvent) : (s.emit e).atc = s.atc := rfl
@[simp] theorem State.emit_xlReqs (s : State) (e : BusEvent) : (s.emit e).xlReqs = s.xlReqs := rfl
@[simp] theorem State.emit_pageReqs (s : State) (e : BusEvent) : (s.emit e).pageReqs = s.pageReqs := rfl
@[simp] theorem State.emit_invPend (s : State) (e : BusEvent) : (s.emit e).invPend = s.invPend := rfl
@[simp] theorem State.emit_atsFault (s : State) (e : BusEvent) : (s.emit e).atsFault = s.atsFault := rfl
@[simp] theorem State.emit_ledger (s : State) (e : BusEvent) : (s.emit e).ledger = s.ledger := rfl
@[simp] theorem State.emit_pdks (s : State) (e : BusEvent) : (s.emit e).pdks = s.pdks := rfl
@[simp] theorem State.emit_stepMsgs (s : State) (e : BusEvent) : (s.emit e).stepMsgs = s.stepMsgs := rfl
@[simp] theorem State.emit_msixTab (s : State) (e : BusEvent) : (s.emit e).msixTab = s.msixTab := rfl
@[simp] theorem State.emit_ports (s : State) (e : BusEvent) : (s.emit e).ports = s.ports := rfl
@[simp] theorem State.emit_exp (s : State) (e : BusEvent) : (s.emit e).exp = s.exp := rfl
@[simp] theorem State.emit_xtags (s : State) (e : BusEvent) : (s.emit e).xtags = s.xtags := rfl
@[simp] theorem State.emit_board (s : State) (e : BusEvent) : (s.emit e).board = s.board := rfl
@[simp] theorem State.emit_dqTail (s : State) (e : BusEvent) : (s.emit e).dqTail = s.dqTail := rfl
@[simp] theorem State.emit_fltSerial (s : State) (e : BusEvent) : (s.emit e).fltSerial = s.fltSerial := rfl
@[simp] theorem State.emit_msixPend (s : State) (e : BusEvent) : (s.emit e).msixPend = s.msixPend := rfl
@[simp] theorem State.emit_msixUnmasked (s : State) (e : BusEvent) : (s.emit e).msixUnmasked = s.msixUnmasked := rfl
@[simp] theorem State.emit_msixEn (s : State) (e : BusEvent) : (s.emit e).msixEn = s.msixEn := rfl
@[simp] theorem State.emit_fltQueue (s : State) (e : BusEvent) : (s.emit e).fltQueue = s.fltQueue := rfl
@[simp] theorem State.emit_captured (s : State) (e : BusEvent) : (s.emit e).captured = s.captured := rfl
@[simp] theorem State.emit_free (s : State) (e : BusEvent) : (s.emit e).free = s.free := rfl
@[simp] theorem State.emit_pending (s : State) (e : BusEvent) : (s.emit e).pending = s.pending := rfl

/-! ### Derived updates of registers are writes of registers -/

@[simp] theorem State.setFld_part (s : State) (f : Fld) (v u i : Nat) : (s.setFld f v u i).part = s.part := rfl
@[simp] theorem State.setFld_tb (s : State) (f : Fld) (v u i : Nat) : (s.setFld f v u i).tb = s.tb := rfl
@[simp] theorem State.setFld_mem (s : State) (f : Fld) (v u i : Nat) : (s.setFld f v u i).mem = s.mem := rfl
@[simp] theorem State.setFld_checks (s : State) (f : Fld) (v u i : Nat) : (s.setFld f v u i).checks = s.checks := rfl
@[simp] theorem State.setFld_hostPoison (s : State) (f : Fld) (v u i : Nat) : (s.setFld f v u i).hostPoison = s.hostPoison := rfl
@[simp] theorem State.setFld_tierWas (s : State) (f : Fld) (v u i : Nat) : (s.setFld f v u i).tierWas = s.tierWas := rfl
@[simp] theorem State.setFld_msixFnMask (s : State) (f : Fld) (v u i : Nat) : (s.setFld f v u i).msixFnMask = s.msixFnMask := rfl
@[simp] theorem State.setFld_aer (s : State) (f : Fld) (v u i : Nat) : (s.setFld f v u i).aer = s.aer := rfl
@[simp] theorem State.setFld_wregs (s : State) (f : Fld) (v u i : Nat) : (s.setFld f v u i).wregs = s.wregs := rfl
@[simp] theorem State.setFld_xnode (s : State) (f : Fld) (v u i : Nat) : (s.setFld f v u i).xnode = s.xnode := rfl
@[simp] theorem State.setFld_lqTurn (s : State) (f : Fld) (v u i : Nat) : (s.setFld f v u i).lqTurn = s.lqTurn := rfl
@[simp] theorem State.setFld_tabAt (s : State) (f : Fld) (v u i : Nat) : (s.setFld f v u i).tabAt = s.tabAt := rfl
@[simp] theorem State.setFld_chans (s : State) (f : Fld) (v u i : Nat) : (s.setFld f v u i).chans = s.chans := rfl
@[simp] theorem State.setFld_lpQueue (s : State) (f : Fld) (v u i : Nat) : (s.setFld f v u i).lpQueue = s.lpQueue := rfl
@[simp] theorem State.setFld_lpScrub (s : State) (f : Fld) (v u i : Nat) : (s.setFld f v u i).lpScrub = s.lpScrub := rfl
@[simp] theorem State.setFld_corrected (s : State) (f : Fld) (v u i : Nat) : (s.setFld f v u i).corrected = s.corrected := rfl
@[simp] theorem State.setFld_repairTable (s : State) (f : Fld) (v u i : Nat) : (s.setFld f v u i).repairTable = s.repairTable := rfl
@[simp] theorem State.setFld_softRows (s : State) (f : Fld) (v u i : Nat) : (s.setFld f v u i).softRows = s.softRows := rfl
@[simp] theorem State.setFld_fusedRows (s : State) (f : Fld) (v u i : Nat) : (s.setFld f v u i).fusedRows = s.fusedRows := rfl
@[simp] theorem State.setFld_acc (s : State) (f : Fld) (v u i : Nat) : (s.setFld f v u i).acc = s.acc := rfl
@[simp] theorem State.setFld_treg (s : State) (f : Fld) (v u i : Nat) : (s.setFld f v u i).treg = s.treg := rfl
@[simp] theorem State.setFld_tregPoison (s : State) (f : Fld) (v u i : Nat) : (s.setFld f v u i).tregPoison = s.tregPoison := rfl
@[simp] theorem State.setFld_seg (s : State) (f : Fld) (v u i : Nat) : (s.setFld f v u i).seg = s.seg := rfl
@[simp] theorem State.setFld_tables (s : State) (f : Fld) (v u i : Nat) : (s.setFld f v u i).tables = s.tables := rfl
@[simp] theorem State.setFld_dsp (s : State) (f : Fld) (v u i : Nat) : (s.setFld f v u i).dsp = s.dsp := rfl
@[simp] theorem State.setFld_scc (s : State) (f : Fld) (v u i : Nat) : (s.setFld f v u i).scc = s.scc := rfl
@[simp] theorem State.setFld_dma (s : State) (f : Fld) (v u i : Nat) : (s.setFld f v u i).dma = s.dma := rfl
@[simp] theorem State.setFld_mapList (s : State) (f : Fld) (v u i : Nat) : (s.setFld f v u i).mapList = s.mapList := rfl
@[simp] theorem State.setFld_mapRetry (s : State) (f : Fld) (v u i : Nat) : (s.setFld f v u i).mapRetry = s.mapRetry := rfl
@[simp] theorem State.setFld_fltLog (s : State) (f : Fld) (v u i : Nat) : (s.setFld f v u i).fltLog = s.fltLog := rfl
@[simp] theorem State.setFld_repairRetry (s : State) (f : Fld) (v u i : Nat) : (s.setFld f v u i).repairRetry = s.repairRetry := rfl
@[simp] theorem State.setFld_tackDevice (s : State) (f : Fld) (v u i : Nat) : (s.setFld f v u i).tackDevice = s.tackDevice := rfl
@[simp] theorem State.setFld_tackCompat (s : State) (f : Fld) (v u i : Nat) : (s.setFld f v u i).tackCompat = s.tackCompat := rfl
@[simp] theorem State.setFld_tackPdk (s : State) (f : Fld) (v u i : Nat) : (s.setFld f v u i).tackPdk = s.tackPdk := rfl
@[simp] theorem State.setFld_granules (s : State) (f : Fld) (v u i : Nat) : (s.setFld f v u i).granules = s.granules := rfl
@[simp] theorem State.setFld_fwTable (s : State) (f : Fld) (v u i : Nat) : (s.setFld f v u i).fwTable = s.fwTable := rfl
@[simp] theorem State.setFld_grooms (s : State) (f : Fld) (v u i : Nat) : (s.setFld f v u i).grooms = s.grooms := rfl
@[simp] theorem State.setFld_gctx (s : State) (f : Fld) (v u i : Nat) : (s.setFld f v u i).gctx = s.gctx := rfl
@[simp] theorem State.setFld_chain (s : State) (f : Fld) (v u i : Nat) : (s.setFld f v u i).chain = s.chain := rfl
@[simp] theorem State.setFld_shorts (s : State) (f : Fld) (v u i : Nat) : (s.setFld f v u i).shorts = s.shorts := rfl
@[simp] theorem State.setFld_fns (s : State) (f : Fld) (v u i : Nat) : (s.setFld f v u i).fns = s.fns := rfl
@[simp] theorem State.setFld_atc (s : State) (f : Fld) (v u i : Nat) : (s.setFld f v u i).atc = s.atc := rfl
@[simp] theorem State.setFld_xlReqs (s : State) (f : Fld) (v u i : Nat) : (s.setFld f v u i).xlReqs = s.xlReqs := rfl
@[simp] theorem State.setFld_pageReqs (s : State) (f : Fld) (v u i : Nat) : (s.setFld f v u i).pageReqs = s.pageReqs := rfl
@[simp] theorem State.setFld_invPend (s : State) (f : Fld) (v u i : Nat) : (s.setFld f v u i).invPend = s.invPend := rfl
@[simp] theorem State.setFld_atsFault (s : State) (f : Fld) (v u i : Nat) : (s.setFld f v u i).atsFault = s.atsFault := rfl
@[simp] theorem State.setFld_ledger (s : State) (f : Fld) (v u i : Nat) : (s.setFld f v u i).ledger = s.ledger := rfl
@[simp] theorem State.setFld_pdks (s : State) (f : Fld) (v u i : Nat) : (s.setFld f v u i).pdks = s.pdks := rfl
@[simp] theorem State.setFld_stepMsgs (s : State) (f : Fld) (v u i : Nat) : (s.setFld f v u i).stepMsgs = s.stepMsgs := rfl
@[simp] theorem State.setFld_msixTab (s : State) (f : Fld) (v u i : Nat) : (s.setFld f v u i).msixTab = s.msixTab := rfl
@[simp] theorem State.setFld_ports (s : State) (f : Fld) (v u i : Nat) : (s.setFld f v u i).ports = s.ports := rfl
@[simp] theorem State.setFld_exp (s : State) (f : Fld) (v u i : Nat) : (s.setFld f v u i).exp = s.exp := rfl
@[simp] theorem State.setFld_xtags (s : State) (f : Fld) (v u i : Nat) : (s.setFld f v u i).xtags = s.xtags := rfl
@[simp] theorem State.setFld_board (s : State) (f : Fld) (v u i : Nat) : (s.setFld f v u i).board = s.board := rfl
@[simp] theorem State.setFld_dqTail (s : State) (f : Fld) (v u i : Nat) : (s.setFld f v u i).dqTail = s.dqTail := rfl
@[simp] theorem State.setFld_fltSerial (s : State) (f : Fld) (v u i : Nat) : (s.setFld f v u i).fltSerial = s.fltSerial := rfl
@[simp] theorem State.setFld_msixPend (s : State) (f : Fld) (v u i : Nat) : (s.setFld f v u i).msixPend = s.msixPend := rfl
@[simp] theorem State.setFld_msixUnmasked (s : State) (f : Fld) (v u i : Nat) : (s.setFld f v u i).msixUnmasked = s.msixUnmasked := rfl
@[simp] theorem State.setFld_msixEn (s : State) (f : Fld) (v u i : Nat) : (s.setFld f v u i).msixEn = s.msixEn := rfl
@[simp] theorem State.setFld_fltQueue (s : State) (f : Fld) (v u i : Nat) : (s.setFld f v u i).fltQueue = s.fltQueue := rfl
@[simp] theorem State.setFld_captured (s : State) (f : Fld) (v u i : Nat) : (s.setFld f v u i).captured = s.captured := rfl
@[simp] theorem State.setFld_bus (s : State) (f : Fld) (v u i : Nat) : (s.setFld f v u i).bus = s.bus := rfl
@[simp] theorem State.setFld_free (s : State) (f : Fld) (v u i : Nat) : (s.setFld f v u i).free = s.free := rfl
@[simp] theorem State.setFld_pending (s : State) (f : Fld) (v u i : Nat) : (s.setFld f v u i).pending = s.pending := rfl
@[simp] theorem State.setFlag_part (s : State) (f : Fld) (u i : Nat) : (s.setFlag f u i).part = s.part := rfl
@[simp] theorem State.setFlag_tb (s : State) (f : Fld) (u i : Nat) : (s.setFlag f u i).tb = s.tb := rfl
@[simp] theorem State.setFlag_mem (s : State) (f : Fld) (u i : Nat) : (s.setFlag f u i).mem = s.mem := rfl
@[simp] theorem State.setFlag_checks (s : State) (f : Fld) (u i : Nat) : (s.setFlag f u i).checks = s.checks := rfl
@[simp] theorem State.setFlag_hostPoison (s : State) (f : Fld) (u i : Nat) : (s.setFlag f u i).hostPoison = s.hostPoison := rfl
@[simp] theorem State.setFlag_tierWas (s : State) (f : Fld) (u i : Nat) : (s.setFlag f u i).tierWas = s.tierWas := rfl
@[simp] theorem State.setFlag_msixFnMask (s : State) (f : Fld) (u i : Nat) : (s.setFlag f u i).msixFnMask = s.msixFnMask := rfl
@[simp] theorem State.setFlag_aer (s : State) (f : Fld) (u i : Nat) : (s.setFlag f u i).aer = s.aer := rfl
@[simp] theorem State.setFlag_wregs (s : State) (f : Fld) (u i : Nat) : (s.setFlag f u i).wregs = s.wregs := rfl
@[simp] theorem State.setFlag_xnode (s : State) (f : Fld) (u i : Nat) : (s.setFlag f u i).xnode = s.xnode := rfl
@[simp] theorem State.setFlag_lqTurn (s : State) (f : Fld) (u i : Nat) : (s.setFlag f u i).lqTurn = s.lqTurn := rfl
@[simp] theorem State.setFlag_tabAt (s : State) (f : Fld) (u i : Nat) : (s.setFlag f u i).tabAt = s.tabAt := rfl
@[simp] theorem State.setFlag_chans (s : State) (f : Fld) (u i : Nat) : (s.setFlag f u i).chans = s.chans := rfl
@[simp] theorem State.setFlag_lpQueue (s : State) (f : Fld) (u i : Nat) : (s.setFlag f u i).lpQueue = s.lpQueue := rfl
@[simp] theorem State.setFlag_lpScrub (s : State) (f : Fld) (u i : Nat) : (s.setFlag f u i).lpScrub = s.lpScrub := rfl
@[simp] theorem State.setFlag_corrected (s : State) (f : Fld) (u i : Nat) : (s.setFlag f u i).corrected = s.corrected := rfl
@[simp] theorem State.setFlag_repairTable (s : State) (f : Fld) (u i : Nat) : (s.setFlag f u i).repairTable = s.repairTable := rfl
@[simp] theorem State.setFlag_softRows (s : State) (f : Fld) (u i : Nat) : (s.setFlag f u i).softRows = s.softRows := rfl
@[simp] theorem State.setFlag_fusedRows (s : State) (f : Fld) (u i : Nat) : (s.setFlag f u i).fusedRows = s.fusedRows := rfl
@[simp] theorem State.setFlag_acc (s : State) (f : Fld) (u i : Nat) : (s.setFlag f u i).acc = s.acc := rfl
@[simp] theorem State.setFlag_treg (s : State) (f : Fld) (u i : Nat) : (s.setFlag f u i).treg = s.treg := rfl
@[simp] theorem State.setFlag_tregPoison (s : State) (f : Fld) (u i : Nat) : (s.setFlag f u i).tregPoison = s.tregPoison := rfl
@[simp] theorem State.setFlag_seg (s : State) (f : Fld) (u i : Nat) : (s.setFlag f u i).seg = s.seg := rfl
@[simp] theorem State.setFlag_tables (s : State) (f : Fld) (u i : Nat) : (s.setFlag f u i).tables = s.tables := rfl
@[simp] theorem State.setFlag_dsp (s : State) (f : Fld) (u i : Nat) : (s.setFlag f u i).dsp = s.dsp := rfl
@[simp] theorem State.setFlag_scc (s : State) (f : Fld) (u i : Nat) : (s.setFlag f u i).scc = s.scc := rfl
@[simp] theorem State.setFlag_dma (s : State) (f : Fld) (u i : Nat) : (s.setFlag f u i).dma = s.dma := rfl
@[simp] theorem State.setFlag_mapList (s : State) (f : Fld) (u i : Nat) : (s.setFlag f u i).mapList = s.mapList := rfl
@[simp] theorem State.setFlag_mapRetry (s : State) (f : Fld) (u i : Nat) : (s.setFlag f u i).mapRetry = s.mapRetry := rfl
@[simp] theorem State.setFlag_fltLog (s : State) (f : Fld) (u i : Nat) : (s.setFlag f u i).fltLog = s.fltLog := rfl
@[simp] theorem State.setFlag_repairRetry (s : State) (f : Fld) (u i : Nat) : (s.setFlag f u i).repairRetry = s.repairRetry := rfl
@[simp] theorem State.setFlag_tackDevice (s : State) (f : Fld) (u i : Nat) : (s.setFlag f u i).tackDevice = s.tackDevice := rfl
@[simp] theorem State.setFlag_tackCompat (s : State) (f : Fld) (u i : Nat) : (s.setFlag f u i).tackCompat = s.tackCompat := rfl
@[simp] theorem State.setFlag_tackPdk (s : State) (f : Fld) (u i : Nat) : (s.setFlag f u i).tackPdk = s.tackPdk := rfl
@[simp] theorem State.setFlag_granules (s : State) (f : Fld) (u i : Nat) : (s.setFlag f u i).granules = s.granules := rfl
@[simp] theorem State.setFlag_fwTable (s : State) (f : Fld) (u i : Nat) : (s.setFlag f u i).fwTable = s.fwTable := rfl
@[simp] theorem State.setFlag_grooms (s : State) (f : Fld) (u i : Nat) : (s.setFlag f u i).grooms = s.grooms := rfl
@[simp] theorem State.setFlag_gctx (s : State) (f : Fld) (u i : Nat) : (s.setFlag f u i).gctx = s.gctx := rfl
@[simp] theorem State.setFlag_chain (s : State) (f : Fld) (u i : Nat) : (s.setFlag f u i).chain = s.chain := rfl
@[simp] theorem State.setFlag_shorts (s : State) (f : Fld) (u i : Nat) : (s.setFlag f u i).shorts = s.shorts := rfl
@[simp] theorem State.setFlag_fns (s : State) (f : Fld) (u i : Nat) : (s.setFlag f u i).fns = s.fns := rfl
@[simp] theorem State.setFlag_atc (s : State) (f : Fld) (u i : Nat) : (s.setFlag f u i).atc = s.atc := rfl
@[simp] theorem State.setFlag_xlReqs (s : State) (f : Fld) (u i : Nat) : (s.setFlag f u i).xlReqs = s.xlReqs := rfl
@[simp] theorem State.setFlag_pageReqs (s : State) (f : Fld) (u i : Nat) : (s.setFlag f u i).pageReqs = s.pageReqs := rfl
@[simp] theorem State.setFlag_invPend (s : State) (f : Fld) (u i : Nat) : (s.setFlag f u i).invPend = s.invPend := rfl
@[simp] theorem State.setFlag_atsFault (s : State) (f : Fld) (u i : Nat) : (s.setFlag f u i).atsFault = s.atsFault := rfl
@[simp] theorem State.setFlag_ledger (s : State) (f : Fld) (u i : Nat) : (s.setFlag f u i).ledger = s.ledger := rfl
@[simp] theorem State.setFlag_pdks (s : State) (f : Fld) (u i : Nat) : (s.setFlag f u i).pdks = s.pdks := rfl
@[simp] theorem State.setFlag_stepMsgs (s : State) (f : Fld) (u i : Nat) : (s.setFlag f u i).stepMsgs = s.stepMsgs := rfl
@[simp] theorem State.setFlag_msixTab (s : State) (f : Fld) (u i : Nat) : (s.setFlag f u i).msixTab = s.msixTab := rfl
@[simp] theorem State.setFlag_ports (s : State) (f : Fld) (u i : Nat) : (s.setFlag f u i).ports = s.ports := rfl
@[simp] theorem State.setFlag_exp (s : State) (f : Fld) (u i : Nat) : (s.setFlag f u i).exp = s.exp := rfl
@[simp] theorem State.setFlag_xtags (s : State) (f : Fld) (u i : Nat) : (s.setFlag f u i).xtags = s.xtags := rfl
@[simp] theorem State.setFlag_board (s : State) (f : Fld) (u i : Nat) : (s.setFlag f u i).board = s.board := rfl
@[simp] theorem State.setFlag_dqTail (s : State) (f : Fld) (u i : Nat) : (s.setFlag f u i).dqTail = s.dqTail := rfl
@[simp] theorem State.setFlag_fltSerial (s : State) (f : Fld) (u i : Nat) : (s.setFlag f u i).fltSerial = s.fltSerial := rfl
@[simp] theorem State.setFlag_msixPend (s : State) (f : Fld) (u i : Nat) : (s.setFlag f u i).msixPend = s.msixPend := rfl
@[simp] theorem State.setFlag_msixUnmasked (s : State) (f : Fld) (u i : Nat) : (s.setFlag f u i).msixUnmasked = s.msixUnmasked := rfl
@[simp] theorem State.setFlag_msixEn (s : State) (f : Fld) (u i : Nat) : (s.setFlag f u i).msixEn = s.msixEn := rfl
@[simp] theorem State.setFlag_fltQueue (s : State) (f : Fld) (u i : Nat) : (s.setFlag f u i).fltQueue = s.fltQueue := rfl
@[simp] theorem State.setFlag_captured (s : State) (f : Fld) (u i : Nat) : (s.setFlag f u i).captured = s.captured := rfl
@[simp] theorem State.setFlag_bus (s : State) (f : Fld) (u i : Nat) : (s.setFlag f u i).bus = s.bus := rfl
@[simp] theorem State.setFlag_free (s : State) (f : Fld) (u i : Nat) : (s.setFlag f u i).free = s.free := rfl
@[simp] theorem State.setFlag_pending (s : State) (f : Fld) (u i : Nat) : (s.setFlag f u i).pending = s.pending := rfl
@[simp] theorem State.bump_part (s : State) (f : Fld) (n u i : Nat) : (s.bump f n u i).part = s.part := rfl
@[simp] theorem State.bump_tb (s : State) (f : Fld) (n u i : Nat) : (s.bump f n u i).tb = s.tb := rfl
@[simp] theorem State.bump_mem (s : State) (f : Fld) (n u i : Nat) : (s.bump f n u i).mem = s.mem := rfl
@[simp] theorem State.bump_checks (s : State) (f : Fld) (n u i : Nat) : (s.bump f n u i).checks = s.checks := rfl
@[simp] theorem State.bump_hostPoison (s : State) (f : Fld) (n u i : Nat) : (s.bump f n u i).hostPoison = s.hostPoison := rfl
@[simp] theorem State.bump_tierWas (s : State) (f : Fld) (n u i : Nat) : (s.bump f n u i).tierWas = s.tierWas := rfl
@[simp] theorem State.bump_msixFnMask (s : State) (f : Fld) (n u i : Nat) : (s.bump f n u i).msixFnMask = s.msixFnMask := rfl
@[simp] theorem State.bump_aer (s : State) (f : Fld) (n u i : Nat) : (s.bump f n u i).aer = s.aer := rfl
@[simp] theorem State.bump_wregs (s : State) (f : Fld) (n u i : Nat) : (s.bump f n u i).wregs = s.wregs := rfl
@[simp] theorem State.bump_xnode (s : State) (f : Fld) (n u i : Nat) : (s.bump f n u i).xnode = s.xnode := rfl
@[simp] theorem State.bump_lqTurn (s : State) (f : Fld) (n u i : Nat) : (s.bump f n u i).lqTurn = s.lqTurn := rfl
@[simp] theorem State.bump_tabAt (s : State) (f : Fld) (n u i : Nat) : (s.bump f n u i).tabAt = s.tabAt := rfl
@[simp] theorem State.bump_chans (s : State) (f : Fld) (n u i : Nat) : (s.bump f n u i).chans = s.chans := rfl
@[simp] theorem State.bump_lpQueue (s : State) (f : Fld) (n u i : Nat) : (s.bump f n u i).lpQueue = s.lpQueue := rfl
@[simp] theorem State.bump_lpScrub (s : State) (f : Fld) (n u i : Nat) : (s.bump f n u i).lpScrub = s.lpScrub := rfl
@[simp] theorem State.bump_corrected (s : State) (f : Fld) (n u i : Nat) : (s.bump f n u i).corrected = s.corrected := rfl
@[simp] theorem State.bump_repairTable (s : State) (f : Fld) (n u i : Nat) : (s.bump f n u i).repairTable = s.repairTable := rfl
@[simp] theorem State.bump_softRows (s : State) (f : Fld) (n u i : Nat) : (s.bump f n u i).softRows = s.softRows := rfl
@[simp] theorem State.bump_fusedRows (s : State) (f : Fld) (n u i : Nat) : (s.bump f n u i).fusedRows = s.fusedRows := rfl
@[simp] theorem State.bump_acc (s : State) (f : Fld) (n u i : Nat) : (s.bump f n u i).acc = s.acc := rfl
@[simp] theorem State.bump_treg (s : State) (f : Fld) (n u i : Nat) : (s.bump f n u i).treg = s.treg := rfl
@[simp] theorem State.bump_tregPoison (s : State) (f : Fld) (n u i : Nat) : (s.bump f n u i).tregPoison = s.tregPoison := rfl
@[simp] theorem State.bump_seg (s : State) (f : Fld) (n u i : Nat) : (s.bump f n u i).seg = s.seg := rfl
@[simp] theorem State.bump_tables (s : State) (f : Fld) (n u i : Nat) : (s.bump f n u i).tables = s.tables := rfl
@[simp] theorem State.bump_dsp (s : State) (f : Fld) (n u i : Nat) : (s.bump f n u i).dsp = s.dsp := rfl
@[simp] theorem State.bump_scc (s : State) (f : Fld) (n u i : Nat) : (s.bump f n u i).scc = s.scc := rfl
@[simp] theorem State.bump_dma (s : State) (f : Fld) (n u i : Nat) : (s.bump f n u i).dma = s.dma := rfl
@[simp] theorem State.bump_mapList (s : State) (f : Fld) (n u i : Nat) : (s.bump f n u i).mapList = s.mapList := rfl
@[simp] theorem State.bump_mapRetry (s : State) (f : Fld) (n u i : Nat) : (s.bump f n u i).mapRetry = s.mapRetry := rfl
@[simp] theorem State.bump_fltLog (s : State) (f : Fld) (n u i : Nat) : (s.bump f n u i).fltLog = s.fltLog := rfl
@[simp] theorem State.bump_repairRetry (s : State) (f : Fld) (n u i : Nat) : (s.bump f n u i).repairRetry = s.repairRetry := rfl
@[simp] theorem State.bump_tackDevice (s : State) (f : Fld) (n u i : Nat) : (s.bump f n u i).tackDevice = s.tackDevice := rfl
@[simp] theorem State.bump_tackCompat (s : State) (f : Fld) (n u i : Nat) : (s.bump f n u i).tackCompat = s.tackCompat := rfl
@[simp] theorem State.bump_tackPdk (s : State) (f : Fld) (n u i : Nat) : (s.bump f n u i).tackPdk = s.tackPdk := rfl
@[simp] theorem State.bump_granules (s : State) (f : Fld) (n u i : Nat) : (s.bump f n u i).granules = s.granules := rfl
@[simp] theorem State.bump_fwTable (s : State) (f : Fld) (n u i : Nat) : (s.bump f n u i).fwTable = s.fwTable := rfl
@[simp] theorem State.bump_grooms (s : State) (f : Fld) (n u i : Nat) : (s.bump f n u i).grooms = s.grooms := rfl
@[simp] theorem State.bump_gctx (s : State) (f : Fld) (n u i : Nat) : (s.bump f n u i).gctx = s.gctx := rfl
@[simp] theorem State.bump_chain (s : State) (f : Fld) (n u i : Nat) : (s.bump f n u i).chain = s.chain := rfl
@[simp] theorem State.bump_shorts (s : State) (f : Fld) (n u i : Nat) : (s.bump f n u i).shorts = s.shorts := rfl
@[simp] theorem State.bump_fns (s : State) (f : Fld) (n u i : Nat) : (s.bump f n u i).fns = s.fns := rfl
@[simp] theorem State.bump_atc (s : State) (f : Fld) (n u i : Nat) : (s.bump f n u i).atc = s.atc := rfl
@[simp] theorem State.bump_xlReqs (s : State) (f : Fld) (n u i : Nat) : (s.bump f n u i).xlReqs = s.xlReqs := rfl
@[simp] theorem State.bump_pageReqs (s : State) (f : Fld) (n u i : Nat) : (s.bump f n u i).pageReqs = s.pageReqs := rfl
@[simp] theorem State.bump_invPend (s : State) (f : Fld) (n u i : Nat) : (s.bump f n u i).invPend = s.invPend := rfl
@[simp] theorem State.bump_atsFault (s : State) (f : Fld) (n u i : Nat) : (s.bump f n u i).atsFault = s.atsFault := rfl
@[simp] theorem State.bump_ledger (s : State) (f : Fld) (n u i : Nat) : (s.bump f n u i).ledger = s.ledger := rfl
@[simp] theorem State.bump_pdks (s : State) (f : Fld) (n u i : Nat) : (s.bump f n u i).pdks = s.pdks := rfl
@[simp] theorem State.bump_stepMsgs (s : State) (f : Fld) (n u i : Nat) : (s.bump f n u i).stepMsgs = s.stepMsgs := rfl
@[simp] theorem State.bump_msixTab (s : State) (f : Fld) (n u i : Nat) : (s.bump f n u i).msixTab = s.msixTab := rfl
@[simp] theorem State.bump_ports (s : State) (f : Fld) (n u i : Nat) : (s.bump f n u i).ports = s.ports := rfl
@[simp] theorem State.bump_exp (s : State) (f : Fld) (n u i : Nat) : (s.bump f n u i).exp = s.exp := rfl
@[simp] theorem State.bump_xtags (s : State) (f : Fld) (n u i : Nat) : (s.bump f n u i).xtags = s.xtags := rfl
@[simp] theorem State.bump_board (s : State) (f : Fld) (n u i : Nat) : (s.bump f n u i).board = s.board := rfl
@[simp] theorem State.bump_dqTail (s : State) (f : Fld) (n u i : Nat) : (s.bump f n u i).dqTail = s.dqTail := rfl
@[simp] theorem State.bump_fltSerial (s : State) (f : Fld) (n u i : Nat) : (s.bump f n u i).fltSerial = s.fltSerial := rfl
@[simp] theorem State.bump_msixPend (s : State) (f : Fld) (n u i : Nat) : (s.bump f n u i).msixPend = s.msixPend := rfl
@[simp] theorem State.bump_msixUnmasked (s : State) (f : Fld) (n u i : Nat) : (s.bump f n u i).msixUnmasked = s.msixUnmasked := rfl
@[simp] theorem State.bump_msixEn (s : State) (f : Fld) (n u i : Nat) : (s.bump f n u i).msixEn = s.msixEn := rfl
@[simp] theorem State.bump_fltQueue (s : State) (f : Fld) (n u i : Nat) : (s.bump f n u i).fltQueue = s.fltQueue := rfl
@[simp] theorem State.bump_captured (s : State) (f : Fld) (n u i : Nat) : (s.bump f n u i).captured = s.captured := rfl
@[simp] theorem State.bump_bus (s : State) (f : Fld) (n u i : Nat) : (s.bump f n u i).bus = s.bus := rfl
@[simp] theorem State.bump_free (s : State) (f : Fld) (n u i : Nat) : (s.bump f n u i).free = s.free := rfl
@[simp] theorem State.bump_pending (s : State) (f : Fld) (n u i : Nat) : (s.bump f n u i).pending = s.pending := rfl
@[simp] theorem State.count_part (s : State) (f : Fld) (n u i : Nat) : (s.count f n u i).part = s.part := rfl
@[simp] theorem State.count_tb (s : State) (f : Fld) (n u i : Nat) : (s.count f n u i).tb = s.tb := rfl
@[simp] theorem State.count_mem (s : State) (f : Fld) (n u i : Nat) : (s.count f n u i).mem = s.mem := rfl
@[simp] theorem State.count_checks (s : State) (f : Fld) (n u i : Nat) : (s.count f n u i).checks = s.checks := rfl
@[simp] theorem State.count_hostPoison (s : State) (f : Fld) (n u i : Nat) : (s.count f n u i).hostPoison = s.hostPoison := rfl
@[simp] theorem State.count_tierWas (s : State) (f : Fld) (n u i : Nat) : (s.count f n u i).tierWas = s.tierWas := rfl
@[simp] theorem State.count_msixFnMask (s : State) (f : Fld) (n u i : Nat) : (s.count f n u i).msixFnMask = s.msixFnMask := rfl
@[simp] theorem State.count_aer (s : State) (f : Fld) (n u i : Nat) : (s.count f n u i).aer = s.aer := rfl
@[simp] theorem State.count_wregs (s : State) (f : Fld) (n u i : Nat) : (s.count f n u i).wregs = s.wregs := rfl
@[simp] theorem State.count_xnode (s : State) (f : Fld) (n u i : Nat) : (s.count f n u i).xnode = s.xnode := rfl
@[simp] theorem State.count_lqTurn (s : State) (f : Fld) (n u i : Nat) : (s.count f n u i).lqTurn = s.lqTurn := rfl
@[simp] theorem State.count_tabAt (s : State) (f : Fld) (n u i : Nat) : (s.count f n u i).tabAt = s.tabAt := rfl
@[simp] theorem State.count_chans (s : State) (f : Fld) (n u i : Nat) : (s.count f n u i).chans = s.chans := rfl
@[simp] theorem State.count_lpQueue (s : State) (f : Fld) (n u i : Nat) : (s.count f n u i).lpQueue = s.lpQueue := rfl
@[simp] theorem State.count_lpScrub (s : State) (f : Fld) (n u i : Nat) : (s.count f n u i).lpScrub = s.lpScrub := rfl
@[simp] theorem State.count_corrected (s : State) (f : Fld) (n u i : Nat) : (s.count f n u i).corrected = s.corrected := rfl
@[simp] theorem State.count_repairTable (s : State) (f : Fld) (n u i : Nat) : (s.count f n u i).repairTable = s.repairTable := rfl
@[simp] theorem State.count_softRows (s : State) (f : Fld) (n u i : Nat) : (s.count f n u i).softRows = s.softRows := rfl
@[simp] theorem State.count_fusedRows (s : State) (f : Fld) (n u i : Nat) : (s.count f n u i).fusedRows = s.fusedRows := rfl
@[simp] theorem State.count_acc (s : State) (f : Fld) (n u i : Nat) : (s.count f n u i).acc = s.acc := rfl
@[simp] theorem State.count_treg (s : State) (f : Fld) (n u i : Nat) : (s.count f n u i).treg = s.treg := rfl
@[simp] theorem State.count_tregPoison (s : State) (f : Fld) (n u i : Nat) : (s.count f n u i).tregPoison = s.tregPoison := rfl
@[simp] theorem State.count_seg (s : State) (f : Fld) (n u i : Nat) : (s.count f n u i).seg = s.seg := rfl
@[simp] theorem State.count_tables (s : State) (f : Fld) (n u i : Nat) : (s.count f n u i).tables = s.tables := rfl
@[simp] theorem State.count_dsp (s : State) (f : Fld) (n u i : Nat) : (s.count f n u i).dsp = s.dsp := rfl
@[simp] theorem State.count_scc (s : State) (f : Fld) (n u i : Nat) : (s.count f n u i).scc = s.scc := rfl
@[simp] theorem State.count_dma (s : State) (f : Fld) (n u i : Nat) : (s.count f n u i).dma = s.dma := rfl
@[simp] theorem State.count_mapList (s : State) (f : Fld) (n u i : Nat) : (s.count f n u i).mapList = s.mapList := rfl
@[simp] theorem State.count_mapRetry (s : State) (f : Fld) (n u i : Nat) : (s.count f n u i).mapRetry = s.mapRetry := rfl
@[simp] theorem State.count_fltLog (s : State) (f : Fld) (n u i : Nat) : (s.count f n u i).fltLog = s.fltLog := rfl
@[simp] theorem State.count_repairRetry (s : State) (f : Fld) (n u i : Nat) : (s.count f n u i).repairRetry = s.repairRetry := rfl
@[simp] theorem State.count_tackDevice (s : State) (f : Fld) (n u i : Nat) : (s.count f n u i).tackDevice = s.tackDevice := rfl
@[simp] theorem State.count_tackCompat (s : State) (f : Fld) (n u i : Nat) : (s.count f n u i).tackCompat = s.tackCompat := rfl
@[simp] theorem State.count_tackPdk (s : State) (f : Fld) (n u i : Nat) : (s.count f n u i).tackPdk = s.tackPdk := rfl
@[simp] theorem State.count_granules (s : State) (f : Fld) (n u i : Nat) : (s.count f n u i).granules = s.granules := rfl
@[simp] theorem State.count_fwTable (s : State) (f : Fld) (n u i : Nat) : (s.count f n u i).fwTable = s.fwTable := rfl
@[simp] theorem State.count_grooms (s : State) (f : Fld) (n u i : Nat) : (s.count f n u i).grooms = s.grooms := rfl
@[simp] theorem State.count_gctx (s : State) (f : Fld) (n u i : Nat) : (s.count f n u i).gctx = s.gctx := rfl
@[simp] theorem State.count_chain (s : State) (f : Fld) (n u i : Nat) : (s.count f n u i).chain = s.chain := rfl
@[simp] theorem State.count_shorts (s : State) (f : Fld) (n u i : Nat) : (s.count f n u i).shorts = s.shorts := rfl
@[simp] theorem State.count_fns (s : State) (f : Fld) (n u i : Nat) : (s.count f n u i).fns = s.fns := rfl
@[simp] theorem State.count_atc (s : State) (f : Fld) (n u i : Nat) : (s.count f n u i).atc = s.atc := rfl
@[simp] theorem State.count_xlReqs (s : State) (f : Fld) (n u i : Nat) : (s.count f n u i).xlReqs = s.xlReqs := rfl
@[simp] theorem State.count_pageReqs (s : State) (f : Fld) (n u i : Nat) : (s.count f n u i).pageReqs = s.pageReqs := rfl
@[simp] theorem State.count_invPend (s : State) (f : Fld) (n u i : Nat) : (s.count f n u i).invPend = s.invPend := rfl
@[simp] theorem State.count_atsFault (s : State) (f : Fld) (n u i : Nat) : (s.count f n u i).atsFault = s.atsFault := rfl
@[simp] theorem State.count_ledger (s : State) (f : Fld) (n u i : Nat) : (s.count f n u i).ledger = s.ledger := rfl
@[simp] theorem State.count_pdks (s : State) (f : Fld) (n u i : Nat) : (s.count f n u i).pdks = s.pdks := rfl
@[simp] theorem State.count_stepMsgs (s : State) (f : Fld) (n u i : Nat) : (s.count f n u i).stepMsgs = s.stepMsgs := rfl
@[simp] theorem State.count_msixTab (s : State) (f : Fld) (n u i : Nat) : (s.count f n u i).msixTab = s.msixTab := rfl
@[simp] theorem State.count_ports (s : State) (f : Fld) (n u i : Nat) : (s.count f n u i).ports = s.ports := rfl
@[simp] theorem State.count_exp (s : State) (f : Fld) (n u i : Nat) : (s.count f n u i).exp = s.exp := rfl
@[simp] theorem State.count_xtags (s : State) (f : Fld) (n u i : Nat) : (s.count f n u i).xtags = s.xtags := rfl
@[simp] theorem State.count_board (s : State) (f : Fld) (n u i : Nat) : (s.count f n u i).board = s.board := rfl
@[simp] theorem State.count_dqTail (s : State) (f : Fld) (n u i : Nat) : (s.count f n u i).dqTail = s.dqTail := rfl
@[simp] theorem State.count_fltSerial (s : State) (f : Fld) (n u i : Nat) : (s.count f n u i).fltSerial = s.fltSerial := rfl
@[simp] theorem State.count_msixPend (s : State) (f : Fld) (n u i : Nat) : (s.count f n u i).msixPend = s.msixPend := rfl
@[simp] theorem State.count_msixUnmasked (s : State) (f : Fld) (n u i : Nat) : (s.count f n u i).msixUnmasked = s.msixUnmasked := rfl
@[simp] theorem State.count_msixEn (s : State) (f : Fld) (n u i : Nat) : (s.count f n u i).msixEn = s.msixEn := rfl
@[simp] theorem State.count_fltQueue (s : State) (f : Fld) (n u i : Nat) : (s.count f n u i).fltQueue = s.fltQueue := rfl
@[simp] theorem State.count_captured (s : State) (f : Fld) (n u i : Nat) : (s.count f n u i).captured = s.captured := rfl
@[simp] theorem State.count_bus (s : State) (f : Fld) (n u i : Nat) : (s.count f n u i).bus = s.bus := rfl
@[simp] theorem State.count_free (s : State) (f : Fld) (n u i : Nat) : (s.count f n u i).free = s.free := rfl
@[simp] theorem State.count_pending (s : State) (f : Fld) (n u i : Nat) : (s.count f n u i).pending = s.pending := rfl
@[simp] theorem State.clr_part (s : State) (r : Loc) (u i : Nat) : (s.clr r u i).part = s.part := rfl
@[simp] theorem State.clr_tb (s : State) (r : Loc) (u i : Nat) : (s.clr r u i).tb = s.tb := rfl
@[simp] theorem State.clr_mem (s : State) (r : Loc) (u i : Nat) : (s.clr r u i).mem = s.mem := rfl
@[simp] theorem State.clr_checks (s : State) (r : Loc) (u i : Nat) : (s.clr r u i).checks = s.checks := rfl
@[simp] theorem State.clr_hostPoison (s : State) (r : Loc) (u i : Nat) : (s.clr r u i).hostPoison = s.hostPoison := rfl
@[simp] theorem State.clr_tierWas (s : State) (r : Loc) (u i : Nat) : (s.clr r u i).tierWas = s.tierWas := rfl
@[simp] theorem State.clr_msixFnMask (s : State) (r : Loc) (u i : Nat) : (s.clr r u i).msixFnMask = s.msixFnMask := rfl
@[simp] theorem State.clr_aer (s : State) (r : Loc) (u i : Nat) : (s.clr r u i).aer = s.aer := rfl
@[simp] theorem State.clr_wregs (s : State) (r : Loc) (u i : Nat) : (s.clr r u i).wregs = s.wregs := rfl
@[simp] theorem State.clr_xnode (s : State) (r : Loc) (u i : Nat) : (s.clr r u i).xnode = s.xnode := rfl
@[simp] theorem State.clr_lqTurn (s : State) (r : Loc) (u i : Nat) : (s.clr r u i).lqTurn = s.lqTurn := rfl
@[simp] theorem State.clr_tabAt (s : State) (r : Loc) (u i : Nat) : (s.clr r u i).tabAt = s.tabAt := rfl
@[simp] theorem State.clr_chans (s : State) (r : Loc) (u i : Nat) : (s.clr r u i).chans = s.chans := rfl
@[simp] theorem State.clr_lpQueue (s : State) (r : Loc) (u i : Nat) : (s.clr r u i).lpQueue = s.lpQueue := rfl
@[simp] theorem State.clr_lpScrub (s : State) (r : Loc) (u i : Nat) : (s.clr r u i).lpScrub = s.lpScrub := rfl
@[simp] theorem State.clr_corrected (s : State) (r : Loc) (u i : Nat) : (s.clr r u i).corrected = s.corrected := rfl
@[simp] theorem State.clr_repairTable (s : State) (r : Loc) (u i : Nat) : (s.clr r u i).repairTable = s.repairTable := rfl
@[simp] theorem State.clr_softRows (s : State) (r : Loc) (u i : Nat) : (s.clr r u i).softRows = s.softRows := rfl
@[simp] theorem State.clr_fusedRows (s : State) (r : Loc) (u i : Nat) : (s.clr r u i).fusedRows = s.fusedRows := rfl
@[simp] theorem State.clr_acc (s : State) (r : Loc) (u i : Nat) : (s.clr r u i).acc = s.acc := rfl
@[simp] theorem State.clr_treg (s : State) (r : Loc) (u i : Nat) : (s.clr r u i).treg = s.treg := rfl
@[simp] theorem State.clr_tregPoison (s : State) (r : Loc) (u i : Nat) : (s.clr r u i).tregPoison = s.tregPoison := rfl
@[simp] theorem State.clr_seg (s : State) (r : Loc) (u i : Nat) : (s.clr r u i).seg = s.seg := rfl
@[simp] theorem State.clr_tables (s : State) (r : Loc) (u i : Nat) : (s.clr r u i).tables = s.tables := rfl
@[simp] theorem State.clr_dsp (s : State) (r : Loc) (u i : Nat) : (s.clr r u i).dsp = s.dsp := rfl
@[simp] theorem State.clr_scc (s : State) (r : Loc) (u i : Nat) : (s.clr r u i).scc = s.scc := rfl
@[simp] theorem State.clr_dma (s : State) (r : Loc) (u i : Nat) : (s.clr r u i).dma = s.dma := rfl
@[simp] theorem State.clr_mapList (s : State) (r : Loc) (u i : Nat) : (s.clr r u i).mapList = s.mapList := rfl
@[simp] theorem State.clr_mapRetry (s : State) (r : Loc) (u i : Nat) : (s.clr r u i).mapRetry = s.mapRetry := rfl
@[simp] theorem State.clr_fltLog (s : State) (r : Loc) (u i : Nat) : (s.clr r u i).fltLog = s.fltLog := rfl
@[simp] theorem State.clr_repairRetry (s : State) (r : Loc) (u i : Nat) : (s.clr r u i).repairRetry = s.repairRetry := rfl
@[simp] theorem State.clr_tackDevice (s : State) (r : Loc) (u i : Nat) : (s.clr r u i).tackDevice = s.tackDevice := rfl
@[simp] theorem State.clr_tackCompat (s : State) (r : Loc) (u i : Nat) : (s.clr r u i).tackCompat = s.tackCompat := rfl
@[simp] theorem State.clr_tackPdk (s : State) (r : Loc) (u i : Nat) : (s.clr r u i).tackPdk = s.tackPdk := rfl
@[simp] theorem State.clr_granules (s : State) (r : Loc) (u i : Nat) : (s.clr r u i).granules = s.granules := rfl
@[simp] theorem State.clr_fwTable (s : State) (r : Loc) (u i : Nat) : (s.clr r u i).fwTable = s.fwTable := rfl
@[simp] theorem State.clr_grooms (s : State) (r : Loc) (u i : Nat) : (s.clr r u i).grooms = s.grooms := rfl
@[simp] theorem State.clr_gctx (s : State) (r : Loc) (u i : Nat) : (s.clr r u i).gctx = s.gctx := rfl
@[simp] theorem State.clr_chain (s : State) (r : Loc) (u i : Nat) : (s.clr r u i).chain = s.chain := rfl
@[simp] theorem State.clr_shorts (s : State) (r : Loc) (u i : Nat) : (s.clr r u i).shorts = s.shorts := rfl
@[simp] theorem State.clr_fns (s : State) (r : Loc) (u i : Nat) : (s.clr r u i).fns = s.fns := rfl
@[simp] theorem State.clr_atc (s : State) (r : Loc) (u i : Nat) : (s.clr r u i).atc = s.atc := rfl
@[simp] theorem State.clr_xlReqs (s : State) (r : Loc) (u i : Nat) : (s.clr r u i).xlReqs = s.xlReqs := rfl
@[simp] theorem State.clr_pageReqs (s : State) (r : Loc) (u i : Nat) : (s.clr r u i).pageReqs = s.pageReqs := rfl
@[simp] theorem State.clr_invPend (s : State) (r : Loc) (u i : Nat) : (s.clr r u i).invPend = s.invPend := rfl
@[simp] theorem State.clr_atsFault (s : State) (r : Loc) (u i : Nat) : (s.clr r u i).atsFault = s.atsFault := rfl
@[simp] theorem State.clr_ledger (s : State) (r : Loc) (u i : Nat) : (s.clr r u i).ledger = s.ledger := rfl
@[simp] theorem State.clr_pdks (s : State) (r : Loc) (u i : Nat) : (s.clr r u i).pdks = s.pdks := rfl
@[simp] theorem State.clr_stepMsgs (s : State) (r : Loc) (u i : Nat) : (s.clr r u i).stepMsgs = s.stepMsgs := rfl
@[simp] theorem State.clr_msixTab (s : State) (r : Loc) (u i : Nat) : (s.clr r u i).msixTab = s.msixTab := rfl
@[simp] theorem State.clr_ports (s : State) (r : Loc) (u i : Nat) : (s.clr r u i).ports = s.ports := rfl
@[simp] theorem State.clr_exp (s : State) (r : Loc) (u i : Nat) : (s.clr r u i).exp = s.exp := rfl
@[simp] theorem State.clr_xtags (s : State) (r : Loc) (u i : Nat) : (s.clr r u i).xtags = s.xtags := rfl
@[simp] theorem State.clr_board (s : State) (r : Loc) (u i : Nat) : (s.clr r u i).board = s.board := rfl
@[simp] theorem State.clr_dqTail (s : State) (r : Loc) (u i : Nat) : (s.clr r u i).dqTail = s.dqTail := rfl
@[simp] theorem State.clr_fltSerial (s : State) (r : Loc) (u i : Nat) : (s.clr r u i).fltSerial = s.fltSerial := rfl
@[simp] theorem State.clr_msixPend (s : State) (r : Loc) (u i : Nat) : (s.clr r u i).msixPend = s.msixPend := rfl
@[simp] theorem State.clr_msixUnmasked (s : State) (r : Loc) (u i : Nat) : (s.clr r u i).msixUnmasked = s.msixUnmasked := rfl
@[simp] theorem State.clr_msixEn (s : State) (r : Loc) (u i : Nat) : (s.clr r u i).msixEn = s.msixEn := rfl
@[simp] theorem State.clr_fltQueue (s : State) (r : Loc) (u i : Nat) : (s.clr r u i).fltQueue = s.fltQueue := rfl
@[simp] theorem State.clr_captured (s : State) (r : Loc) (u i : Nat) : (s.clr r u i).captured = s.captured := rfl
@[simp] theorem State.clr_bus (s : State) (r : Loc) (u i : Nat) : (s.clr r u i).bus = s.bus := rfl
@[simp] theorem State.clr_free (s : State) (r : Loc) (u i : Nat) : (s.clr r u i).free = s.free := rfl
@[simp] theorem State.clr_pending (s : State) (r : Loc) (u i : Nat) : (s.clr r u i).pending = s.pending := rfl
@[simp] theorem State.setLatch_part (s : State) (st l : Nat) (v : Bool) : (s.setLatch st l v).part = s.part := rfl
@[simp] theorem State.setLatch_tb (s : State) (st l : Nat) (v : Bool) : (s.setLatch st l v).tb = s.tb := rfl
@[simp] theorem State.setLatch_mem (s : State) (st l : Nat) (v : Bool) : (s.setLatch st l v).mem = s.mem := rfl
@[simp] theorem State.setLatch_checks (s : State) (st l : Nat) (v : Bool) : (s.setLatch st l v).checks = s.checks := rfl
@[simp] theorem State.setLatch_hostPoison (s : State) (st l : Nat) (v : Bool) : (s.setLatch st l v).hostPoison = s.hostPoison := rfl
@[simp] theorem State.setLatch_tierWas (s : State) (st l : Nat) (v : Bool) : (s.setLatch st l v).tierWas = s.tierWas := rfl
@[simp] theorem State.setLatch_msixFnMask (s : State) (st l : Nat) (v : Bool) : (s.setLatch st l v).msixFnMask = s.msixFnMask := rfl
@[simp] theorem State.setLatch_aer (s : State) (st l : Nat) (v : Bool) : (s.setLatch st l v).aer = s.aer := rfl
@[simp] theorem State.setLatch_wregs (s : State) (st l : Nat) (v : Bool) : (s.setLatch st l v).wregs = s.wregs := rfl
@[simp] theorem State.setLatch_xnode (s : State) (st l : Nat) (v : Bool) : (s.setLatch st l v).xnode = s.xnode := rfl
@[simp] theorem State.setLatch_lqTurn (s : State) (st l : Nat) (v : Bool) : (s.setLatch st l v).lqTurn = s.lqTurn := rfl
@[simp] theorem State.setLatch_tabAt (s : State) (st l : Nat) (v : Bool) : (s.setLatch st l v).tabAt = s.tabAt := rfl
@[simp] theorem State.setLatch_chans (s : State) (st l : Nat) (v : Bool) : (s.setLatch st l v).chans = s.chans := rfl
@[simp] theorem State.setLatch_lpQueue (s : State) (st l : Nat) (v : Bool) : (s.setLatch st l v).lpQueue = s.lpQueue := rfl
@[simp] theorem State.setLatch_lpScrub (s : State) (st l : Nat) (v : Bool) : (s.setLatch st l v).lpScrub = s.lpScrub := rfl
@[simp] theorem State.setLatch_corrected (s : State) (st l : Nat) (v : Bool) : (s.setLatch st l v).corrected = s.corrected := rfl
@[simp] theorem State.setLatch_repairTable (s : State) (st l : Nat) (v : Bool) : (s.setLatch st l v).repairTable = s.repairTable := rfl
@[simp] theorem State.setLatch_softRows (s : State) (st l : Nat) (v : Bool) : (s.setLatch st l v).softRows = s.softRows := rfl
@[simp] theorem State.setLatch_fusedRows (s : State) (st l : Nat) (v : Bool) : (s.setLatch st l v).fusedRows = s.fusedRows := rfl
@[simp] theorem State.setLatch_acc (s : State) (st l : Nat) (v : Bool) : (s.setLatch st l v).acc = s.acc := rfl
@[simp] theorem State.setLatch_treg (s : State) (st l : Nat) (v : Bool) : (s.setLatch st l v).treg = s.treg := rfl
@[simp] theorem State.setLatch_tregPoison (s : State) (st l : Nat) (v : Bool) : (s.setLatch st l v).tregPoison = s.tregPoison := rfl
@[simp] theorem State.setLatch_seg (s : State) (st l : Nat) (v : Bool) : (s.setLatch st l v).seg = s.seg := rfl
@[simp] theorem State.setLatch_tables (s : State) (st l : Nat) (v : Bool) : (s.setLatch st l v).tables = s.tables := rfl
@[simp] theorem State.setLatch_dsp (s : State) (st l : Nat) (v : Bool) : (s.setLatch st l v).dsp = s.dsp := rfl
@[simp] theorem State.setLatch_scc (s : State) (st l : Nat) (v : Bool) : (s.setLatch st l v).scc = s.scc := rfl
@[simp] theorem State.setLatch_dma (s : State) (st l : Nat) (v : Bool) : (s.setLatch st l v).dma = s.dma := rfl
@[simp] theorem State.setLatch_mapList (s : State) (st l : Nat) (v : Bool) : (s.setLatch st l v).mapList = s.mapList := rfl
@[simp] theorem State.setLatch_mapRetry (s : State) (st l : Nat) (v : Bool) : (s.setLatch st l v).mapRetry = s.mapRetry := rfl
@[simp] theorem State.setLatch_fltLog (s : State) (st l : Nat) (v : Bool) : (s.setLatch st l v).fltLog = s.fltLog := rfl
@[simp] theorem State.setLatch_repairRetry (s : State) (st l : Nat) (v : Bool) : (s.setLatch st l v).repairRetry = s.repairRetry := rfl
@[simp] theorem State.setLatch_tackDevice (s : State) (st l : Nat) (v : Bool) : (s.setLatch st l v).tackDevice = s.tackDevice := rfl
@[simp] theorem State.setLatch_tackCompat (s : State) (st l : Nat) (v : Bool) : (s.setLatch st l v).tackCompat = s.tackCompat := rfl
@[simp] theorem State.setLatch_tackPdk (s : State) (st l : Nat) (v : Bool) : (s.setLatch st l v).tackPdk = s.tackPdk := rfl
@[simp] theorem State.setLatch_granules (s : State) (st l : Nat) (v : Bool) : (s.setLatch st l v).granules = s.granules := rfl
@[simp] theorem State.setLatch_fwTable (s : State) (st l : Nat) (v : Bool) : (s.setLatch st l v).fwTable = s.fwTable := rfl
@[simp] theorem State.setLatch_grooms (s : State) (st l : Nat) (v : Bool) : (s.setLatch st l v).grooms = s.grooms := rfl
@[simp] theorem State.setLatch_gctx (s : State) (st l : Nat) (v : Bool) : (s.setLatch st l v).gctx = s.gctx := rfl
@[simp] theorem State.setLatch_chain (s : State) (st l : Nat) (v : Bool) : (s.setLatch st l v).chain = s.chain := rfl
@[simp] theorem State.setLatch_shorts (s : State) (st l : Nat) (v : Bool) : (s.setLatch st l v).shorts = s.shorts := rfl
@[simp] theorem State.setLatch_fns (s : State) (st l : Nat) (v : Bool) : (s.setLatch st l v).fns = s.fns := rfl
@[simp] theorem State.setLatch_atc (s : State) (st l : Nat) (v : Bool) : (s.setLatch st l v).atc = s.atc := rfl
@[simp] theorem State.setLatch_xlReqs (s : State) (st l : Nat) (v : Bool) : (s.setLatch st l v).xlReqs = s.xlReqs := rfl
@[simp] theorem State.setLatch_pageReqs (s : State) (st l : Nat) (v : Bool) : (s.setLatch st l v).pageReqs = s.pageReqs := rfl
@[simp] theorem State.setLatch_invPend (s : State) (st l : Nat) (v : Bool) : (s.setLatch st l v).invPend = s.invPend := rfl
@[simp] theorem State.setLatch_atsFault (s : State) (st l : Nat) (v : Bool) : (s.setLatch st l v).atsFault = s.atsFault := rfl
@[simp] theorem State.setLatch_ledger (s : State) (st l : Nat) (v : Bool) : (s.setLatch st l v).ledger = s.ledger := rfl
@[simp] theorem State.setLatch_pdks (s : State) (st l : Nat) (v : Bool) : (s.setLatch st l v).pdks = s.pdks := rfl
@[simp] theorem State.setLatch_stepMsgs (s : State) (st l : Nat) (v : Bool) : (s.setLatch st l v).stepMsgs = s.stepMsgs := rfl
@[simp] theorem State.setLatch_msixTab (s : State) (st l : Nat) (v : Bool) : (s.setLatch st l v).msixTab = s.msixTab := rfl
@[simp] theorem State.setLatch_ports (s : State) (st l : Nat) (v : Bool) : (s.setLatch st l v).ports = s.ports := rfl
@[simp] theorem State.setLatch_exp (s : State) (st l : Nat) (v : Bool) : (s.setLatch st l v).exp = s.exp := rfl
@[simp] theorem State.setLatch_xtags (s : State) (st l : Nat) (v : Bool) : (s.setLatch st l v).xtags = s.xtags := rfl
@[simp] theorem State.setLatch_board (s : State) (st l : Nat) (v : Bool) : (s.setLatch st l v).board = s.board := rfl
@[simp] theorem State.setLatch_dqTail (s : State) (st l : Nat) (v : Bool) : (s.setLatch st l v).dqTail = s.dqTail := rfl
@[simp] theorem State.setLatch_fltSerial (s : State) (st l : Nat) (v : Bool) : (s.setLatch st l v).fltSerial = s.fltSerial := rfl
@[simp] theorem State.setLatch_msixPend (s : State) (st l : Nat) (v : Bool) : (s.setLatch st l v).msixPend = s.msixPend := rfl
@[simp] theorem State.setLatch_msixUnmasked (s : State) (st l : Nat) (v : Bool) : (s.setLatch st l v).msixUnmasked = s.msixUnmasked := rfl
@[simp] theorem State.setLatch_msixEn (s : State) (st l : Nat) (v : Bool) : (s.setLatch st l v).msixEn = s.msixEn := rfl
@[simp] theorem State.setLatch_fltQueue (s : State) (st l : Nat) (v : Bool) : (s.setLatch st l v).fltQueue = s.fltQueue := rfl
@[simp] theorem State.setLatch_captured (s : State) (st l : Nat) (v : Bool) : (s.setLatch st l v).captured = s.captured := rfl
@[simp] theorem State.setLatch_bus (s : State) (st l : Nat) (v : Bool) : (s.setLatch st l v).bus = s.bus := rfl
@[simp] theorem State.setLatch_free (s : State) (st l : Nat) (v : Bool) : (s.setLatch st l v).free = s.free := rfl
@[simp] theorem State.setLatch_pending (s : State) (st l : Nat) (v : Bool) : (s.setLatch st l v).pending = s.pending := rfl
@[simp] theorem State.setLinePoison_part (s : State) (st l : Nat) (p : Bool) : (s.setLinePoison st l p).part = s.part := rfl
@[simp] theorem State.setLinePoison_tb (s : State) (st l : Nat) (p : Bool) : (s.setLinePoison st l p).tb = s.tb := rfl
@[simp] theorem State.setLinePoison_mem (s : State) (st l : Nat) (p : Bool) : (s.setLinePoison st l p).mem = s.mem := rfl
@[simp] theorem State.setLinePoison_checks (s : State) (st l : Nat) (p : Bool) : (s.setLinePoison st l p).checks = s.checks := rfl
@[simp] theorem State.setLinePoison_hostPoison (s : State) (st l : Nat) (p : Bool) : (s.setLinePoison st l p).hostPoison = s.hostPoison := rfl
@[simp] theorem State.setLinePoison_tierWas (s : State) (st l : Nat) (p : Bool) : (s.setLinePoison st l p).tierWas = s.tierWas := rfl
@[simp] theorem State.setLinePoison_msixFnMask (s : State) (st l : Nat) (p : Bool) : (s.setLinePoison st l p).msixFnMask = s.msixFnMask := rfl
@[simp] theorem State.setLinePoison_aer (s : State) (st l : Nat) (p : Bool) : (s.setLinePoison st l p).aer = s.aer := rfl
@[simp] theorem State.setLinePoison_wregs (s : State) (st l : Nat) (p : Bool) : (s.setLinePoison st l p).wregs = s.wregs := rfl
@[simp] theorem State.setLinePoison_xnode (s : State) (st l : Nat) (p : Bool) : (s.setLinePoison st l p).xnode = s.xnode := rfl
@[simp] theorem State.setLinePoison_lqTurn (s : State) (st l : Nat) (p : Bool) : (s.setLinePoison st l p).lqTurn = s.lqTurn := rfl
@[simp] theorem State.setLinePoison_tabAt (s : State) (st l : Nat) (p : Bool) : (s.setLinePoison st l p).tabAt = s.tabAt := rfl
@[simp] theorem State.setLinePoison_chans (s : State) (st l : Nat) (p : Bool) : (s.setLinePoison st l p).chans = s.chans := rfl
@[simp] theorem State.setLinePoison_lpQueue (s : State) (st l : Nat) (p : Bool) : (s.setLinePoison st l p).lpQueue = s.lpQueue := rfl
@[simp] theorem State.setLinePoison_lpScrub (s : State) (st l : Nat) (p : Bool) : (s.setLinePoison st l p).lpScrub = s.lpScrub := rfl
@[simp] theorem State.setLinePoison_corrected (s : State) (st l : Nat) (p : Bool) : (s.setLinePoison st l p).corrected = s.corrected := rfl
@[simp] theorem State.setLinePoison_repairTable (s : State) (st l : Nat) (p : Bool) : (s.setLinePoison st l p).repairTable = s.repairTable := rfl
@[simp] theorem State.setLinePoison_softRows (s : State) (st l : Nat) (p : Bool) : (s.setLinePoison st l p).softRows = s.softRows := rfl
@[simp] theorem State.setLinePoison_fusedRows (s : State) (st l : Nat) (p : Bool) : (s.setLinePoison st l p).fusedRows = s.fusedRows := rfl
@[simp] theorem State.setLinePoison_acc (s : State) (st l : Nat) (p : Bool) : (s.setLinePoison st l p).acc = s.acc := rfl
@[simp] theorem State.setLinePoison_treg (s : State) (st l : Nat) (p : Bool) : (s.setLinePoison st l p).treg = s.treg := rfl
@[simp] theorem State.setLinePoison_tregPoison (s : State) (st l : Nat) (p : Bool) : (s.setLinePoison st l p).tregPoison = s.tregPoison := rfl
@[simp] theorem State.setLinePoison_seg (s : State) (st l : Nat) (p : Bool) : (s.setLinePoison st l p).seg = s.seg := rfl
@[simp] theorem State.setLinePoison_tables (s : State) (st l : Nat) (p : Bool) : (s.setLinePoison st l p).tables = s.tables := rfl
@[simp] theorem State.setLinePoison_dsp (s : State) (st l : Nat) (p : Bool) : (s.setLinePoison st l p).dsp = s.dsp := rfl
@[simp] theorem State.setLinePoison_scc (s : State) (st l : Nat) (p : Bool) : (s.setLinePoison st l p).scc = s.scc := rfl
@[simp] theorem State.setLinePoison_dma (s : State) (st l : Nat) (p : Bool) : (s.setLinePoison st l p).dma = s.dma := rfl
@[simp] theorem State.setLinePoison_mapList (s : State) (st l : Nat) (p : Bool) : (s.setLinePoison st l p).mapList = s.mapList := rfl
@[simp] theorem State.setLinePoison_mapRetry (s : State) (st l : Nat) (p : Bool) : (s.setLinePoison st l p).mapRetry = s.mapRetry := rfl
@[simp] theorem State.setLinePoison_fltLog (s : State) (st l : Nat) (p : Bool) : (s.setLinePoison st l p).fltLog = s.fltLog := rfl
@[simp] theorem State.setLinePoison_repairRetry (s : State) (st l : Nat) (p : Bool) : (s.setLinePoison st l p).repairRetry = s.repairRetry := rfl
@[simp] theorem State.setLinePoison_tackDevice (s : State) (st l : Nat) (p : Bool) : (s.setLinePoison st l p).tackDevice = s.tackDevice := rfl
@[simp] theorem State.setLinePoison_tackCompat (s : State) (st l : Nat) (p : Bool) : (s.setLinePoison st l p).tackCompat = s.tackCompat := rfl
@[simp] theorem State.setLinePoison_tackPdk (s : State) (st l : Nat) (p : Bool) : (s.setLinePoison st l p).tackPdk = s.tackPdk := rfl
@[simp] theorem State.setLinePoison_granules (s : State) (st l : Nat) (p : Bool) : (s.setLinePoison st l p).granules = s.granules := rfl
@[simp] theorem State.setLinePoison_fwTable (s : State) (st l : Nat) (p : Bool) : (s.setLinePoison st l p).fwTable = s.fwTable := rfl
@[simp] theorem State.setLinePoison_grooms (s : State) (st l : Nat) (p : Bool) : (s.setLinePoison st l p).grooms = s.grooms := rfl
@[simp] theorem State.setLinePoison_gctx (s : State) (st l : Nat) (p : Bool) : (s.setLinePoison st l p).gctx = s.gctx := rfl
@[simp] theorem State.setLinePoison_chain (s : State) (st l : Nat) (p : Bool) : (s.setLinePoison st l p).chain = s.chain := rfl
@[simp] theorem State.setLinePoison_shorts (s : State) (st l : Nat) (p : Bool) : (s.setLinePoison st l p).shorts = s.shorts := rfl
@[simp] theorem State.setLinePoison_fns (s : State) (st l : Nat) (p : Bool) : (s.setLinePoison st l p).fns = s.fns := rfl
@[simp] theorem State.setLinePoison_atc (s : State) (st l : Nat) (p : Bool) : (s.setLinePoison st l p).atc = s.atc := rfl
@[simp] theorem State.setLinePoison_xlReqs (s : State) (st l : Nat) (p : Bool) : (s.setLinePoison st l p).xlReqs = s.xlReqs := rfl
@[simp] theorem State.setLinePoison_pageReqs (s : State) (st l : Nat) (p : Bool) : (s.setLinePoison st l p).pageReqs = s.pageReqs := rfl
@[simp] theorem State.setLinePoison_invPend (s : State) (st l : Nat) (p : Bool) : (s.setLinePoison st l p).invPend = s.invPend := rfl
@[simp] theorem State.setLinePoison_atsFault (s : State) (st l : Nat) (p : Bool) : (s.setLinePoison st l p).atsFault = s.atsFault := rfl
@[simp] theorem State.setLinePoison_ledger (s : State) (st l : Nat) (p : Bool) : (s.setLinePoison st l p).ledger = s.ledger := rfl
@[simp] theorem State.setLinePoison_pdks (s : State) (st l : Nat) (p : Bool) : (s.setLinePoison st l p).pdks = s.pdks := rfl
@[simp] theorem State.setLinePoison_stepMsgs (s : State) (st l : Nat) (p : Bool) : (s.setLinePoison st l p).stepMsgs = s.stepMsgs := rfl
@[simp] theorem State.setLinePoison_msixTab (s : State) (st l : Nat) (p : Bool) : (s.setLinePoison st l p).msixTab = s.msixTab := rfl
@[simp] theorem State.setLinePoison_ports (s : State) (st l : Nat) (p : Bool) : (s.setLinePoison st l p).ports = s.ports := rfl
@[simp] theorem State.setLinePoison_exp (s : State) (st l : Nat) (p : Bool) : (s.setLinePoison st l p).exp = s.exp := rfl
@[simp] theorem State.setLinePoison_xtags (s : State) (st l : Nat) (p : Bool) : (s.setLinePoison st l p).xtags = s.xtags := rfl
@[simp] theorem State.setLinePoison_board (s : State) (st l : Nat) (p : Bool) : (s.setLinePoison st l p).board = s.board := rfl
@[simp] theorem State.setLinePoison_dqTail (s : State) (st l : Nat) (p : Bool) : (s.setLinePoison st l p).dqTail = s.dqTail := rfl
@[simp] theorem State.setLinePoison_fltSerial (s : State) (st l : Nat) (p : Bool) : (s.setLinePoison st l p).fltSerial = s.fltSerial := rfl
@[simp] theorem State.setLinePoison_msixPend (s : State) (st l : Nat) (p : Bool) : (s.setLinePoison st l p).msixPend = s.msixPend := rfl
@[simp] theorem State.setLinePoison_msixUnmasked (s : State) (st l : Nat) (p : Bool) : (s.setLinePoison st l p).msixUnmasked = s.msixUnmasked := rfl
@[simp] theorem State.setLinePoison_msixEn (s : State) (st l : Nat) (p : Bool) : (s.setLinePoison st l p).msixEn = s.msixEn := rfl
@[simp] theorem State.setLinePoison_fltQueue (s : State) (st l : Nat) (p : Bool) : (s.setLinePoison st l p).fltQueue = s.fltQueue := rfl
@[simp] theorem State.setLinePoison_captured (s : State) (st l : Nat) (p : Bool) : (s.setLinePoison st l p).captured = s.captured := rfl
@[simp] theorem State.setLinePoison_bus (s : State) (st l : Nat) (p : Bool) : (s.setLinePoison st l p).bus = s.bus := rfl
@[simp] theorem State.setLinePoison_free (s : State) (st l : Nat) (p : Bool) : (s.setLinePoison st l p).free = s.free := rfl
@[simp] theorem State.setLinePoison_pending (s : State) (st l : Nat) (p : Bool) : (s.setLinePoison st l p).pending = s.pending := rfl
@[simp] theorem State.stbWrite_part (s : State) (st off : Nat) (l : List Byte) : (s.stbWrite st off l).part = s.part := rfl
@[simp] theorem State.stbWrite_tb (s : State) (st off : Nat) (l : List Byte) : (s.stbWrite st off l).tb = s.tb := rfl
@[simp] theorem State.stbWrite_regs (s : State) (st off : Nat) (l : List Byte) : (s.stbWrite st off l).regs = s.regs := rfl
@[simp] theorem State.stbWrite_checks (s : State) (st off : Nat) (l : List Byte) : (s.stbWrite st off l).checks = s.checks := rfl
@[simp] theorem State.stbWrite_hostPoison (s : State) (st off : Nat) (l : List Byte) : (s.stbWrite st off l).hostPoison = s.hostPoison := rfl
@[simp] theorem State.stbWrite_tierWas (s : State) (st off : Nat) (l : List Byte) : (s.stbWrite st off l).tierWas = s.tierWas := rfl
@[simp] theorem State.stbWrite_msixFnMask (s : State) (st off : Nat) (l : List Byte) : (s.stbWrite st off l).msixFnMask = s.msixFnMask := rfl
@[simp] theorem State.stbWrite_aer (s : State) (st off : Nat) (l : List Byte) : (s.stbWrite st off l).aer = s.aer := rfl
@[simp] theorem State.stbWrite_wregs (s : State) (st off : Nat) (l : List Byte) : (s.stbWrite st off l).wregs = s.wregs := rfl
@[simp] theorem State.stbWrite_xnode (s : State) (st off : Nat) (l : List Byte) : (s.stbWrite st off l).xnode = s.xnode := rfl
@[simp] theorem State.stbWrite_lqTurn (s : State) (st off : Nat) (l : List Byte) : (s.stbWrite st off l).lqTurn = s.lqTurn := rfl
@[simp] theorem State.stbWrite_tabAt (s : State) (st off : Nat) (l : List Byte) : (s.stbWrite st off l).tabAt = s.tabAt := rfl
@[simp] theorem State.stbWrite_chans (s : State) (st off : Nat) (l : List Byte) : (s.stbWrite st off l).chans = s.chans := rfl
@[simp] theorem State.stbWrite_lpQueue (s : State) (st off : Nat) (l : List Byte) : (s.stbWrite st off l).lpQueue = s.lpQueue := rfl
@[simp] theorem State.stbWrite_lpScrub (s : State) (st off : Nat) (l : List Byte) : (s.stbWrite st off l).lpScrub = s.lpScrub := rfl
@[simp] theorem State.stbWrite_corrected (s : State) (st off : Nat) (l : List Byte) : (s.stbWrite st off l).corrected = s.corrected := rfl
@[simp] theorem State.stbWrite_repairTable (s : State) (st off : Nat) (l : List Byte) : (s.stbWrite st off l).repairTable = s.repairTable := rfl
@[simp] theorem State.stbWrite_softRows (s : State) (st off : Nat) (l : List Byte) : (s.stbWrite st off l).softRows = s.softRows := rfl
@[simp] theorem State.stbWrite_fusedRows (s : State) (st off : Nat) (l : List Byte) : (s.stbWrite st off l).fusedRows = s.fusedRows := rfl
@[simp] theorem State.stbWrite_acc (s : State) (st off : Nat) (l : List Byte) : (s.stbWrite st off l).acc = s.acc := rfl
@[simp] theorem State.stbWrite_treg (s : State) (st off : Nat) (l : List Byte) : (s.stbWrite st off l).treg = s.treg := rfl
@[simp] theorem State.stbWrite_tregPoison (s : State) (st off : Nat) (l : List Byte) : (s.stbWrite st off l).tregPoison = s.tregPoison := rfl
@[simp] theorem State.stbWrite_seg (s : State) (st off : Nat) (l : List Byte) : (s.stbWrite st off l).seg = s.seg := rfl
@[simp] theorem State.stbWrite_tables (s : State) (st off : Nat) (l : List Byte) : (s.stbWrite st off l).tables = s.tables := rfl
@[simp] theorem State.stbWrite_dsp (s : State) (st off : Nat) (l : List Byte) : (s.stbWrite st off l).dsp = s.dsp := rfl
@[simp] theorem State.stbWrite_scc (s : State) (st off : Nat) (l : List Byte) : (s.stbWrite st off l).scc = s.scc := rfl
@[simp] theorem State.stbWrite_dma (s : State) (st off : Nat) (l : List Byte) : (s.stbWrite st off l).dma = s.dma := rfl
@[simp] theorem State.stbWrite_mapList (s : State) (st off : Nat) (l : List Byte) : (s.stbWrite st off l).mapList = s.mapList := rfl
@[simp] theorem State.stbWrite_mapRetry (s : State) (st off : Nat) (l : List Byte) : (s.stbWrite st off l).mapRetry = s.mapRetry := rfl
@[simp] theorem State.stbWrite_fltLog (s : State) (st off : Nat) (l : List Byte) : (s.stbWrite st off l).fltLog = s.fltLog := rfl
@[simp] theorem State.stbWrite_repairRetry (s : State) (st off : Nat) (l : List Byte) : (s.stbWrite st off l).repairRetry = s.repairRetry := rfl
@[simp] theorem State.stbWrite_tackDevice (s : State) (st off : Nat) (l : List Byte) : (s.stbWrite st off l).tackDevice = s.tackDevice := rfl
@[simp] theorem State.stbWrite_tackCompat (s : State) (st off : Nat) (l : List Byte) : (s.stbWrite st off l).tackCompat = s.tackCompat := rfl
@[simp] theorem State.stbWrite_tackPdk (s : State) (st off : Nat) (l : List Byte) : (s.stbWrite st off l).tackPdk = s.tackPdk := rfl
@[simp] theorem State.stbWrite_granules (s : State) (st off : Nat) (l : List Byte) : (s.stbWrite st off l).granules = s.granules := rfl
@[simp] theorem State.stbWrite_fwTable (s : State) (st off : Nat) (l : List Byte) : (s.stbWrite st off l).fwTable = s.fwTable := rfl
@[simp] theorem State.stbWrite_grooms (s : State) (st off : Nat) (l : List Byte) : (s.stbWrite st off l).grooms = s.grooms := rfl
@[simp] theorem State.stbWrite_gctx (s : State) (st off : Nat) (l : List Byte) : (s.stbWrite st off l).gctx = s.gctx := rfl
@[simp] theorem State.stbWrite_chain (s : State) (st off : Nat) (l : List Byte) : (s.stbWrite st off l).chain = s.chain := rfl
@[simp] theorem State.stbWrite_shorts (s : State) (st off : Nat) (l : List Byte) : (s.stbWrite st off l).shorts = s.shorts := rfl
@[simp] theorem State.stbWrite_fns (s : State) (st off : Nat) (l : List Byte) : (s.stbWrite st off l).fns = s.fns := rfl
@[simp] theorem State.stbWrite_atc (s : State) (st off : Nat) (l : List Byte) : (s.stbWrite st off l).atc = s.atc := rfl
@[simp] theorem State.stbWrite_xlReqs (s : State) (st off : Nat) (l : List Byte) : (s.stbWrite st off l).xlReqs = s.xlReqs := rfl
@[simp] theorem State.stbWrite_pageReqs (s : State) (st off : Nat) (l : List Byte) : (s.stbWrite st off l).pageReqs = s.pageReqs := rfl
@[simp] theorem State.stbWrite_invPend (s : State) (st off : Nat) (l : List Byte) : (s.stbWrite st off l).invPend = s.invPend := rfl
@[simp] theorem State.stbWrite_atsFault (s : State) (st off : Nat) (l : List Byte) : (s.stbWrite st off l).atsFault = s.atsFault := rfl
@[simp] theorem State.stbWrite_ledger (s : State) (st off : Nat) (l : List Byte) : (s.stbWrite st off l).ledger = s.ledger := rfl
@[simp] theorem State.stbWrite_pdks (s : State) (st off : Nat) (l : List Byte) : (s.stbWrite st off l).pdks = s.pdks := rfl
@[simp] theorem State.stbWrite_stepMsgs (s : State) (st off : Nat) (l : List Byte) : (s.stbWrite st off l).stepMsgs = s.stepMsgs := rfl
@[simp] theorem State.stbWrite_msixTab (s : State) (st off : Nat) (l : List Byte) : (s.stbWrite st off l).msixTab = s.msixTab := rfl
@[simp] theorem State.stbWrite_ports (s : State) (st off : Nat) (l : List Byte) : (s.stbWrite st off l).ports = s.ports := rfl
@[simp] theorem State.stbWrite_exp (s : State) (st off : Nat) (l : List Byte) : (s.stbWrite st off l).exp = s.exp := rfl
@[simp] theorem State.stbWrite_xtags (s : State) (st off : Nat) (l : List Byte) : (s.stbWrite st off l).xtags = s.xtags := rfl
@[simp] theorem State.stbWrite_board (s : State) (st off : Nat) (l : List Byte) : (s.stbWrite st off l).board = s.board := rfl
@[simp] theorem State.stbWrite_dqTail (s : State) (st off : Nat) (l : List Byte) : (s.stbWrite st off l).dqTail = s.dqTail := rfl
@[simp] theorem State.stbWrite_fltSerial (s : State) (st off : Nat) (l : List Byte) : (s.stbWrite st off l).fltSerial = s.fltSerial := rfl
@[simp] theorem State.stbWrite_msixPend (s : State) (st off : Nat) (l : List Byte) : (s.stbWrite st off l).msixPend = s.msixPend := rfl
@[simp] theorem State.stbWrite_msixUnmasked (s : State) (st off : Nat) (l : List Byte) : (s.stbWrite st off l).msixUnmasked = s.msixUnmasked := rfl
@[simp] theorem State.stbWrite_msixEn (s : State) (st off : Nat) (l : List Byte) : (s.stbWrite st off l).msixEn = s.msixEn := rfl
@[simp] theorem State.stbWrite_fltQueue (s : State) (st off : Nat) (l : List Byte) : (s.stbWrite st off l).fltQueue = s.fltQueue := rfl
@[simp] theorem State.stbWrite_captured (s : State) (st off : Nat) (l : List Byte) : (s.stbWrite st off l).captured = s.captured := rfl
@[simp] theorem State.stbWrite_bus (s : State) (st off : Nat) (l : List Byte) : (s.stbWrite st off l).bus = s.bus := rfl
@[simp] theorem State.stbWrite_free (s : State) (st off : Nat) (l : List Byte) : (s.stbWrite st off l).free = s.free := rfl
@[simp] theorem State.stbWrite_pending (s : State) (st off : Nat) (l : List Byte) : (s.stbWrite st off l).pending = s.pending := rfl

/-! ### What is read after a write -/

theorem State.rd_wr_eq (s : State) (r : Loc) (v u i : Nat) (h : r.bytes ≤ 8) : (s.wr r v u i).rd r u i = v % 2 ^ (8 * r.bytes) := by
  unfold State.rd State.wr
  simp only [SMap.get_set_eq, BitVec.toNat_ofNat]
  have hb : 8 * r.bytes ≤ 64 := by omega
  have hp : 2 ^ (8 * r.bytes) ≤ 2 ^ 64 := Nat.pow_le_pow_right (by omega) hb
  exact Nat.mod_eq_of_lt (Nat.lt_of_lt_of_le (Nat.mod_lt _ (Nat.two_pow_pos _)) hp)

theorem State.rd_wr_ne (s : State) (r q : Loc) (v u i w j : Nat) (h : q.key w j ≠ r.key u i) :
    (s.wr r v u i).rd q w j = s.rd q w j := by
  unfold State.rd State.wr
  have setne : ∀ (d e : Dword) (x : Dword),
      SMap.get (SMap.set s.regs d (r.key u i) x) e (q.key w j) = SMap.get s.regs e (q.key w j) := by
    intro d e x
    unfold SMap.set
    by_cases hx : x = d
    · rw [if_pos hx]; exact SMap.get_erase_ne _ e h
    · rw [if_neg hx, SMap.get_insertAt_ne _ _ _ h, SMap.get_erase_ne _ _ h]
  exact congrArg BitVec.toNat (setne _ _ _)

@[simp] theorem State.dspOf_putDsp (s : State) (st : Nat) (d : Dsp) : (s.putDsp st d).dspOf st = d := SMap.get_set_eq s.dsp _ st d
@[simp] theorem State.sccOf_putScc (s : State) (st : Nat) (c : Scc) : (s.putScc st c).sccOf st = c := SMap.get_set_eq s.scc _ st c
@[simp] theorem State.dmaOf_putDma (s : State) (st c : Nat) (d : DmaChan) : (s.putDma st c d).dmaOf st c = d := SMap.get_set_eq s.dma _ _ d

theorem State.dspOf_putDsp_ne (s : State) {st x : Nat} (d : Dsp) (h : x ≠ st) : (s.putDsp st d).dspOf x = s.dspOf x :=
  SMap.get_set_ne s.dsp _ d h
theorem State.sccOf_putScc_ne (s : State) {st x : Nat} (c : Scc) (h : x ≠ st) : (s.putScc st c).sccOf x = s.sccOf x :=
  SMap.get_set_ne s.scc _ c h

/-- A field set reads as the value set, cut to its width. -/
theorem State.fld_setFld_eq (s : State) (f : Fld) (v u i : Nat) (hb : f.loc.bytes ≤ 8) (hh : f.hi < 8 * f.loc.bytes) :
    (s.setFld f v u i).fld f u i = v % 2 ^ (f.hi + 1 - f.lo) := by
  unfold State.fld State.setFld
  rw [State.rd_wr_eq _ _ _ _ _ hb, bits_mod _ _ _ _ hh, bits_putBits_same]

/-- Another field of the register keeps its value. -/
theorem State.fld_setFld_other (s : State) (f g : Fld) (v u i : Nat) (hl : g.loc = f.loc) (hb : f.loc.bytes ≤ 8)
    (hh : g.hi < 8 * f.loc.bytes) (hd : g.hi < f.lo ∨ f.hi < g.lo) : (s.setFld f v u i).fld g u i = s.fld g u i := by
  unfold State.fld State.setFld
  rw [hl, State.rd_wr_eq _ _ _ _ _ hb, bits_mod _ _ _ _ hh, bits_putBits_other _ _ _ _ _ _ hd]

/-- A field of another register keeps its value. -/
theorem State.fld_setFld_ne (s : State) (f g : Fld) (v u i w j : Nat) (h : g.loc.key w j ≠ f.loc.key u i) :
    (s.setFld f v u i).fld g w j = s.fld g w j := by
  unfold State.fld State.setFld
  rw [State.rd_wr_ne _ _ _ _ _ _ _ _ h]

theorem State.fld_wr_ne (s : State) (r : Loc) (g : Fld) (v u i w j : Nat) (h : g.loc.key w j ≠ r.key u i) :
    (s.wr r v u i).fld g w j = s.fld g w j := by
  unfold State.fld; rw [State.rd_wr_ne _ _ _ _ _ _ _ _ h]

/-- A bit of a register after a field of it is set. -/
theorem State.bit_setFld (s : State) (f : Fld) (v u i b : Nat) (hb : f.loc.bytes ≤ 8) (hh : b < 8 * f.loc.bytes) :
    bit ((s.setFld f v u i).rd f.loc u i) b = if f.lo ≤ b ∧ b ≤ f.hi then bit v (b - f.lo) else bit (s.rd f.loc u i) b := by
  unfold State.setFld
  rw [State.rd_wr_eq _ _ _ _ _ hb, bit_mod _ _ _ hh, bit_putBits]

/-! ### The memories stay in canonical form -/

theorem State.memOk_putBytes {s : State} (k : Nat) (l : List Byte) (h : Memory.wf s.mem = true) : Memory.wf (s.putBytes k l).mem = true :=
  Memory.wf_writeList k l h

/-! ### The messages at the end of a command -/

/-- One message changes only its pending bit and the bus. -/
theorem State.msix_eq (s : State) (fn vec : Nat) :
    ∃ p b, s.msix fn vec = { s with msixPend := p, bus := b } := by
  unfold State.msix
  split
  · exact ⟨s.msixPend, _, rfl⟩
  · exact ⟨_, s.bus, rfl⟩

/-- Settling changes only the pending bits of MSI-X and the bus. -/
theorem settle_eq (s t : State) : ∃ p b, settle s t = { t with msixPend := p, bus := b } := by
  unfold settle
  generalize List.range 36 = l
  have h : ∀ (l : List Nat) (u : State), (∃ p b, u = { t with msixPend := p, bus := b }) →
      ∃ p b, l.foldl (fun u src => if rose (s.pfSource src) (t.pfSource src) || (src == 33 && s.rd Reg.FLT_HEAD != t.rd Reg.FLT_HEAD)
        then u.msix 0 (t.rd Reg.PF_IRQ_MAP 0 src) else u) u = { t with msixPend := p, bus := b } := by
    intro l
    induction l with
    | nil => exact fun u hu => hu
    | cons x r ih =>
      rintro u ⟨p, b, rfl⟩
      apply ih
      dsimp only
      split
      · obtain ⟨p', b', h'⟩ := State.msix_eq { t with msixPend := p, bus := b } 0 (t.rd Reg.PF_IRQ_MAP 0 x)
        exact ⟨p', b', h'.trans rfl⟩
      · exact ⟨p, b, rfl⟩
  exact h l t ⟨t.msixPend, t.bus, rfl⟩

@[simp] theorem settle_part (s t : State) : (settle s t).part = t.part := by
  obtain ⟨p, b, h⟩ := settle_eq s t; rw [h]
@[simp] theorem settle_tb (s t : State) : (settle s t).tb = t.tb := by
  obtain ⟨p, b, h⟩ := settle_eq s t; rw [h]
@[simp] theorem settle_regs (s t : State) : (settle s t).regs = t.regs := by
  obtain ⟨p, b, h⟩ := settle_eq s t; rw [h]
@[simp] theorem settle_mem (s t : State) : (settle s t).mem = t.mem := by
  obtain ⟨p, b, h⟩ := settle_eq s t; rw [h]
@[simp] theorem settle_checks (s t : State) : (settle s t).checks = t.checks := by
  obtain ⟨p, b, h⟩ := settle_eq s t; rw [h]
@[simp] theorem settle_hostPoison (s t : State) : (settle s t).hostPoison = t.hostPoison := by
  obtain ⟨p, b, h⟩ := settle_eq s t; rw [h]
@[simp] theorem settle_tierWas (s t : State) : (settle s t).tierWas = t.tierWas := by
  obtain ⟨p, b, h⟩ := settle_eq s t; rw [h]
@[simp] theorem settle_msixFnMask (s t : State) : (settle s t).msixFnMask = t.msixFnMask := by
  obtain ⟨p, b, h⟩ := settle_eq s t; rw [h]
@[simp] theorem settle_aer (s t : State) : (settle s t).aer = t.aer := by
  obtain ⟨p, b, h⟩ := settle_eq s t; rw [h]
@[simp] theorem settle_wregs (s t : State) : (settle s t).wregs = t.wregs := by
  obtain ⟨p, b, h⟩ := settle_eq s t; rw [h]
@[simp] theorem settle_xnode (s t : State) : (settle s t).xnode = t.xnode := by
  obtain ⟨p, b, h⟩ := settle_eq s t; rw [h]
@[simp] theorem settle_lqTurn (s t : State) : (settle s t).lqTurn = t.lqTurn := by
  obtain ⟨p, b, h⟩ := settle_eq s t; rw [h]
@[simp] theorem settle_tabAt (s t : State) : (settle s t).tabAt = t.tabAt := by
  obtain ⟨p, b, h⟩ := settle_eq s t; rw [h]
@[simp] theorem settle_chans (s t : State) : (settle s t).chans = t.chans := by
  obtain ⟨p, b, h⟩ := settle_eq s t; rw [h]
@[simp] theorem settle_lpQueue (s t : State) : (settle s t).lpQueue = t.lpQueue := by
  obtain ⟨p, b, h⟩ := settle_eq s t; rw [h]
@[simp] theorem settle_lpScrub (s t : State) : (settle s t).lpScrub = t.lpScrub := by
  obtain ⟨p, b, h⟩ := settle_eq s t; rw [h]
@[simp] theorem settle_corrected (s t : State) : (settle s t).corrected = t.corrected := by
  obtain ⟨p, b, h⟩ := settle_eq s t; rw [h]
@[simp] theorem settle_repairTable (s t : State) : (settle s t).repairTable = t.repairTable := by
  obtain ⟨p, b, h⟩ := settle_eq s t; rw [h]
@[simp] theorem settle_softRows (s t : State) : (settle s t).softRows = t.softRows := by
  obtain ⟨p, b, h⟩ := settle_eq s t; rw [h]
@[simp] theorem settle_fusedRows (s t : State) : (settle s t).fusedRows = t.fusedRows := by
  obtain ⟨p, b, h⟩ := settle_eq s t; rw [h]
@[simp] theorem settle_acc (s t : State) : (settle s t).acc = t.acc := by
  obtain ⟨p, b, h⟩ := settle_eq s t; rw [h]
@[simp] theorem settle_treg (s t : State) : (settle s t).treg = t.treg := by
  obtain ⟨p, b, h⟩ := settle_eq s t; rw [h]
@[simp] theorem settle_tregPoison (s t : State) : (settle s t).tregPoison = t.tregPoison := by
  obtain ⟨p, b, h⟩ := settle_eq s t; rw [h]
@[simp] theorem settle_seg (s t : State) : (settle s t).seg = t.seg := by
  obtain ⟨p, b, h⟩ := settle_eq s t; rw [h]
@[simp] theorem settle_tables (s t : State) : (settle s t).tables = t.tables := by
  obtain ⟨p, b, h⟩ := settle_eq s t; rw [h]
@[simp] theorem settle_dsp (s t : State) : (settle s t).dsp = t.dsp := by
  obtain ⟨p, b, h⟩ := settle_eq s t; rw [h]
@[simp] theorem settle_scc (s t : State) : (settle s t).scc = t.scc := by
  obtain ⟨p, b, h⟩ := settle_eq s t; rw [h]
@[simp] theorem settle_dma (s t : State) : (settle s t).dma = t.dma := by
  obtain ⟨p, b, h⟩ := settle_eq s t; rw [h]
@[simp] theorem settle_mapList (s t : State) : (settle s t).mapList = t.mapList := by
  obtain ⟨p, b, h⟩ := settle_eq s t; rw [h]
@[simp] theorem settle_mapRetry (s t : State) : (settle s t).mapRetry = t.mapRetry := by
  obtain ⟨p, b, h⟩ := settle_eq s t; rw [h]
@[simp] theorem settle_fltLog (s t : State) : (settle s t).fltLog = t.fltLog := by
  obtain ⟨p, b, h⟩ := settle_eq s t; rw [h]
@[simp] theorem settle_repairRetry (s t : State) : (settle s t).repairRetry = t.repairRetry := by
  obtain ⟨p, b, h⟩ := settle_eq s t; rw [h]
@[simp] theorem settle_tackDevice (s t : State) : (settle s t).tackDevice = t.tackDevice := by
  obtain ⟨p, b, h⟩ := settle_eq s t; rw [h]
@[simp] theorem settle_tackCompat (s t : State) : (settle s t).tackCompat = t.tackCompat := by
  obtain ⟨p, b, h⟩ := settle_eq s t; rw [h]
@[simp] theorem settle_tackPdk (s t : State) : (settle s t).tackPdk = t.tackPdk := by
  obtain ⟨p, b, h⟩ := settle_eq s t; rw [h]
@[simp] theorem settle_granules (s t : State) : (settle s t).granules = t.granules := by
  obtain ⟨p, b, h⟩ := settle_eq s t; rw [h]
@[simp] theorem settle_fwTable (s t : State) : (settle s t).fwTable = t.fwTable := by
  obtain ⟨p, b, h⟩ := settle_eq s t; rw [h]
@[simp] theorem settle_grooms (s t : State) : (settle s t).grooms = t.grooms := by
  obtain ⟨p, b, h⟩ := settle_eq s t; rw [h]
@[simp] theorem settle_gctx (s t : State) : (settle s t).gctx = t.gctx := by
  obtain ⟨p, b, h⟩ := settle_eq s t; rw [h]
@[simp] theorem settle_chain (s t : State) : (settle s t).chain = t.chain := by
  obtain ⟨p, b, h⟩ := settle_eq s t; rw [h]
@[simp] theorem settle_shorts (s t : State) : (settle s t).shorts = t.shorts := by
  obtain ⟨p, b, h⟩ := settle_eq s t; rw [h]
@[simp] theorem settle_fns (s t : State) : (settle s t).fns = t.fns := by
  obtain ⟨p, b, h⟩ := settle_eq s t; rw [h]
@[simp] theorem settle_atc (s t : State) : (settle s t).atc = t.atc := by
  obtain ⟨p, b, h⟩ := settle_eq s t; rw [h]
@[simp] theorem settle_xlReqs (s t : State) : (settle s t).xlReqs = t.xlReqs := by
  obtain ⟨p, b, h⟩ := settle_eq s t; rw [h]
@[simp] theorem settle_pageReqs (s t : State) : (settle s t).pageReqs = t.pageReqs := by
  obtain ⟨p, b, h⟩ := settle_eq s t; rw [h]
@[simp] theorem settle_invPend (s t : State) : (settle s t).invPend = t.invPend := by
  obtain ⟨p, b, h⟩ := settle_eq s t; rw [h]
@[simp] theorem settle_atsFault (s t : State) : (settle s t).atsFault = t.atsFault := by
  obtain ⟨p, b, h⟩ := settle_eq s t; rw [h]
@[simp] theorem settle_ledger (s t : State) : (settle s t).ledger = t.ledger := by
  obtain ⟨p, b, h⟩ := settle_eq s t; rw [h]
@[simp] theorem settle_pdks (s t : State) : (settle s t).pdks = t.pdks := by
  obtain ⟨p, b, h⟩ := settle_eq s t; rw [h]
@[simp] theorem settle_stepMsgs (s t : State) : (settle s t).stepMsgs = t.stepMsgs := by
  obtain ⟨p, b, h⟩ := settle_eq s t; rw [h]
@[simp] theorem settle_msixTab (s t : State) : (settle s t).msixTab = t.msixTab := by
  obtain ⟨p, b, h⟩ := settle_eq s t; rw [h]
@[simp] theorem settle_ports (s t : State) : (settle s t).ports = t.ports := by
  obtain ⟨p, b, h⟩ := settle_eq s t; rw [h]
@[simp] theorem settle_exp (s t : State) : (settle s t).exp = t.exp := by
  obtain ⟨p, b, h⟩ := settle_eq s t; rw [h]
@[simp] theorem settle_xtags (s t : State) : (settle s t).xtags = t.xtags := by
  obtain ⟨p, b, h⟩ := settle_eq s t; rw [h]
@[simp] theorem settle_board (s t : State) : (settle s t).board = t.board := by
  obtain ⟨p, b, h⟩ := settle_eq s t; rw [h]
@[simp] theorem settle_dqTail (s t : State) : (settle s t).dqTail = t.dqTail := by
  obtain ⟨p, b, h⟩ := settle_eq s t; rw [h]
@[simp] theorem settle_fltSerial (s t : State) : (settle s t).fltSerial = t.fltSerial := by
  obtain ⟨p, b, h⟩ := settle_eq s t; rw [h]
@[simp] theorem settle_msixUnmasked (s t : State) : (settle s t).msixUnmasked = t.msixUnmasked := by
  obtain ⟨p, b, h⟩ := settle_eq s t; rw [h]
@[simp] theorem settle_msixEn (s t : State) : (settle s t).msixEn = t.msixEn := by
  obtain ⟨p, b, h⟩ := settle_eq s t; rw [h]
@[simp] theorem settle_fltQueue (s t : State) : (settle s t).fltQueue = t.fltQueue := by
  obtain ⟨p, b, h⟩ := settle_eq s t; rw [h]
@[simp] theorem settle_captured (s t : State) : (settle s t).captured = t.captured := by
  obtain ⟨p, b, h⟩ := settle_eq s t; rw [h]
@[simp] theorem settle_free (s t : State) : (settle s t).free = t.free := by
  obtain ⟨p, b, h⟩ := settle_eq s t; rw [h]
@[simp] theorem settle_pending (s t : State) : (settle s t).pending = t.pending := by
  obtain ⟨p, b, h⟩ := settle_eq s t; rw [h]

/-! ### The end of a command -/

theorem State.versions_same (s t : State) (h : t.ledger = s.ledger) : s.versions t = t := by
  simp [State.versions, h]

theorem State.events_same (s t : State) (h : t.fltSerial = s.fltSerial) : s.events t = t := by
  simp [State.events, h]

/-- VERSION changes the ledger alone. -/
theorem State.versions_eq (s t : State) : ∃ m, s.versions t = { t with ledger := m } := by
  unfold State.versions; split
  · exact ⟨t.ledger, rfl⟩
  · exact ⟨_, rfl⟩

/-- Ordering the events of a command changes the event queue, and the count and the bit of dropped events. -/
theorem State.events_eq (s t : State) : ∃ q r, s.events t = { t with fltQueue := q, regs := r } := by
  have key : ∀ (u : State) (n : Nat), (u.bump Reg.FLT_DROP_CNT_COUNT n).setFlag Reg.FLT_STATUS_DROPPED
      = { u with regs := ((u.bump Reg.FLT_DROP_CNT_COUNT n).setFlag Reg.FLT_STATUS_DROPPED).regs } := fun _ _ => rfl
  unfold State.events; split
  · exact ⟨t.fltQueue, t.regs, rfl⟩
  · dsimp only; split
    · exact ⟨_, t.regs, rfl⟩
    · rw [key]; exact ⟨_, _, rfl⟩

/-- All that the end of a command changes beside its effect. -/
theorem conclude_eq (s t : State) :
    ∃ p b m q r, conclude s t = { t with msixPend := p, bus := b, ledger := m, fltQueue := q, regs := r } := by
  obtain ⟨q, r, e⟩ := State.events_eq s t
  obtain ⟨m, v⟩ := State.versions_eq s (s.events t)
  obtain ⟨p, b, h⟩ := settle_eq s (s.versions (s.events t))
  exact ⟨p, b, m, q, r, by unfold conclude; rw [h, v, e]⟩

/-- A command that raises no event and leaves the ledger alone ends with its messages only. -/
theorem conclude_plain (s t : State) (hq : t.fltSerial = s.fltSerial) (hl : t.ledger = s.ledger) : conclude s t = settle s t := by
  unfold conclude; rw [State.events_same s t hq, State.versions_same s t hl]

@[simp] theorem conclude_part (s t : State) : (conclude s t).part = t.part := by
  obtain ⟨p, b, m, q, r, h⟩ := conclude_eq s t; rw [h]
@[simp] theorem conclude_tb (s t : State) : (conclude s t).tb = t.tb := by
  obtain ⟨p, b, m, q, r, h⟩ := conclude_eq s t; rw [h]
@[simp] theorem conclude_mem (s t : State) : (conclude s t).mem = t.mem := by
  obtain ⟨p, b, m, q, r, h⟩ := conclude_eq s t; rw [h]
@[simp] theorem conclude_checks (s t : State) : (conclude s t).checks = t.checks := by
  obtain ⟨p, b, m, q, r, h⟩ := conclude_eq s t; rw [h]
@[simp] theorem conclude_hostPoison (s t : State) : (conclude s t).hostPoison = t.hostPoison := by
  obtain ⟨p, b, m, q, r, h⟩ := conclude_eq s t; rw [h]
@[simp] theorem conclude_tierWas (s t : State) : (conclude s t).tierWas = t.tierWas := by
  obtain ⟨p, b, m, q, r, h⟩ := conclude_eq s t; rw [h]
@[simp] theorem conclude_msixFnMask (s t : State) : (conclude s t).msixFnMask = t.msixFnMask := by
  obtain ⟨p, b, m, q, r, h⟩ := conclude_eq s t; rw [h]
@[simp] theorem conclude_aer (s t : State) : (conclude s t).aer = t.aer := by
  obtain ⟨p, b, m, q, r, h⟩ := conclude_eq s t; rw [h]
@[simp] theorem conclude_wregs (s t : State) : (conclude s t).wregs = t.wregs := by
  obtain ⟨p, b, m, q, r, h⟩ := conclude_eq s t; rw [h]
@[simp] theorem conclude_xnode (s t : State) : (conclude s t).xnode = t.xnode := by
  obtain ⟨p, b, m, q, r, h⟩ := conclude_eq s t; rw [h]
@[simp] theorem conclude_lqTurn (s t : State) : (conclude s t).lqTurn = t.lqTurn := by
  obtain ⟨p, b, m, q, r, h⟩ := conclude_eq s t; rw [h]
@[simp] theorem conclude_tabAt (s t : State) : (conclude s t).tabAt = t.tabAt := by
  obtain ⟨p, b, m, q, r, h⟩ := conclude_eq s t; rw [h]
@[simp] theorem conclude_chans (s t : State) : (conclude s t).chans = t.chans := by
  obtain ⟨p, b, m, q, r, h⟩ := conclude_eq s t; rw [h]
@[simp] theorem conclude_lpQueue (s t : State) : (conclude s t).lpQueue = t.lpQueue := by
  obtain ⟨p, b, m, q, r, h⟩ := conclude_eq s t; rw [h]
@[simp] theorem conclude_lpScrub (s t : State) : (conclude s t).lpScrub = t.lpScrub := by
  obtain ⟨p, b, m, q, r, h⟩ := conclude_eq s t; rw [h]
@[simp] theorem conclude_corrected (s t : State) : (conclude s t).corrected = t.corrected := by
  obtain ⟨p, b, m, q, r, h⟩ := conclude_eq s t; rw [h]
@[simp] theorem conclude_repairTable (s t : State) : (conclude s t).repairTable = t.repairTable := by
  obtain ⟨p, b, m, q, r, h⟩ := conclude_eq s t; rw [h]
@[simp] theorem conclude_softRows (s t : State) : (conclude s t).softRows = t.softRows := by
  obtain ⟨p, b, m, q, r, h⟩ := conclude_eq s t; rw [h]
@[simp] theorem conclude_fusedRows (s t : State) : (conclude s t).fusedRows = t.fusedRows := by
  obtain ⟨p, b, m, q, r, h⟩ := conclude_eq s t; rw [h]
@[simp] theorem conclude_acc (s t : State) : (conclude s t).acc = t.acc := by
  obtain ⟨p, b, m, q, r, h⟩ := conclude_eq s t; rw [h]
@[simp] theorem conclude_treg (s t : State) : (conclude s t).treg = t.treg := by
  obtain ⟨p, b, m, q, r, h⟩ := conclude_eq s t; rw [h]
@[simp] theorem conclude_tregPoison (s t : State) : (conclude s t).tregPoison = t.tregPoison := by
  obtain ⟨p, b, m, q, r, h⟩ := conclude_eq s t; rw [h]
@[simp] theorem conclude_seg (s t : State) : (conclude s t).seg = t.seg := by
  obtain ⟨p, b, m, q, r, h⟩ := conclude_eq s t; rw [h]
@[simp] theorem conclude_tables (s t : State) : (conclude s t).tables = t.tables := by
  obtain ⟨p, b, m, q, r, h⟩ := conclude_eq s t; rw [h]
@[simp] theorem conclude_dsp (s t : State) : (conclude s t).dsp = t.dsp := by
  obtain ⟨p, b, m, q, r, h⟩ := conclude_eq s t; rw [h]
@[simp] theorem conclude_scc (s t : State) : (conclude s t).scc = t.scc := by
  obtain ⟨p, b, m, q, r, h⟩ := conclude_eq s t; rw [h]
@[simp] theorem conclude_dma (s t : State) : (conclude s t).dma = t.dma := by
  obtain ⟨p, b, m, q, r, h⟩ := conclude_eq s t; rw [h]
@[simp] theorem conclude_mapList (s t : State) : (conclude s t).mapList = t.mapList := by
  obtain ⟨p, b, m, q, r, h⟩ := conclude_eq s t; rw [h]
@[simp] theorem conclude_mapRetry (s t : State) : (conclude s t).mapRetry = t.mapRetry := by
  obtain ⟨p, b, m, q, r, h⟩ := conclude_eq s t; rw [h]
@[simp] theorem conclude_fltLog (s t : State) : (conclude s t).fltLog = t.fltLog := by
  obtain ⟨p, b, m, q, r, h⟩ := conclude_eq s t; rw [h]
@[simp] theorem conclude_repairRetry (s t : State) : (conclude s t).repairRetry = t.repairRetry := by
  obtain ⟨p, b, m, q, r, h⟩ := conclude_eq s t; rw [h]
@[simp] theorem conclude_tackDevice (s t : State) : (conclude s t).tackDevice = t.tackDevice := by
  obtain ⟨p, b, m, q, r, h⟩ := conclude_eq s t; rw [h]
@[simp] theorem conclude_tackCompat (s t : State) : (conclude s t).tackCompat = t.tackCompat := by
  obtain ⟨p, b, m, q, r, h⟩ := conclude_eq s t; rw [h]
@[simp] theorem conclude_tackPdk (s t : State) : (conclude s t).tackPdk = t.tackPdk := by
  obtain ⟨p, b, m, q, r, h⟩ := conclude_eq s t; rw [h]
@[simp] theorem conclude_granules (s t : State) : (conclude s t).granules = t.granules := by
  obtain ⟨p, b, m, q, r, h⟩ := conclude_eq s t; rw [h]
@[simp] theorem conclude_fwTable (s t : State) : (conclude s t).fwTable = t.fwTable := by
  obtain ⟨p, b, m, q, r, h⟩ := conclude_eq s t; rw [h]
@[simp] theorem conclude_grooms (s t : State) : (conclude s t).grooms = t.grooms := by
  obtain ⟨p, b, m, q, r, h⟩ := conclude_eq s t; rw [h]
@[simp] theorem conclude_gctx (s t : State) : (conclude s t).gctx = t.gctx := by
  obtain ⟨p, b, m, q, r, h⟩ := conclude_eq s t; rw [h]
@[simp] theorem conclude_chain (s t : State) : (conclude s t).chain = t.chain := by
  obtain ⟨p, b, m, q, r, h⟩ := conclude_eq s t; rw [h]
@[simp] theorem conclude_shorts (s t : State) : (conclude s t).shorts = t.shorts := by
  obtain ⟨p, b, m, q, r, h⟩ := conclude_eq s t; rw [h]
@[simp] theorem conclude_fns (s t : State) : (conclude s t).fns = t.fns := by
  obtain ⟨p, b, m, q, r, h⟩ := conclude_eq s t; rw [h]
@[simp] theorem conclude_atc (s t : State) : (conclude s t).atc = t.atc := by
  obtain ⟨p, b, m, q, r, h⟩ := conclude_eq s t; rw [h]
@[simp] theorem conclude_xlReqs (s t : State) : (conclude s t).xlReqs = t.xlReqs := by
  obtain ⟨p, b, m, q, r, h⟩ := conclude_eq s t; rw [h]
@[simp] theorem conclude_pageReqs (s t : State) : (conclude s t).pageReqs = t.pageReqs := by
  obtain ⟨p, b, m, q, r, h⟩ := conclude_eq s t; rw [h]
@[simp] theorem conclude_invPend (s t : State) : (conclude s t).invPend = t.invPend := by
  obtain ⟨p, b, m, q, r, h⟩ := conclude_eq s t; rw [h]
@[simp] theorem conclude_atsFault (s t : State) : (conclude s t).atsFault = t.atsFault := by
  obtain ⟨p, b, m, q, r, h⟩ := conclude_eq s t; rw [h]
@[simp] theorem conclude_pdks (s t : State) : (conclude s t).pdks = t.pdks := by
  obtain ⟨p, b, m, q, r, h⟩ := conclude_eq s t; rw [h]
@[simp] theorem conclude_stepMsgs (s t : State) : (conclude s t).stepMsgs = t.stepMsgs := by
  obtain ⟨p, b, m, q, r, h⟩ := conclude_eq s t; rw [h]
@[simp] theorem conclude_msixTab (s t : State) : (conclude s t).msixTab = t.msixTab := by
  obtain ⟨p, b, m, q, r, h⟩ := conclude_eq s t; rw [h]
@[simp] theorem conclude_ports (s t : State) : (conclude s t).ports = t.ports := by
  obtain ⟨p, b, m, q, r, h⟩ := conclude_eq s t; rw [h]
@[simp] theorem conclude_exp (s t : State) : (conclude s t).exp = t.exp := by
  obtain ⟨p, b, m, q, r, h⟩ := conclude_eq s t; rw [h]
@[simp] theorem conclude_xtags (s t : State) : (conclude s t).xtags = t.xtags := by
  obtain ⟨p, b, m, q, r, h⟩ := conclude_eq s t; rw [h]
@[simp] theorem conclude_board (s t : State) : (conclude s t).board = t.board := by
  obtain ⟨p, b, m, q, r, h⟩ := conclude_eq s t; rw [h]
@[simp] theorem conclude_dqTail (s t : State) : (conclude s t).dqTail = t.dqTail := by
  obtain ⟨p, b, m, q, r, h⟩ := conclude_eq s t; rw [h]
@[simp] theorem conclude_fltSerial (s t : State) : (conclude s t).fltSerial = t.fltSerial := by
  obtain ⟨p, b, m, q, r, h⟩ := conclude_eq s t; rw [h]
@[simp] theorem conclude_msixUnmasked (s t : State) : (conclude s t).msixUnmasked = t.msixUnmasked := by
  obtain ⟨p, b, m, q, r, h⟩ := conclude_eq s t; rw [h]
@[simp] theorem conclude_msixEn (s t : State) : (conclude s t).msixEn = t.msixEn := by
  obtain ⟨p, b, m, q, r, h⟩ := conclude_eq s t; rw [h]
@[simp] theorem conclude_captured (s t : State) : (conclude s t).captured = t.captured := by
  obtain ⟨p, b, m, q, r, h⟩ := conclude_eq s t; rw [h]
@[simp] theorem conclude_free (s t : State) : (conclude s t).free = t.free := by
  obtain ⟨p, b, m, q, r, h⟩ := conclude_eq s t; rw [h]
@[simp] theorem conclude_pending (s t : State) : (conclude s t).pending = t.pending := by
  obtain ⟨p, b, m, q, r, h⟩ := conclude_eq s t; rw [h]

/-- A part that is awake answers the effect and what it brings with it. -/
theorem done_awake {s : State} (h : s.stopped = false) (t : State) : done s t = .next (conclude s t) := by
  simp [done, h]

end Sys2Proof.Machine
end

