-- ==== Sys2Proof/Laws/Scc.lean ====
section
/-! SUPPORT. Laws of the stall control core: what carrying an instruction out comes to, and what completing one leaves alone. -/
namespace Sys2Proof.Machine

/-! ### General registers -/

@[simp] theorem State.setX_mem (s : State) (st : Nat) (r : XReg) (v : Dword) : (s.setX st r v).mem = s.mem := by
  unfold State.setX; split <;> rfl
@[simp] theorem State.setX_regs (s : State) (st : Nat) (r : XReg) (v : Dword) : (s.setX st r v).regs = s.regs := by
  unfold State.setX; split <;> rfl

/-- Writing a general register changes the cores only. -/
theorem State.setX_eq (s : State) (st : Nat) (r : XReg) (v : Dword) : s.setX st r v = { s with scc := (s.setX st r v).scc } := by
  unfold State.setX; split <;> rfl

theorem State.setX_sccOf (s : State) (st : Nat) (r : XReg) (v : Dword) :
    (s.setX st r v).sccOf st = { s.sccOf st with gpr := ((s.setX st r v).sccOf st).gpr } := by
  unfold State.setX
  split
  · rfl
  · rw [State.sccOf_putScc]

theorem State.setX_sccOf_ne (s : State) {st x : Nat} (r : XReg) (v : Dword) (h : x ≠ st) : (s.setX st r v).sccOf x = s.sccOf x := by
  unfold State.setX
  split
  · rfl
  · exact State.sccOf_putScc_ne _ _ h

/-- A register written reads as the value, x0 as zero; every other register is unchanged (R338). -/
theorem State.xreg_setX (s : State) (st : Nat) (r q : XReg) (v : Dword) :
    (s.setX st r v).xreg st q = if q = r ∧ r.val ≠ 0 then v else s.xreg st q := by
  unfold State.setX
  by_cases h0 : r.val = 0
  · simp [h0]
  · simp only [h0, if_false]
    unfold State.xreg
    rw [State.sccOf_putScc]
    by_cases hq : q = r
    · subst hq; simp [h0]
    · have : q.val ≠ r.val := fun e => hq (Fin.ext e)
      simp only [hq, false_and, if_false]
      rw [SMap.get_set_ne _ _ _ this]

/-! ### One instruction -/

theorem sccInsn_go {s : State} {st : Nat} {k : SccKind} (h : s.sccGo st k) (w : Nat) (body : State → SccEnd) :
    s.sccInsn st k w body = s.sccFinish st (body s) := by
  obtain ⟨h0, h1, h2, h3, h4⟩ := h
  unfold State.sccInsn
  simp only [h1, h2, h3, Bool.not_true, Bool.false_eq_true, if_false]
  by_cases hp : k.priv = true
  · simp [hp, h4 hp]
  · simp [hp]

theorem sccRow_go {s : State} {st : Nat} {k : SccKind} (h : s.sccGo st k) (body : State → SccEnd) :
    s.sccRow st k body = .next (conclude s (s.sccFinish st (body s))) := by
  unfold State.sccRow
  rw [sccInsn_go h, done_awake h.1]

theorem rd_settle (s t : State) (r : Loc) (u i : Nat) : (settle s t).rd r u i = t.rd r u i := by
  simp [State.rd]
theorem sccOf_settle (s t : State) (x : Nat) : (settle s t).sccOf x = t.sccOf x := by
  simp [State.sccOf]

theorem insn_ne_status (a b : Nat) : Reg.SCC_STATUS.key a 0 ≠ Reg.SCC_INSN_CNT.key b 0 := by
  simp only [Loc.key, Reg.SCC_STATUS, Reg.SCC_INSN_CNT]; omega


/-- Counting an instruction leaves the mode alone. -/
theorem sup_count (s : State) (st : Nat) :
    ((s.count Reg.SCC_INSN_CNT_COUNT 1 st).setFld Reg.SCC_STATUS_WAITING 0 st).sup st = s.sup st := by
  unfold State.sup State.flag
  have h1 := State.fld_setFld_other (s.count Reg.SCC_INSN_CNT_COUNT 1 st) Reg.SCC_STATUS_WAITING Reg.SCC_STATUS_MODE 0 st 0 rfl
    (by decide) (by decide) (by decide)
  have h2 := State.fld_setFld_ne s Reg.SCC_INSN_CNT_COUNT Reg.SCC_STATUS_MODE ((s.fld Reg.SCC_INSN_CNT_COUNT st + 1) % 2 ^ 64) st 0 st 0
    (insn_ne_status _ _)
  exact congrArg (· != 0) (h1.trans h2)

/-! ### Completing an instruction -/

theorem finish_next (s t : State) (st : Nat) : s.sccFinish st (.next t) = (t.sccCount st).sccAdvance st := rfl

theorem adv_scc (t : State) (st : Nat) :
    (((t.sccCount st).sccAdvance st).sccOf st) = (t.sccOf st).counted.advance (t.sup st) := by
  unfold State.sccAdvance
  rw [State.sccOf_putScc]
  have h1 : (t.sccCount st).sccOf st = (t.sccOf st).counted := by
    unfold State.sccCount State.setFld State.count State.setFld
    simp only [State.sccOf, State.wr_scc]
    exact SMap.get_set_eq _ _ _ _
  have h2 : (t.sccCount st).sup st = t.sup st := by
    have := sup_count (t.putScc st (t.sccOf st).counted) st
    exact this
  rw [h1, h2]

theorem adv_scc_ne (t : State) {st x : Nat} (h : x ≠ st) : (((t.sccCount st).sccAdvance st).sccOf x) = t.sccOf x := by
  unfold State.sccAdvance
  rw [State.sccOf_putScc_ne _ _ h]
  unfold State.sccCount State.setFld State.count State.setFld
  simp only [State.sccOf, State.wr_scc]
  exact SMap.get_set_ne _ _ _ h

theorem gpr_advance (c : Scc) (b : Bool) : (c.advance b).gpr = c.gpr := by
  unfold Scc.advance Scc.putLoops; cases b <;> rfl
theorem gpr_counted (c : Scc) : c.counted.gpr = c.gpr := by
  unfold Scc.counted Scc.ieStep; split
  · split <;> rfl
  · rfl

theorem own_counted (c : Scc) (b : Bool) (d : Scc) (hd : d = c.counted.advance b) :
   d = { c with gpr := d.gpr, pc := d.pc, slot := d.slot, loopsSup := d.loopsSup, loopsTen := d.loopsTen, ie := d.ie, ieLater := d.ieLater, afterTret := d.afterTret, shortWait := d.shortWait } := by
  subst hd
  unfold Scc.advance Scc.putLoops Scc.counted Scc.ieStep
  cases hl : c.ieLater with
  | none => cases b <;> rfl
  | some x => obtain ⟨v, n⟩ := x; by_cases hn : n ≤ 1 <;> cases b <;> simp [hn]

theorem adv_mem (t : State) (st : Nat) : ((t.sccCount st).sccAdvance st).mem = t.mem := rfl

theorem rd_adv (t : State) (st : Nat) (r : Loc) (u i : Nat) (h : r.key u i ∉ [Reg.SCC_INSN_CNT.key st 0, Reg.SCC_STATUS.key st 0]) :
    ((t.sccCount st).sccAdvance st).rd r u i = t.rd r u i := by
  simp only [List.mem_cons, List.not_mem_nil, or_false, not_or] at h
  have : ((t.sccCount st).sccAdvance st).rd r u i = (t.sccCount st).rd r u i := rfl
  rw [this]
  unfold State.sccCount State.setFld
  refine (State.rd_wr_ne _ _ _ _ _ _ _ _ h.2).trans ?_
  unfold State.count State.setFld
  exact (State.rd_wr_ne _ _ _ _ _ _ _ _ h.1).trans rfl

theorem frame_of (s t : State) (st : Stall) (rd : List XReg) (ht : t = { s with scc := t.scc, free := t.free })
    (h1 : ∀ x, x ≠ st.val → t.sccOf x = s.sccOf x) (h2 : ∀ r, r ∉ rd → t.xreg st r = s.xreg st r)
    (h3 : t.sccOf st = { s.sccOf st with gpr := (t.sccOf st).gpr }) :
    SccFrame s (settle s ((t.sccCount st).sccAdvance st)) st rd := by
  constructor
  · obtain ⟨p, b, h⟩ := settle_eq s ((t.sccCount st).sccAdvance st)
    rw [h]
    rw [ht]
    rfl
  · intro r u i hr
    rw [rd_settle, rd_adv _ _ _ _ _ hr, ht]; rfl
  · intro b hb hne
    rw [rd_settle]
    have : ((t.sccCount st).sccAdvance st).rd Reg.SCC_STATUS st = (t.sccCount st).rd Reg.SCC_STATUS st := rfl
    rw [this]
    unfold State.sccCount
    have h5 := State.bit_setFld ((t.putScc st (t.sccOf st).counted).count Reg.SCC_INSN_CNT_COUNT 1 st) Reg.SCC_STATUS_WAITING 0 st 0 b (by decide) hb
    rw [if_neg] at h5
    · refine h5.trans ?_
      congr 1
      unfold State.count State.setFld
      refine (State.rd_wr_ne _ _ _ _ _ _ _ _ (insn_ne_status _ _)).trans ?_
      rw [ht]; rfl
    · simp only [Reg.SCC_STATUS_WAITING] at hne ⊢; omega
  · intro x hx
    rw [sccOf_settle, adv_scc_ne _ hx, h1 x hx]
  · intro r hr
    rw [← h2 r hr]
    unfold State.xreg
    rw [sccOf_settle, adv_scc, gpr_advance, gpr_counted]
  · rw [sccOf_settle, adv_scc]
    have := own_counted (t.sccOf st) (t.sup st) _ rfl
    rw [this]
    rw [h3]

/-- An instruction that ends by writing `v` to `rd`, `n` free values taken. -/
theorem writes_of {c : Instr} {s : State} {st : Stall} {rd : XReg} {v : Dword} (n : Nat)
    (h : exec c s = .next (conclude s (s.sccFinish st (.next ((s.setX st rd v).tick n))))) : SccWrites c s st rd v := by
  have hp : conclude s (s.sccFinish st (.next ((s.setX st rd v).tick n))) = settle s (s.sccFinish st (.next ((s.setX st rd v).tick n))) :=
    conclude_plain _ _ (by rw [State.setX_eq s st rd v]; rfl) (by rw [State.setX_eq s st rd v]; rfl)
  rw [hp] at h
  have hg : ((s.setX st rd v).tick n).sccOf st = (s.setX st rd v).sccOf st := rfl
  have hx (q : XReg) : ((s.setX st rd v).tick n).xreg st q = (s.setX st rd v).xreg st q := rfl
  refine ⟨_, h, frame_of _ _ _ _ ?_ ?_ ?_ ?_, ?_, ?_⟩
  · rw [State.setX_eq s st rd v]; rfl
  · exact fun x hx' => State.setX_sccOf_ne s rd v hx'
  · intro r hr
    rw [hx, State.xreg_setX]
    simp only [List.mem_cons, List.not_mem_nil, or_false] at hr
    simp [hr]
  · rw [hg]; exact State.setX_sccOf s st rd v
  · intro j
    unfold State.byte
    rw [settle_mem, finish_next, adv_mem]
    show Memory.read (s.setX st rd v).mem j = _
    rw [State.setX_mem]
  · have h1 : (settle s (s.sccFinish st (.next ((s.setX st rd v).tick n)))).xreg st rd = (s.setX st rd v).xreg st rd := by
      unfold State.xreg
      rw [sccOf_settle, finish_next, adv_scc, gpr_advance, gpr_counted]
      rfl
    rw [h1, State.xreg_setX]
    by_cases h0 : rd.val = 0
    · simp [h0, State.xreg]
    · simp [h0]

end Sys2Proof.Machine
end

