-- ==== Sys2Proof/Laws/Stage.lean ====
section
/-! SUPPORT. Laws of a read of the STB windows by device address, as the staged bytes of a tack command are read. -/
namespace Sys2Proof.Machine

theorem Memory.readList_append (m : List Host.Cell) (k a b : Nat) :
    Memory.readList m k (a + b) = Memory.readList m k a ++ Memory.readList m (k + a) b := by
  induction a generalizing k with
  | zero => simp [Memory.readList]
  | succ a ih => rw [Nat.add_right_comm]; simp only [Memory.readList, ih (k + 1), List.cons_append]; rw [Nat.add_assoc, Nat.add_comm 1 a]

/-- A part of what is read is read at its place. -/
theorem Memory.readList_part (m : List Host.Cell) (k d n l : Nat) (h : d + n ≤ l) :
    ((Memory.readList m k l).drop d).take n = Memory.readList m (k + d) n := by
  obtain ⟨e, rfl⟩ : ∃ e, l = d + (n + e) := ⟨l - d - n, by omega⟩
  rw [Memory.readList_append, List.drop_append_of_le_length (by simp [Memory.readList_length]),
    List.drop_of_length_le (by simp [Memory.readList_length]), List.nil_append, Memory.readList_append,
    List.take_append_of_le_length (by simp [Memory.readList_length]), List.take_of_length_le (by simp [Memory.readList_length])]

/-- A line of an STB window. -/
theorem State.place_stb (s : State) (st off : Nat) (h : s.stallUp st = true) (hst : st < 16) (ho : off < stbSize) :
    s.place false ((2 ^ 40 + st * 2 ^ 24 + off) / 64 * 64) = .stb st (off / 64 * 64) := by
  unfold stbSize at ho
  have t : s.tierBytes ≤ 2 ^ 39 := by
    unfold State.tierBytes
    have : s.lpNch ≤ 64 := Nat.min_le_left _ _
    omega
  have e : (2 ^ 40 + st * 2 ^ 24 + off) / 64 * 64 = 2 ^ 40 + st * 2 ^ 24 + off / 64 * 64 := by omega
  have b : stackedEnd s.part.x8 ≤ 2 ^ 39 := by unfold stackedEnd; split <;> decide
  have d : (2 ^ 40 + st * 2 ^ 24 + off / 64 * 64 - 0x10000000000) / 2 ^ 24 = st := by omega
  have m : (2 ^ 40 + st * 2 ^ 24 + off / 64 * 64) % 2 ^ 24 = off / 64 * 64 := by omega
  rw [e]
  unfold State.place
  simp only [Bool.false_eq_true, if_false]
  rw [if_neg (by omega), if_neg (by unfold tierLine; omega), if_pos (by omega), d, h, m]
  simp

theorem stbKey_add (st off k : Nat) : stbKey st off + k = stbKey st (off + k) := Nat.add_assoc _ _ _

/-- One line of a device read. -/
theorem State.devRead_line (s : State) (view : Bool) (a n fuel st o : Nat) (hn : n ≠ 0) (h : s.place view (a / 64 * 64) = .stb st o) :
    s.devRead view a n (fuel + 1) = (s.devRead view (a + min n (64 - a % 64)) (n - min n (64 - a % 64)) fuel).map fun y =>
      (y.1, ((s.stbRead st o 64).drop (a % 64)).take (min n (64 - a % 64)) ++ y.2.1, s.linePoison st (o / 64) || y.2.2) := by
  rw [State.devRead, if_neg hn]
  simp only [h, State.lineRead]
  cases s.devRead view (a + min n (64 - a % 64)) (n - min n (64 - a % 64)) fuel <;> rfl

/-- Bytes of one STB window, whose device addresses begin at `b`. -/
theorem State.devRead_stb (s : State) (st b : Nat) (hb : b % 64 = 0) (hp : ∀ o, o < stbSize → s.place false ((b + o) / 64 * 64) = .stb st (o / 64 * 64))
    (n fuel off : Nat) (ho : off + n ≤ stbSize) (hf : n = 0 ∨ off % 64 + n ≤ 64 * fuel) :
    (s.devRead false (b + off) n fuel).map (fun x => (x.1, x.2.1)) = some (s, s.bytes (stbKey st off) n) := by
  induction fuel generalizing n off with
  | zero =>
    obtain rfl : n = 0 := by omega
    simp [State.devRead, State.bytes, Memory.readList]
  | succ f ih =>
    by_cases hn : n = 0
    · subst hn; simp [State.devRead, State.bytes, Memory.readList]
    · have a : (b + off) % 64 = off % 64 := by omega
      rw [State.devRead_line s false _ n f st (off / 64 * 64) hn (hp off (by omega)), a]
      obtain ⟨k, hk⟩ : ∃ k, k = min n (64 - off % 64) := ⟨_, rfl⟩
      have k1 : k ≤ n ∧ off % 64 + k ≤ 64 ∧ (n - k = 0 ∨ (off + k) % 64 + (n - k) ≤ 64 * f) := by
        rcases Nat.le_total n (64 - off % 64) with z | z
        · rw [Nat.min_eq_left z] at hk; omega
        · rw [Nat.min_eq_right z] at hk; omega
      rw [← hk]
      have r := ih (n - k) (off + k) (by omega) k1.2.2
      rw [Nat.add_assoc]
      revert r
      cases s.devRead false (b + (off + k)) (n - k) f with
      | none => intro r; simp at r
      | some y =>
        intro r
        simp only [Option.map_some, Option.some.injEq, Prod.mk.injEq] at r ⊢
        refine ⟨r.1, ?_⟩
        rw [r.2]
        unfold State.stbRead State.bytes
        rw [Memory.readList_part _ _ _ _ _ (by omega), stbKey_add st (off / 64 * 64), ← stbKey_add st off]
        have e : off / 64 * 64 + off % 64 = off := by omega
        rw [e, ← Memory.readList_append, show k + (n - k) = n by omega]

/-- The staged bytes, where they lie in one STB window. -/
theorem State.staged_stb (s : State) (st off : Nat) (h : s.stallUp st = true) (hst : st < 16) (hv : s.stageView = false)
    (ha : s.stageAddr = 2 ^ 40 + st * 2 ^ 24 + off) (ho : off + s.stageLen ≤ stbSize) :
    s.staged = some (s, s.bytes (stbKey st off) s.stageLen) := by
  unfold State.staged State.stagedAt State.stage
  rw [if_neg (by unfold stbSize at ho; show ¬ s.stageLen > 2 ^ 24; omega)]
  show (s.devRead s.stageView s.stageAddr s.stageLen (s.stageLen / 64 + 2)).map _ = _
  rw [hv, ha]
  have r := State.devRead_stb s st (2 ^ 40 + st * 2 ^ 24) (by omega) (fun o => State.place_stb s st o h hst) s.stageLen (s.stageLen / 64 + 2) off ho (by omega)
  exact r

end Sys2Proof.Machine
end

