-- ==== Sys2Proof/Laws/Units.lean ====
section
/-! SUPPORT. Laws of the updates of grooms, channels, functions, paddocks, ledger entries and ports: one lemma per field and update, and what
is read after one. -/
namespace Sys2Proof.Machine

/-! ### putGroom -/

@[simp] theorem State.putGroom_part (s : State) (n : Nat) (g : Groom) : (s.putGroom n g).part = s.part := rfl
@[simp] theorem State.putGroom_tb (s : State) (n : Nat) (g : Groom) : (s.putGroom n g).tb = s.tb := rfl
@[simp] theorem State.putGroom_regs (s : State) (n : Nat) (g : Groom) : (s.putGroom n g).regs = s.regs := rfl
@[simp] theorem State.putGroom_mem (s : State) (n : Nat) (g : Groom) : (s.putGroom n g).mem = s.mem := rfl
@[simp] theorem State.putGroom_checks (s : State) (n : Nat) (g : Groom) : (s.putGroom n g).checks = s.checks := rfl
@[simp] theorem State.putGroom_hostPoison (s : State) (n : Nat) (g : Groom) : (s.putGroom n g).hostPoison = s.hostPoison := rfl
@[simp] theorem State.putGroom_chans (s : State) (n : Nat) (g : Groom) : (s.putGroom n g).chans = s.chans := rfl
@[simp] theorem State.putGroom_lpQueue (s : State) (n : Nat) (g : Groom) : (s.putGroom n g).lpQueue = s.lpQueue := rfl
@[simp] theorem State.putGroom_lpScrub (s : State) (n : Nat) (g : Groom) : (s.putGroom n g).lpScrub = s.lpScrub := rfl
@[simp] theorem State.putGroom_corrected (s : State) (n : Nat) (g : Groom) : (s.putGroom n g).corrected = s.corrected := rfl
@[simp] theorem State.putGroom_tierWas (s : State) (n : Nat) (g : Groom) : (s.putGroom n g).tierWas = s.tierWas := rfl
@[simp] theorem State.putGroom_repairTable (s : State) (n : Nat) (g : Groom) : (s.putGroom n g).repairTable = s.repairTable := rfl
@[simp] theorem State.putGroom_softRows (s : State) (n : Nat) (g : Groom) : (s.putGroom n g).softRows = s.softRows := rfl
@[simp] theorem State.putGroom_fusedRows (s : State) (n : Nat) (g : Groom) : (s.putGroom n g).fusedRows = s.fusedRows := rfl
@[simp] theorem State.putGroom_wregs (s : State) (n : Nat) (g : Groom) : (s.putGroom n g).wregs = s.wregs := rfl
@[simp] theorem State.putGroom_acc (s : State) (n : Nat) (g : Groom) : (s.putGroom n g).acc = s.acc := rfl
@[simp] theorem State.putGroom_treg (s : State) (n : Nat) (g : Groom) : (s.putGroom n g).treg = s.treg := rfl
@[simp] theorem State.putGroom_tregPoison (s : State) (n : Nat) (g : Groom) : (s.putGroom n g).tregPoison = s.tregPoison := rfl
@[simp] theorem State.putGroom_seg (s : State) (n : Nat) (g : Groom) : (s.putGroom n g).seg = s.seg := rfl
@[simp] theorem State.putGroom_tables (s : State) (n : Nat) (g : Groom) : (s.putGroom n g).tables = s.tables := rfl
@[simp] theorem State.putGroom_dsp (s : State) (n : Nat) (g : Groom) : (s.putGroom n g).dsp = s.dsp := rfl
@[simp] theorem State.putGroom_scc (s : State) (n : Nat) (g : Groom) : (s.putGroom n g).scc = s.scc := rfl
@[simp] theorem State.putGroom_dma (s : State) (n : Nat) (g : Groom) : (s.putGroom n g).dma = s.dma := rfl
@[simp] theorem State.putGroom_mapList (s : State) (n : Nat) (g : Groom) : (s.putGroom n g).mapList = s.mapList := rfl
@[simp] theorem State.putGroom_mapRetry (s : State) (n : Nat) (g : Groom) : (s.putGroom n g).mapRetry = s.mapRetry := rfl
@[simp] theorem State.putGroom_fltLog (s : State) (n : Nat) (g : Groom) : (s.putGroom n g).fltLog = s.fltLog := rfl
@[simp] theorem State.putGroom_repairRetry (s : State) (n : Nat) (g : Groom) : (s.putGroom n g).repairRetry = s.repairRetry := rfl
@[simp] theorem State.putGroom_tackDevice (s : State) (n : Nat) (g : Groom) : (s.putGroom n g).tackDevice = s.tackDevice := rfl
@[simp] theorem State.putGroom_tackCompat (s : State) (n : Nat) (g : Groom) : (s.putGroom n g).tackCompat = s.tackCompat := rfl
@[simp] theorem State.putGroom_tackPdk (s : State) (n : Nat) (g : Groom) : (s.putGroom n g).tackPdk = s.tackPdk := rfl
@[simp] theorem State.putGroom_granules (s : State) (n : Nat) (g : Groom) : (s.putGroom n g).granules = s.granules := rfl
@[simp] theorem State.putGroom_fwTable (s : State) (n : Nat) (g : Groom) : (s.putGroom n g).fwTable = s.fwTable := rfl
@[simp] theorem State.putGroom_gctx (s : State) (n : Nat) (g : Groom) : (s.putGroom n g).gctx = s.gctx := rfl
@[simp] theorem State.putGroom_chain (s : State) (n : Nat) (g : Groom) : (s.putGroom n g).chain = s.chain := rfl
@[simp] theorem State.putGroom_xnode (s : State) (n : Nat) (g : Groom) : (s.putGroom n g).xnode = s.xnode := rfl
@[simp] theorem State.putGroom_shorts (s : State) (n : Nat) (g : Groom) : (s.putGroom n g).shorts = s.shorts := rfl
@[simp] theorem State.putGroom_fns (s : State) (n : Nat) (g : Groom) : (s.putGroom n g).fns = s.fns := rfl
@[simp] theorem State.putGroom_lqTurn (s : State) (n : Nat) (g : Groom) : (s.putGroom n g).lqTurn = s.lqTurn := rfl
@[simp] theorem State.putGroom_atc (s : State) (n : Nat) (g : Groom) : (s.putGroom n g).atc = s.atc := rfl
@[simp] theorem State.putGroom_xlReqs (s : State) (n : Nat) (g : Groom) : (s.putGroom n g).xlReqs = s.xlReqs := rfl
@[simp] theorem State.putGroom_pageReqs (s : State) (n : Nat) (g : Groom) : (s.putGroom n g).pageReqs = s.pageReqs := rfl
@[simp] theorem State.putGroom_invPend (s : State) (n : Nat) (g : Groom) : (s.putGroom n g).invPend = s.invPend := rfl
@[simp] theorem State.putGroom_atsFault (s : State) (n : Nat) (g : Groom) : (s.putGroom n g).atsFault = s.atsFault := rfl
@[simp] theorem State.putGroom_ledger (s : State) (n : Nat) (g : Groom) : (s.putGroom n g).ledger = s.ledger := rfl
@[simp] theorem State.putGroom_pdks (s : State) (n : Nat) (g : Groom) : (s.putGroom n g).pdks = s.pdks := rfl
@[simp] theorem State.putGroom_tabAt (s : State) (n : Nat) (g : Groom) : (s.putGroom n g).tabAt = s.tabAt := rfl
@[simp] theorem State.putGroom_stepMsgs (s : State) (n : Nat) (g : Groom) : (s.putGroom n g).stepMsgs = s.stepMsgs := rfl
@[simp] theorem State.putGroom_msixTab (s : State) (n : Nat) (g : Groom) : (s.putGroom n g).msixTab = s.msixTab := rfl
@[simp] theorem State.putGroom_ports (s : State) (n : Nat) (g : Groom) : (s.putGroom n g).ports = s.ports := rfl
@[simp] theorem State.putGroom_exp (s : State) (n : Nat) (g : Groom) : (s.putGroom n g).exp = s.exp := rfl
@[simp] theorem State.putGroom_xtags (s : State) (n : Nat) (g : Groom) : (s.putGroom n g).xtags = s.xtags := rfl
@[simp] theorem State.putGroom_board (s : State) (n : Nat) (g : Groom) : (s.putGroom n g).board = s.board := rfl
@[simp] theorem State.putGroom_dqTail (s : State) (n : Nat) (g : Groom) : (s.putGroom n g).dqTail = s.dqTail := rfl
@[simp] theorem State.putGroom_fltSerial (s : State) (n : Nat) (g : Groom) : (s.putGroom n g).fltSerial = s.fltSerial := rfl
@[simp] theorem State.putGroom_msixPend (s : State) (n : Nat) (g : Groom) : (s.putGroom n g).msixPend = s.msixPend := rfl
@[simp] theorem State.putGroom_msixUnmasked (s : State) (n : Nat) (g : Groom) : (s.putGroom n g).msixUnmasked = s.msixUnmasked := rfl
@[simp] theorem State.putGroom_msixEn (s : State) (n : Nat) (g : Groom) : (s.putGroom n g).msixEn = s.msixEn := rfl
@[simp] theorem State.putGroom_msixFnMask (s : State) (n : Nat) (g : Groom) : (s.putGroom n g).msixFnMask = s.msixFnMask := rfl
@[simp] theorem State.putGroom_aer (s : State) (n : Nat) (g : Groom) : (s.putGroom n g).aer = s.aer := rfl
@[simp] theorem State.putGroom_fltQueue (s : State) (n : Nat) (g : Groom) : (s.putGroom n g).fltQueue = s.fltQueue := rfl
@[simp] theorem State.putGroom_captured (s : State) (n : Nat) (g : Groom) : (s.putGroom n g).captured = s.captured := rfl
@[simp] theorem State.putGroom_bus (s : State) (n : Nat) (g : Groom) : (s.putGroom n g).bus = s.bus := rfl
@[simp] theorem State.putGroom_free (s : State) (n : Nat) (g : Groom) : (s.putGroom n g).free = s.free := rfl
@[simp] theorem State.putGroom_pending (s : State) (n : Nat) (g : Groom) : (s.putGroom n g).pending = s.pending := rfl
@[simp] theorem State.groom_putGroom (s : State) (n : Nat) (g : Groom) : (s.putGroom n g).groom n = g := SMap.get_set_eq s.grooms _ n g
theorem State.groom_putGroom_ne (s : State) (n : Nat) (g : Groom) (j : Nat) (h : j ≠ n) : (s.putGroom n g).groom j = s.groom j :=
  SMap.get_set_ne s.grooms _ g h

/-! ### putCtx -/

@[simp] theorem State.putCtx_part (s : State) (p : Nat) (c : GCtx) : (s.putCtx p c).part = s.part := rfl
@[simp] theorem State.putCtx_tb (s : State) (p : Nat) (c : GCtx) : (s.putCtx p c).tb = s.tb := rfl
@[simp] theorem State.putCtx_regs (s : State) (p : Nat) (c : GCtx) : (s.putCtx p c).regs = s.regs := rfl
@[simp] theorem State.putCtx_mem (s : State) (p : Nat) (c : GCtx) : (s.putCtx p c).mem = s.mem := rfl
@[simp] theorem State.putCtx_checks (s : State) (p : Nat) (c : GCtx) : (s.putCtx p c).checks = s.checks := rfl
@[simp] theorem State.putCtx_hostPoison (s : State) (p : Nat) (c : GCtx) : (s.putCtx p c).hostPoison = s.hostPoison := rfl
@[simp] theorem State.putCtx_chans (s : State) (p : Nat) (c : GCtx) : (s.putCtx p c).chans = s.chans := rfl
@[simp] theorem State.putCtx_lpQueue (s : State) (p : Nat) (c : GCtx) : (s.putCtx p c).lpQueue = s.lpQueue := rfl
@[simp] theorem State.putCtx_lpScrub (s : State) (p : Nat) (c : GCtx) : (s.putCtx p c).lpScrub = s.lpScrub := rfl
@[simp] theorem State.putCtx_corrected (s : State) (p : Nat) (c : GCtx) : (s.putCtx p c).corrected = s.corrected := rfl
@[simp] theorem State.putCtx_tierWas (s : State) (p : Nat) (c : GCtx) : (s.putCtx p c).tierWas = s.tierWas := rfl
@[simp] theorem State.putCtx_repairTable (s : State) (p : Nat) (c : GCtx) : (s.putCtx p c).repairTable = s.repairTable := rfl
@[simp] theorem State.putCtx_softRows (s : State) (p : Nat) (c : GCtx) : (s.putCtx p c).softRows = s.softRows := rfl
@[simp] theorem State.putCtx_fusedRows (s : State) (p : Nat) (c : GCtx) : (s.putCtx p c).fusedRows = s.fusedRows := rfl
@[simp] theorem State.putCtx_wregs (s : State) (p : Nat) (c : GCtx) : (s.putCtx p c).wregs = s.wregs := rfl
@[simp] theorem State.putCtx_acc (s : State) (p : Nat) (c : GCtx) : (s.putCtx p c).acc = s.acc := rfl
@[simp] theorem State.putCtx_treg (s : State) (p : Nat) (c : GCtx) : (s.putCtx p c).treg = s.treg := rfl
@[simp] theorem State.putCtx_tregPoison (s : State) (p : Nat) (c : GCtx) : (s.putCtx p c).tregPoison = s.tregPoison := rfl
@[simp] theorem State.putCtx_seg (s : State) (p : Nat) (c : GCtx) : (s.putCtx p c).seg = s.seg := rfl
@[simp] theorem State.putCtx_tables (s : State) (p : Nat) (c : GCtx) : (s.putCtx p c).tables = s.tables := rfl
@[simp] theorem State.putCtx_dsp (s : State) (p : Nat) (c : GCtx) : (s.putCtx p c).dsp = s.dsp := rfl
@[simp] theorem State.putCtx_scc (s : State) (p : Nat) (c : GCtx) : (s.putCtx p c).scc = s.scc := rfl
@[simp] theorem State.putCtx_dma (s : State) (p : Nat) (c : GCtx) : (s.putCtx p c).dma = s.dma := rfl
@[simp] theorem State.putCtx_mapList (s : State) (p : Nat) (c : GCtx) : (s.putCtx p c).mapList = s.mapList := rfl
@[simp] theorem State.putCtx_mapRetry (s : State) (p : Nat) (c : GCtx) : (s.putCtx p c).mapRetry = s.mapRetry := rfl
@[simp] theorem State.putCtx_fltLog (s : State) (p : Nat) (c : GCtx) : (s.putCtx p c).fltLog = s.fltLog := rfl
@[simp] theorem State.putCtx_repairRetry (s : State) (p : Nat) (c : GCtx) : (s.putCtx p c).repairRetry = s.repairRetry := rfl
@[simp] theorem State.putCtx_tackDevice (s : State) (p : Nat) (c : GCtx) : (s.putCtx p c).tackDevice = s.tackDevice := rfl
@[simp] theorem State.putCtx_tackCompat (s : State) (p : Nat) (c : GCtx) : (s.putCtx p c).tackCompat = s.tackCompat := rfl
@[simp] theorem State.putCtx_tackPdk (s : State) (p : Nat) (c : GCtx) : (s.putCtx p c).tackPdk = s.tackPdk := rfl
@[simp] theorem State.putCtx_granules (s : State) (p : Nat) (c : GCtx) : (s.putCtx p c).granules = s.granules := rfl
@[simp] theorem State.putCtx_fwTable (s : State) (p : Nat) (c : GCtx) : (s.putCtx p c).fwTable = s.fwTable := rfl
@[simp] theorem State.putCtx_grooms (s : State) (p : Nat) (c : GCtx) : (s.putCtx p c).grooms = s.grooms := rfl
@[simp] theorem State.putCtx_chain (s : State) (p : Nat) (c : GCtx) : (s.putCtx p c).chain = s.chain := rfl
@[simp] theorem State.putCtx_xnode (s : State) (p : Nat) (c : GCtx) : (s.putCtx p c).xnode = s.xnode := rfl
@[simp] theorem State.putCtx_shorts (s : State) (p : Nat) (c : GCtx) : (s.putCtx p c).shorts = s.shorts := rfl
@[simp] theorem State.putCtx_fns (s : State) (p : Nat) (c : GCtx) : (s.putCtx p c).fns = s.fns := rfl
@[simp] theorem State.putCtx_lqTurn (s : State) (p : Nat) (c : GCtx) : (s.putCtx p c).lqTurn = s.lqTurn := rfl
@[simp] theorem State.putCtx_atc (s : State) (p : Nat) (c : GCtx) : (s.putCtx p c).atc = s.atc := rfl
@[simp] theorem State.putCtx_xlReqs (s : State) (p : Nat) (c : GCtx) : (s.putCtx p c).xlReqs = s.xlReqs := rfl
@[simp] theorem State.putCtx_pageReqs (s : State) (p : Nat) (c : GCtx) : (s.putCtx p c).pageReqs = s.pageReqs := rfl
@[simp] theorem State.putCtx_invPend (s : State) (p : Nat) (c : GCtx) : (s.putCtx p c).invPend = s.invPend := rfl
@[simp] theorem State.putCtx_atsFault (s : State) (p : Nat) (c : GCtx) : (s.putCtx p c).atsFault = s.atsFault := rfl
@[simp] theorem State.putCtx_ledger (s : State) (p : Nat) (c : GCtx) : (s.putCtx p c).ledger = s.ledger := rfl
@[simp] theorem State.putCtx_pdks (s : State) (p : Nat) (c : GCtx) : (s.putCtx p c).pdks = s.pdks := rfl
@[simp] theorem State.putCtx_tabAt (s : State) (p : Nat) (c : GCtx) : (s.putCtx p c).tabAt = s.tabAt := rfl
@[simp] theorem State.putCtx_stepMsgs (s : State) (p : Nat) (c : GCtx) : (s.putCtx p c).stepMsgs = s.stepMsgs := rfl
@[simp] theorem State.putCtx_msixTab (s : State) (p : Nat) (c : GCtx) : (s.putCtx p c).msixTab = s.msixTab := rfl
@[simp] theorem State.putCtx_ports (s : State) (p : Nat) (c : GCtx) : (s.putCtx p c).ports = s.ports := rfl
@[simp] theorem State.putCtx_exp (s : State) (p : Nat) (c : GCtx) : (s.putCtx p c).exp = s.exp := rfl
@[simp] theorem State.putCtx_xtags (s : State) (p : Nat) (c : GCtx) : (s.putCtx p c).xtags = s.xtags := rfl
@[simp] theorem State.putCtx_board (s : State) (p : Nat) (c : GCtx) : (s.putCtx p c).board = s.board := rfl
@[simp] theorem State.putCtx_dqTail (s : State) (p : Nat) (c : GCtx) : (s.putCtx p c).dqTail = s.dqTail := rfl
@[simp] theorem State.putCtx_fltSerial (s : State) (p : Nat) (c : GCtx) : (s.putCtx p c).fltSerial = s.fltSerial := rfl
@[simp] theorem State.putCtx_msixPend (s : State) (p : Nat) (c : GCtx) : (s.putCtx p c).msixPend = s.msixPend := rfl
@[simp] theorem State.putCtx_msixUnmasked (s : State) (p : Nat) (c : GCtx) : (s.putCtx p c).msixUnmasked = s.msixUnmasked := rfl
@[simp] theorem State.putCtx_msixEn (s : State) (p : Nat) (c : GCtx) : (s.putCtx p c).msixEn = s.msixEn := rfl
@[simp] theorem State.putCtx_msixFnMask (s : State) (p : Nat) (c : GCtx) : (s.putCtx p c).msixFnMask = s.msixFnMask := rfl
@[simp] theorem State.putCtx_aer (s : State) (p : Nat) (c : GCtx) : (s.putCtx p c).aer = s.aer := rfl
@[simp] theorem State.putCtx_fltQueue (s : State) (p : Nat) (c : GCtx) : (s.putCtx p c).fltQueue = s.fltQueue := rfl
@[simp] theorem State.putCtx_captured (s : State) (p : Nat) (c : GCtx) : (s.putCtx p c).captured = s.captured := rfl
@[simp] theorem State.putCtx_bus (s : State) (p : Nat) (c : GCtx) : (s.putCtx p c).bus = s.bus := rfl
@[simp] theorem State.putCtx_free (s : State) (p : Nat) (c : GCtx) : (s.putCtx p c).free = s.free := rfl
@[simp] theorem State.putCtx_pending (s : State) (p : Nat) (c : GCtx) : (s.putCtx p c).pending = s.pending := rfl
@[simp] theorem State.ctxOf_putCtx (s : State) (p : Nat) (c : GCtx) : (s.putCtx p c).ctxOf p = c := SMap.get_set_eq s.gctx _ p c
theorem State.ctxOf_putCtx_ne (s : State) (p : Nat) (c : GCtx) (j : Nat) (h : j ≠ p) : (s.putCtx p c).ctxOf j = s.ctxOf j :=
  SMap.get_set_ne s.gctx _ c h

/-! ### putChan -/

@[simp] theorem State.putChan_part (s : State) (q : Nat) (c : ChanCtl) : (s.putChan q c).part = s.part := rfl
@[simp] theorem State.putChan_tb (s : State) (q : Nat) (c : ChanCtl) : (s.putChan q c).tb = s.tb := rfl
@[simp] theorem State.putChan_regs (s : State) (q : Nat) (c : ChanCtl) : (s.putChan q c).regs = s.regs := rfl
@[simp] theorem State.putChan_mem (s : State) (q : Nat) (c : ChanCtl) : (s.putChan q c).mem = s.mem := rfl
@[simp] theorem State.putChan_checks (s : State) (q : Nat) (c : ChanCtl) : (s.putChan q c).checks = s.checks := rfl
@[simp] theorem State.putChan_hostPoison (s : State) (q : Nat) (c : ChanCtl) : (s.putChan q c).hostPoison = s.hostPoison := rfl
@[simp] theorem State.putChan_lpQueue (s : State) (q : Nat) (c : ChanCtl) : (s.putChan q c).lpQueue = s.lpQueue := rfl
@[simp] theorem State.putChan_lpScrub (s : State) (q : Nat) (c : ChanCtl) : (s.putChan q c).lpScrub = s.lpScrub := rfl
@[simp] theorem State.putChan_corrected (s : State) (q : Nat) (c : ChanCtl) : (s.putChan q c).corrected = s.corrected := rfl
@[simp] theorem State.putChan_tierWas (s : State) (q : Nat) (c : ChanCtl) : (s.putChan q c).tierWas = s.tierWas := rfl
@[simp] theorem State.putChan_repairTable (s : State) (q : Nat) (c : ChanCtl) : (s.putChan q c).repairTable = s.repairTable := rfl
@[simp] theorem State.putChan_softRows (s : State) (q : Nat) (c : ChanCtl) : (s.putChan q c).softRows = s.softRows := rfl
@[simp] theorem State.putChan_fusedRows (s : State) (q : Nat) (c : ChanCtl) : (s.putChan q c).fusedRows = s.fusedRows := rfl
@[simp] theorem State.putChan_wregs (s : State) (q : Nat) (c : ChanCtl) : (s.putChan q c).wregs = s.wregs := rfl
@[simp] theorem State.putChan_acc (s : State) (q : Nat) (c : ChanCtl) : (s.putChan q c).acc = s.acc := rfl
@[simp] theorem State.putChan_treg (s : State) (q : Nat) (c : ChanCtl) : (s.putChan q c).treg = s.treg := rfl
@[simp] theorem State.putChan_tregPoison (s : State) (q : Nat) (c : ChanCtl) : (s.putChan q c).tregPoison = s.tregPoison := rfl
@[simp] theorem State.putChan_seg (s : State) (q : Nat) (c : ChanCtl) : (s.putChan q c).seg = s.seg := rfl
@[simp] theorem State.putChan_tables (s : State) (q : Nat) (c : ChanCtl) : (s.putChan q c).tables = s.tables := rfl
@[simp] theorem State.putChan_dsp (s : State) (q : Nat) (c : ChanCtl) : (s.putChan q c).dsp = s.dsp := rfl
@[simp] theorem State.putChan_scc (s : State) (q : Nat) (c : ChanCtl) : (s.putChan q c).scc = s.scc := rfl
@[simp] theorem State.putChan_dma (s : State) (q : Nat) (c : ChanCtl) : (s.putChan q c).dma = s.dma := rfl
@[simp] theorem State.putChan_mapList (s : State) (q : Nat) (c : ChanCtl) : (s.putChan q c).mapList = s.mapList := rfl
@[simp] theorem State.putChan_mapRetry (s : State) (q : Nat) (c : ChanCtl) : (s.putChan q c).mapRetry = s.mapRetry := rfl
@[simp] theorem State.putChan_fltLog (s : State) (q : Nat) (c : ChanCtl) : (s.putChan q c).fltLog = s.fltLog := rfl
@[simp] theorem State.putChan_repairRetry (s : State) (q : Nat) (c : ChanCtl) : (s.putChan q c).repairRetry = s.repairRetry := rfl
@[simp] theorem State.putChan_tackDevice (s : State) (q : Nat) (c : ChanCtl) : (s.putChan q c).tackDevice = s.tackDevice := rfl
@[simp] theorem State.putChan_tackCompat (s : State) (q : Nat) (c : ChanCtl) : (s.putChan q c).tackCompat = s.tackCompat := rfl
@[simp] theorem State.putChan_tackPdk (s : State) (q : Nat) (c : ChanCtl) : (s.putChan q c).tackPdk = s.tackPdk := rfl
@[simp] theorem State.putChan_granules (s : State) (q : Nat) (c : ChanCtl) : (s.putChan q c).granules = s.granules := rfl
@[simp] theorem State.putChan_fwTable (s : State) (q : Nat) (c : ChanCtl) : (s.putChan q c).fwTable = s.fwTable := rfl
@[simp] theorem State.putChan_grooms (s : State) (q : Nat) (c : ChanCtl) : (s.putChan q c).grooms = s.grooms := rfl
@[simp] theorem State.putChan_gctx (s : State) (q : Nat) (c : ChanCtl) : (s.putChan q c).gctx = s.gctx := rfl
@[simp] theorem State.putChan_chain (s : State) (q : Nat) (c : ChanCtl) : (s.putChan q c).chain = s.chain := rfl
@[simp] theorem State.putChan_xnode (s : State) (q : Nat) (c : ChanCtl) : (s.putChan q c).xnode = s.xnode := rfl
@[simp] theorem State.putChan_shorts (s : State) (q : Nat) (c : ChanCtl) : (s.putChan q c).shorts = s.shorts := rfl
@[simp] theorem State.putChan_fns (s : State) (q : Nat) (c : ChanCtl) : (s.putChan q c).fns = s.fns := rfl
@[simp] theorem State.putChan_lqTurn (s : State) (q : Nat) (c : ChanCtl) : (s.putChan q c).lqTurn = s.lqTurn := rfl
@[simp] theorem State.putChan_atc (s : State) (q : Nat) (c : ChanCtl) : (s.putChan q c).atc = s.atc := rfl
@[simp] theorem State.putChan_xlReqs (s : State) (q : Nat) (c : ChanCtl) : (s.putChan q c).xlReqs = s.xlReqs := rfl
@[simp] theorem State.putChan_pageReqs (s : State) (q : Nat) (c : ChanCtl) : (s.putChan q c).pageReqs = s.pageReqs := rfl
@[simp] theorem State.putChan_invPend (s : State) (q : Nat) (c : ChanCtl) : (s.putChan q c).invPend = s.invPend := rfl
@[simp] theorem State.putChan_atsFault (s : State) (q : Nat) (c : ChanCtl) : (s.putChan q c).atsFault = s.atsFault := rfl
@[simp] theorem State.putChan_ledger (s : State) (q : Nat) (c : ChanCtl) : (s.putChan q c).ledger = s.ledger := rfl
@[simp] theorem State.putChan_pdks (s : State) (q : Nat) (c : ChanCtl) : (s.putChan q c).pdks = s.pdks := rfl
@[simp] theorem State.putChan_tabAt (s : State) (q : Nat) (c : ChanCtl) : (s.putChan q c).tabAt = s.tabAt := rfl
@[simp] theorem State.putChan_stepMsgs (s : State) (q : Nat) (c : ChanCtl) : (s.putChan q c).stepMsgs = s.stepMsgs := rfl
@[simp] theorem State.putChan_msixTab (s : State) (q : Nat) (c : ChanCtl) : (s.putChan q c).msixTab = s.msixTab := rfl
@[simp] theorem State.putChan_ports (s : State) (q : Nat) (c : ChanCtl) : (s.putChan q c).ports = s.ports := rfl
@[simp] theorem State.putChan_exp (s : State) (q : Nat) (c : ChanCtl) : (s.putChan q c).exp = s.exp := rfl
@[simp] theorem State.putChan_xtags (s : State) (q : Nat) (c : ChanCtl) : (s.putChan q c).xtags = s.xtags := rfl
@[simp] theorem State.putChan_board (s : State) (q : Nat) (c : ChanCtl) : (s.putChan q c).board = s.board := rfl
@[simp] theorem State.putChan_dqTail (s : State) (q : Nat) (c : ChanCtl) : (s.putChan q c).dqTail = s.dqTail := rfl
@[simp] theorem State.putChan_fltSerial (s : State) (q : Nat) (c : ChanCtl) : (s.putChan q c).fltSerial = s.fltSerial := rfl
@[simp] theorem State.putChan_msixPend (s : State) (q : Nat) (c : ChanCtl) : (s.putChan q c).msixPend = s.msixPend := rfl
@[simp] theorem State.putChan_msixUnmasked (s : State) (q : Nat) (c : ChanCtl) : (s.putChan q c).msixUnmasked = s.msixUnmasked := rfl
@[simp] theorem State.putChan_msixEn (s : State) (q : Nat) (c : ChanCtl) : (s.putChan q c).msixEn = s.msixEn := rfl
@[simp] theorem State.putChan_msixFnMask (s : State) (q : Nat) (c : ChanCtl) : (s.putChan q c).msixFnMask = s.msixFnMask := rfl
@[simp] theorem State.putChan_aer (s : State) (q : Nat) (c : ChanCtl) : (s.putChan q c).aer = s.aer := rfl
@[simp] theorem State.putChan_fltQueue (s : State) (q : Nat) (c : ChanCtl) : (s.putChan q c).fltQueue = s.fltQueue := rfl
@[simp] theorem State.putChan_captured (s : State) (q : Nat) (c : ChanCtl) : (s.putChan q c).captured = s.captured := rfl
@[simp] theorem State.putChan_bus (s : State) (q : Nat) (c : ChanCtl) : (s.putChan q c).bus = s.bus := rfl
@[simp] theorem State.putChan_free (s : State) (q : Nat) (c : ChanCtl) : (s.putChan q c).free = s.free := rfl
@[simp] theorem State.putChan_pending (s : State) (q : Nat) (c : ChanCtl) : (s.putChan q c).pending = s.pending := rfl
@[simp] theorem State.chanOf_putChan (s : State) (q : Nat) (c : ChanCtl) : (s.putChan q c).chanOf q = c := SMap.get_set_eq s.chans _ q c
theorem State.chanOf_putChan_ne (s : State) (q : Nat) (c : ChanCtl) (j : Nat) (h : j ≠ q) : (s.putChan q c).chanOf j = s.chanOf j :=
  SMap.get_set_ne s.chans _ c h

/-! ### putLp -/

@[simp] theorem State.putLp_part (s : State) (p : Nat) (l : List MemReq) : (s.putLp p l).part = s.part := rfl
@[simp] theorem State.putLp_tb (s : State) (p : Nat) (l : List MemReq) : (s.putLp p l).tb = s.tb := rfl
@[simp] theorem State.putLp_regs (s : State) (p : Nat) (l : List MemReq) : (s.putLp p l).regs = s.regs := rfl
@[simp] theorem State.putLp_mem (s : State) (p : Nat) (l : List MemReq) : (s.putLp p l).mem = s.mem := rfl
@[simp] theorem State.putLp_checks (s : State) (p : Nat) (l : List MemReq) : (s.putLp p l).checks = s.checks := rfl
@[simp] theorem State.putLp_hostPoison (s : State) (p : Nat) (l : List MemReq) : (s.putLp p l).hostPoison = s.hostPoison := rfl
@[simp] theorem State.putLp_chans (s : State) (p : Nat) (l : List MemReq) : (s.putLp p l).chans = s.chans := rfl
@[simp] theorem State.putLp_lpScrub (s : State) (p : Nat) (l : List MemReq) : (s.putLp p l).lpScrub = s.lpScrub := rfl
@[simp] theorem State.putLp_corrected (s : State) (p : Nat) (l : List MemReq) : (s.putLp p l).corrected = s.corrected := rfl
@[simp] theorem State.putLp_tierWas (s : State) (p : Nat) (l : List MemReq) : (s.putLp p l).tierWas = s.tierWas := rfl
@[simp] theorem State.putLp_repairTable (s : State) (p : Nat) (l : List MemReq) : (s.putLp p l).repairTable = s.repairTable := rfl
@[simp] theorem State.putLp_softRows (s : State) (p : Nat) (l : List MemReq) : (s.putLp p l).softRows = s.softRows := rfl
@[simp] theorem State.putLp_fusedRows (s : State) (p : Nat) (l : List MemReq) : (s.putLp p l).fusedRows = s.fusedRows := rfl
@[simp] theorem State.putLp_wregs (s : State) (p : Nat) (l : List MemReq) : (s.putLp p l).wregs = s.wregs := rfl
@[simp] theorem State.putLp_acc (s : State) (p : Nat) (l : List MemReq) : (s.putLp p l).acc = s.acc := rfl
@[simp] theorem State.putLp_treg (s : State) (p : Nat) (l : List MemReq) : (s.putLp p l).treg = s.treg := rfl
@[simp] theorem State.putLp_tregPoison (s : State) (p : Nat) (l : List MemReq) : (s.putLp p l).tregPoison = s.tregPoison := rfl
@[simp] theorem State.putLp_seg (s : State) (p : Nat) (l : List MemReq) : (s.putLp p l).seg = s.seg := rfl
@[simp] theorem State.putLp_tables (s : State) (p : Nat) (l : List MemReq) : (s.putLp p l).tables = s.tables := rfl
@[simp] theorem State.putLp_dsp (s : State) (p : Nat) (l : List MemReq) : (s.putLp p l).dsp = s.dsp := rfl
@[simp] theorem State.putLp_scc (s : State) (p : Nat) (l : List MemReq) : (s.putLp p l).scc = s.scc := rfl
@[simp] theorem State.putLp_dma (s : State) (p : Nat) (l : List MemReq) : (s.putLp p l).dma = s.dma := rfl
@[simp] theorem State.putLp_mapList (s : State) (p : Nat) (l : List MemReq) : (s.putLp p l).mapList = s.mapList := rfl
@[simp] theorem State.putLp_mapRetry (s : State) (p : Nat) (l : List MemReq) : (s.putLp p l).mapRetry = s.mapRetry := rfl
@[simp] theorem State.putLp_fltLog (s : State) (p : Nat) (l : List MemReq) : (s.putLp p l).fltLog = s.fltLog := rfl
@[simp] theorem State.putLp_repairRetry (s : State) (p : Nat) (l : List MemReq) : (s.putLp p l).repairRetry = s.repairRetry := rfl
@[simp] theorem State.putLp_tackDevice (s : State) (p : Nat) (l : List MemReq) : (s.putLp p l).tackDevice = s.tackDevice := rfl
@[simp] theorem State.putLp_tackCompat (s : State) (p : Nat) (l : List MemReq) : (s.putLp p l).tackCompat = s.tackCompat := rfl
@[simp] theorem State.putLp_tackPdk (s : State) (p : Nat) (l : List MemReq) : (s.putLp p l).tackPdk = s.tackPdk := rfl
@[simp] theorem State.putLp_granules (s : State) (p : Nat) (l : List MemReq) : (s.putLp p l).granules = s.granules := rfl
@[simp] theorem State.putLp_fwTable (s : State) (p : Nat) (l : List MemReq) : (s.putLp p l).fwTable = s.fwTable := rfl
@[simp] theorem State.putLp_grooms (s : State) (p : Nat) (l : List MemReq) : (s.putLp p l).grooms = s.grooms := rfl
@[simp] theorem State.putLp_gctx (s : State) (p : Nat) (l : List MemReq) : (s.putLp p l).gctx = s.gctx := rfl
@[simp] theorem State.putLp_chain (s : State) (p : Nat) (l : List MemReq) : (s.putLp p l).chain = s.chain := rfl
@[simp] theorem State.putLp_xnode (s : State) (p : Nat) (l : List MemReq) : (s.putLp p l).xnode = s.xnode := rfl
@[simp] theorem State.putLp_shorts (s : State) (p : Nat) (l : List MemReq) : (s.putLp p l).shorts = s.shorts := rfl
@[simp] theorem State.putLp_fns (s : State) (p : Nat) (l : List MemReq) : (s.putLp p l).fns = s.fns := rfl
@[simp] theorem State.putLp_lqTurn (s : State) (p : Nat) (l : List MemReq) : (s.putLp p l).lqTurn = s.lqTurn := rfl
@[simp] theorem State.putLp_atc (s : State) (p : Nat) (l : List MemReq) : (s.putLp p l).atc = s.atc := rfl
@[simp] theorem State.putLp_xlReqs (s : State) (p : Nat) (l : List MemReq) : (s.putLp p l).xlReqs = s.xlReqs := rfl
@[simp] theorem State.putLp_pageReqs (s : State) (p : Nat) (l : List MemReq) : (s.putLp p l).pageReqs = s.pageReqs := rfl
@[simp] theorem State.putLp_invPend (s : State) (p : Nat) (l : List MemReq) : (s.putLp p l).invPend = s.invPend := rfl
@[simp] theorem State.putLp_atsFault (s : State) (p : Nat) (l : List MemReq) : (s.putLp p l).atsFault = s.atsFault := rfl
@[simp] theorem State.putLp_ledger (s : State) (p : Nat) (l : List MemReq) : (s.putLp p l).ledger = s.ledger := rfl
@[simp] theorem State.putLp_pdks (s : State) (p : Nat) (l : List MemReq) : (s.putLp p l).pdks = s.pdks := rfl
@[simp] theorem State.putLp_tabAt (s : State) (p : Nat) (l : List MemReq) : (s.putLp p l).tabAt = s.tabAt := rfl
@[simp] theorem State.putLp_stepMsgs (s : State) (p : Nat) (l : List MemReq) : (s.putLp p l).stepMsgs = s.stepMsgs := rfl
@[simp] theorem State.putLp_msixTab (s : State) (p : Nat) (l : List MemReq) : (s.putLp p l).msixTab = s.msixTab := rfl
@[simp] theorem State.putLp_ports (s : State) (p : Nat) (l : List MemReq) : (s.putLp p l).ports = s.ports := rfl
@[simp] theorem State.putLp_exp (s : State) (p : Nat) (l : List MemReq) : (s.putLp p l).exp = s.exp := rfl
@[simp] theorem State.putLp_xtags (s : State) (p : Nat) (l : List MemReq) : (s.putLp p l).xtags = s.xtags := rfl
@[simp] theorem State.putLp_board (s : State) (p : Nat) (l : List MemReq) : (s.putLp p l).board = s.board := rfl
@[simp] theorem State.putLp_dqTail (s : State) (p : Nat) (l : List MemReq) : (s.putLp p l).dqTail = s.dqTail := rfl
@[simp] theorem State.putLp_fltSerial (s : State) (p : Nat) (l : List MemReq) : (s.putLp p l).fltSerial = s.fltSerial := rfl
@[simp] theorem State.putLp_msixPend (s : State) (p : Nat) (l : List MemReq) : (s.putLp p l).msixPend = s.msixPend := rfl
@[simp] theorem State.putLp_msixUnmasked (s : State) (p : Nat) (l : List MemReq) : (s.putLp p l).msixUnmasked = s.msixUnmasked := rfl
@[simp] theorem State.putLp_msixEn (s : State) (p : Nat) (l : List MemReq) : (s.putLp p l).msixEn = s.msixEn := rfl
@[simp] theorem State.putLp_msixFnMask (s : State) (p : Nat) (l : List MemReq) : (s.putLp p l).msixFnMask = s.msixFnMask := rfl
@[simp] theorem State.putLp_aer (s : State) (p : Nat) (l : List MemReq) : (s.putLp p l).aer = s.aer := rfl
@[simp] theorem State.putLp_fltQueue (s : State) (p : Nat) (l : List MemReq) : (s.putLp p l).fltQueue = s.fltQueue := rfl
@[simp] theorem State.putLp_captured (s : State) (p : Nat) (l : List MemReq) : (s.putLp p l).captured = s.captured := rfl
@[simp] theorem State.putLp_bus (s : State) (p : Nat) (l : List MemReq) : (s.putLp p l).bus = s.bus := rfl
@[simp] theorem State.putLp_free (s : State) (p : Nat) (l : List MemReq) : (s.putLp p l).free = s.free := rfl
@[simp] theorem State.putLp_pending (s : State) (p : Nat) (l : List MemReq) : (s.putLp p l).pending = s.pending := rfl
@[simp] theorem State.lpOf_putLp (s : State) (p : Nat) (l : List MemReq) : (s.putLp p l).lpOf p = l := SMap.get_set_eq s.lpQueue _ p l
theorem State.lpOf_putLp_ne (s : State) (p : Nat) (l : List MemReq) (j : Nat) (h : j ≠ p) : (s.putLp p l).lpOf j = s.lpOf j :=
  SMap.get_set_ne s.lpQueue _ l h

/-! ### putFn -/

@[simp] theorem State.putFn_part (s : State) (f : Nat) (x : FnState) : (s.putFn f x).part = s.part := rfl
@[simp] theorem State.putFn_tb (s : State) (f : Nat) (x : FnState) : (s.putFn f x).tb = s.tb := rfl
@[simp] theorem State.putFn_regs (s : State) (f : Nat) (x : FnState) : (s.putFn f x).regs = s.regs := rfl
@[simp] theorem State.putFn_mem (s : State) (f : Nat) (x : FnState) : (s.putFn f x).mem = s.mem := rfl
@[simp] theorem State.putFn_checks (s : State) (f : Nat) (x : FnState) : (s.putFn f x).checks = s.checks := rfl
@[simp] theorem State.putFn_hostPoison (s : State) (f : Nat) (x : FnState) : (s.putFn f x).hostPoison = s.hostPoison := rfl
@[simp] theorem State.putFn_chans (s : State) (f : Nat) (x : FnState) : (s.putFn f x).chans = s.chans := rfl
@[simp] theorem State.putFn_lpQueue (s : State) (f : Nat) (x : FnState) : (s.putFn f x).lpQueue = s.lpQueue := rfl
@[simp] theorem State.putFn_lpScrub (s : State) (f : Nat) (x : FnState) : (s.putFn f x).lpScrub = s.lpScrub := rfl
@[simp] theorem State.putFn_corrected (s : State) (f : Nat) (x : FnState) : (s.putFn f x).corrected = s.corrected := rfl
@[simp] theorem State.putFn_tierWas (s : State) (f : Nat) (x : FnState) : (s.putFn f x).tierWas = s.tierWas := rfl
@[simp] theorem State.putFn_repairTable (s : State) (f : Nat) (x : FnState) : (s.putFn f x).repairTable = s.repairTable := rfl
@[simp] theorem State.putFn_softRows (s : State) (f : Nat) (x : FnState) : (s.putFn f x).softRows = s.softRows := rfl
@[simp] theorem State.putFn_fusedRows (s : State) (f : Nat) (x : FnState) : (s.putFn f x).fusedRows = s.fusedRows := rfl
@[simp] theorem State.putFn_wregs (s : State) (f : Nat) (x : FnState) : (s.putFn f x).wregs = s.wregs := rfl
@[simp] theorem State.putFn_acc (s : State) (f : Nat) (x : FnState) : (s.putFn f x).acc = s.acc := rfl
@[simp] theorem State.putFn_treg (s : State) (f : Nat) (x : FnState) : (s.putFn f x).treg = s.treg := rfl
@[simp] theorem State.putFn_tregPoison (s : State) (f : Nat) (x : FnState) : (s.putFn f x).tregPoison = s.tregPoison := rfl
@[simp] theorem State.putFn_seg (s : State) (f : Nat) (x : FnState) : (s.putFn f x).seg = s.seg := rfl
@[simp] theorem State.putFn_tables (s : State) (f : Nat) (x : FnState) : (s.putFn f x).tables = s.tables := rfl
@[simp] theorem State.putFn_dsp (s : State) (f : Nat) (x : FnState) : (s.putFn f x).dsp = s.dsp := rfl
@[simp] theorem State.putFn_scc (s : State) (f : Nat) (x : FnState) : (s.putFn f x).scc = s.scc := rfl
@[simp] theorem State.putFn_dma (s : State) (f : Nat) (x : FnState) : (s.putFn f x).dma = s.dma := rfl
@[simp] theorem State.putFn_mapList (s : State) (f : Nat) (x : FnState) : (s.putFn f x).mapList = s.mapList := rfl
@[simp] theorem State.putFn_mapRetry (s : State) (f : Nat) (x : FnState) : (s.putFn f x).mapRetry = s.mapRetry := rfl
@[simp] theorem State.putFn_fltLog (s : State) (f : Nat) (x : FnState) : (s.putFn f x).fltLog = s.fltLog := rfl
@[simp] theorem State.putFn_repairRetry (s : State) (f : Nat) (x : FnState) : (s.putFn f x).repairRetry = s.repairRetry := rfl
@[simp] theorem State.putFn_tackDevice (s : State) (f : Nat) (x : FnState) : (s.putFn f x).tackDevice = s.tackDevice := rfl
@[simp] theorem State.putFn_tackCompat (s : State) (f : Nat) (x : FnState) : (s.putFn f x).tackCompat = s.tackCompat := rfl
@[simp] theorem State.putFn_tackPdk (s : State) (f : Nat) (x : FnState) : (s.putFn f x).tackPdk = s.tackPdk := rfl
@[simp] theorem State.putFn_granules (s : State) (f : Nat) (x : FnState) : (s.putFn f x).granules = s.granules := rfl
@[simp] theorem State.putFn_fwTable (s : State) (f : Nat) (x : FnState) : (s.putFn f x).fwTable = s.fwTable := rfl
@[simp] theorem State.putFn_grooms (s : State) (f : Nat) (x : FnState) : (s.putFn f x).grooms = s.grooms := rfl
@[simp] theorem State.putFn_gctx (s : State) (f : Nat) (x : FnState) : (s.putFn f x).gctx = s.gctx := rfl
@[simp] theorem State.putFn_chain (s : State) (f : Nat) (x : FnState) : (s.putFn f x).chain = s.chain := rfl
@[simp] theorem State.putFn_xnode (s : State) (f : Nat) (x : FnState) : (s.putFn f x).xnode = s.xnode := rfl
@[simp] theorem State.putFn_shorts (s : State) (f : Nat) (x : FnState) : (s.putFn f x).shorts = s.shorts := rfl
@[simp] theorem State.putFn_lqTurn (s : State) (f : Nat) (x : FnState) : (s.putFn f x).lqTurn = s.lqTurn := rfl
@[simp] theorem State.putFn_atc (s : State) (f : Nat) (x : FnState) : (s.putFn f x).atc = s.atc := rfl
@[simp] theorem State.putFn_xlReqs (s : State) (f : Nat) (x : FnState) : (s.putFn f x).xlReqs = s.xlReqs := rfl
@[simp] theorem State.putFn_pageReqs (s : State) (f : Nat) (x : FnState) : (s.putFn f x).pageReqs = s.pageReqs := rfl
@[simp] theorem State.putFn_invPend (s : State) (f : Nat) (x : FnState) : (s.putFn f x).invPend = s.invPend := rfl
@[simp] theorem State.putFn_atsFault (s : State) (f : Nat) (x : FnState) : (s.putFn f x).atsFault = s.atsFault := rfl
@[simp] theorem State.putFn_ledger (s : State) (f : Nat) (x : FnState) : (s.putFn f x).ledger = s.ledger := rfl
@[simp] theorem State.putFn_pdks (s : State) (f : Nat) (x : FnState) : (s.putFn f x).pdks = s.pdks := rfl
@[simp] theorem State.putFn_tabAt (s : State) (f : Nat) (x : FnState) : (s.putFn f x).tabAt = s.tabAt := rfl
@[simp] theorem State.putFn_stepMsgs (s : State) (f : Nat) (x : FnState) : (s.putFn f x).stepMsgs = s.stepMsgs := rfl
@[simp] theorem State.putFn_msixTab (s : State) (f : Nat) (x : FnState) : (s.putFn f x).msixTab = s.msixTab := rfl
@[simp] theorem State.putFn_ports (s : State) (f : Nat) (x : FnState) : (s.putFn f x).ports = s.ports := rfl
@[simp] theorem State.putFn_exp (s : State) (f : Nat) (x : FnState) : (s.putFn f x).exp = s.exp := rfl
@[simp] theorem State.putFn_xtags (s : State) (f : Nat) (x : FnState) : (s.putFn f x).xtags = s.xtags := rfl
@[simp] theorem State.putFn_board (s : State) (f : Nat) (x : FnState) : (s.putFn f x).board = s.board := rfl
@[simp] theorem State.putFn_dqTail (s : State) (f : Nat) (x : FnState) : (s.putFn f x).dqTail = s.dqTail := rfl
@[simp] theorem State.putFn_fltSerial (s : State) (f : Nat) (x : FnState) : (s.putFn f x).fltSerial = s.fltSerial := rfl
@[simp] theorem State.putFn_msixPend (s : State) (f : Nat) (x : FnState) : (s.putFn f x).msixPend = s.msixPend := rfl
@[simp] theorem State.putFn_msixUnmasked (s : State) (f : Nat) (x : FnState) : (s.putFn f x).msixUnmasked = s.msixUnmasked := rfl
@[simp] theorem State.putFn_msixEn (s : State) (f : Nat) (x : FnState) : (s.putFn f x).msixEn = s.msixEn := rfl
@[simp] theorem State.putFn_msixFnMask (s : State) (f : Nat) (x : FnState) : (s.putFn f x).msixFnMask = s.msixFnMask := rfl
@[simp] theorem State.putFn_aer (s : State) (f : Nat) (x : FnState) : (s.putFn f x).aer = s.aer := rfl
@[simp] theorem State.putFn_fltQueue (s : State) (f : Nat) (x : FnState) : (s.putFn f x).fltQueue = s.fltQueue := rfl
@[simp] theorem State.putFn_captured (s : State) (f : Nat) (x : FnState) : (s.putFn f x).captured = s.captured := rfl
@[simp] theorem State.putFn_bus (s : State) (f : Nat) (x : FnState) : (s.putFn f x).bus = s.bus := rfl
@[simp] theorem State.putFn_free (s : State) (f : Nat) (x : FnState) : (s.putFn f x).free = s.free := rfl
@[simp] theorem State.putFn_pending (s : State) (f : Nat) (x : FnState) : (s.putFn f x).pending = s.pending := rfl
@[simp] theorem State.fnOf_putFn (s : State) (f : Nat) (x : FnState) : (s.putFn f x).fnOf f = x := SMap.get_set_eq s.fns _ f x
theorem State.fnOf_putFn_ne (s : State) (f : Nat) (x : FnState) (j : Nat) (h : j ≠ f) : (s.putFn f x).fnOf j = s.fnOf j :=
  SMap.get_set_ne s.fns _ x h

/-! ### putPdk -/

@[simp] theorem State.putPdk_part (s : State) (p : Nat) (x : Pdk) : (s.putPdk p x).part = s.part := rfl
@[simp] theorem State.putPdk_tb (s : State) (p : Nat) (x : Pdk) : (s.putPdk p x).tb = s.tb := rfl
@[simp] theorem State.putPdk_regs (s : State) (p : Nat) (x : Pdk) : (s.putPdk p x).regs = s.regs := rfl
@[simp] theorem State.putPdk_mem (s : State) (p : Nat) (x : Pdk) : (s.putPdk p x).mem = s.mem := rfl
@[simp] theorem State.putPdk_checks (s : State) (p : Nat) (x : Pdk) : (s.putPdk p x).checks = s.checks := rfl
@[simp] theorem State.putPdk_hostPoison (s : State) (p : Nat) (x : Pdk) : (s.putPdk p x).hostPoison = s.hostPoison := rfl
@[simp] theorem State.putPdk_chans (s : State) (p : Nat) (x : Pdk) : (s.putPdk p x).chans = s.chans := rfl
@[simp] theorem State.putPdk_lpQueue (s : State) (p : Nat) (x : Pdk) : (s.putPdk p x).lpQueue = s.lpQueue := rfl
@[simp] theorem State.putPdk_lpScrub (s : State) (p : Nat) (x : Pdk) : (s.putPdk p x).lpScrub = s.lpScrub := rfl
@[simp] theorem State.putPdk_corrected (s : State) (p : Nat) (x : Pdk) : (s.putPdk p x).corrected = s.corrected := rfl
@[simp] theorem State.putPdk_tierWas (s : State) (p : Nat) (x : Pdk) : (s.putPdk p x).tierWas = s.tierWas := rfl
@[simp] theorem State.putPdk_repairTable (s : State) (p : Nat) (x : Pdk) : (s.putPdk p x).repairTable = s.repairTable := rfl
@[simp] theorem State.putPdk_softRows (s : State) (p : Nat) (x : Pdk) : (s.putPdk p x).softRows = s.softRows := rfl
@[simp] theorem State.putPdk_fusedRows (s : State) (p : Nat) (x : Pdk) : (s.putPdk p x).fusedRows = s.fusedRows := rfl
@[simp] theorem State.putPdk_wregs (s : State) (p : Nat) (x : Pdk) : (s.putPdk p x).wregs = s.wregs := rfl
@[simp] theorem State.putPdk_acc (s : State) (p : Nat) (x : Pdk) : (s.putPdk p x).acc = s.acc := rfl
@[simp] theorem State.putPdk_treg (s : State) (p : Nat) (x : Pdk) : (s.putPdk p x).treg = s.treg := rfl
@[simp] theorem State.putPdk_tregPoison (s : State) (p : Nat) (x : Pdk) : (s.putPdk p x).tregPoison = s.tregPoison := rfl
@[simp] theorem State.putPdk_seg (s : State) (p : Nat) (x : Pdk) : (s.putPdk p x).seg = s.seg := rfl
@[simp] theorem State.putPdk_tables (s : State) (p : Nat) (x : Pdk) : (s.putPdk p x).tables = s.tables := rfl
@[simp] theorem State.putPdk_dsp (s : State) (p : Nat) (x : Pdk) : (s.putPdk p x).dsp = s.dsp := rfl
@[simp] theorem State.putPdk_scc (s : State) (p : Nat) (x : Pdk) : (s.putPdk p x).scc = s.scc := rfl
@[simp] theorem State.putPdk_dma (s : State) (p : Nat) (x : Pdk) : (s.putPdk p x).dma = s.dma := rfl
@[simp] theorem State.putPdk_mapList (s : State) (p : Nat) (x : Pdk) : (s.putPdk p x).mapList = s.mapList := rfl
@[simp] theorem State.putPdk_mapRetry (s : State) (p : Nat) (x : Pdk) : (s.putPdk p x).mapRetry = s.mapRetry := rfl
@[simp] theorem State.putPdk_fltLog (s : State) (p : Nat) (x : Pdk) : (s.putPdk p x).fltLog = s.fltLog := rfl
@[simp] theorem State.putPdk_repairRetry (s : State) (p : Nat) (x : Pdk) : (s.putPdk p x).repairRetry = s.repairRetry := rfl
@[simp] theorem State.putPdk_tackDevice (s : State) (p : Nat) (x : Pdk) : (s.putPdk p x).tackDevice = s.tackDevice := rfl
@[simp] theorem State.putPdk_tackCompat (s : State) (p : Nat) (x : Pdk) : (s.putPdk p x).tackCompat = s.tackCompat := rfl
@[simp] theorem State.putPdk_tackPdk (s : State) (p : Nat) (x : Pdk) : (s.putPdk p x).tackPdk = s.tackPdk := rfl
@[simp] theorem State.putPdk_granules (s : State) (p : Nat) (x : Pdk) : (s.putPdk p x).granules = s.granules := rfl
@[simp] theorem State.putPdk_fwTable (s : State) (p : Nat) (x : Pdk) : (s.putPdk p x).fwTable = s.fwTable := rfl
@[simp] theorem State.putPdk_grooms (s : State) (p : Nat) (x : Pdk) : (s.putPdk p x).grooms = s.grooms := rfl
@[simp] theorem State.putPdk_gctx (s : State) (p : Nat) (x : Pdk) : (s.putPdk p x).gctx = s.gctx := rfl
@[simp] theorem State.putPdk_chain (s : State) (p : Nat) (x : Pdk) : (s.putPdk p x).chain = s.chain := rfl
@[simp] theorem State.putPdk_xnode (s : State) (p : Nat) (x : Pdk) : (s.putPdk p x).xnode = s.xnode := rfl
@[simp] theorem State.putPdk_shorts (s : State) (p : Nat) (x : Pdk) : (s.putPdk p x).shorts = s.shorts := rfl
@[simp] theorem State.putPdk_fns (s : State) (p : Nat) (x : Pdk) : (s.putPdk p x).fns = s.fns := rfl
@[simp] theorem State.putPdk_lqTurn (s : State) (p : Nat) (x : Pdk) : (s.putPdk p x).lqTurn = s.lqTurn := rfl
@[simp] theorem State.putPdk_atc (s : State) (p : Nat) (x : Pdk) : (s.putPdk p x).atc = s.atc := rfl
@[simp] theorem State.putPdk_xlReqs (s : State) (p : Nat) (x : Pdk) : (s.putPdk p x).xlReqs = s.xlReqs := rfl
@[simp] theorem State.putPdk_pageReqs (s : State) (p : Nat) (x : Pdk) : (s.putPdk p x).pageReqs = s.pageReqs := rfl
@[simp] theorem State.putPdk_invPend (s : State) (p : Nat) (x : Pdk) : (s.putPdk p x).invPend = s.invPend := rfl
@[simp] theorem State.putPdk_atsFault (s : State) (p : Nat) (x : Pdk) : (s.putPdk p x).atsFault = s.atsFault := rfl
@[simp] theorem State.putPdk_ledger (s : State) (p : Nat) (x : Pdk) : (s.putPdk p x).ledger = s.ledger := rfl
@[simp] theorem State.putPdk_tabAt (s : State) (p : Nat) (x : Pdk) : (s.putPdk p x).tabAt = s.tabAt := rfl
@[simp] theorem State.putPdk_stepMsgs (s : State) (p : Nat) (x : Pdk) : (s.putPdk p x).stepMsgs = s.stepMsgs := rfl
@[simp] theorem State.putPdk_msixTab (s : State) (p : Nat) (x : Pdk) : (s.putPdk p x).msixTab = s.msixTab := rfl
@[simp] theorem State.putPdk_ports (s : State) (p : Nat) (x : Pdk) : (s.putPdk p x).ports = s.ports := rfl
@[simp] theorem State.putPdk_exp (s : State) (p : Nat) (x : Pdk) : (s.putPdk p x).exp = s.exp := rfl
@[simp] theorem State.putPdk_xtags (s : State) (p : Nat) (x : Pdk) : (s.putPdk p x).xtags = s.xtags := rfl
@[simp] theorem State.putPdk_board (s : State) (p : Nat) (x : Pdk) : (s.putPdk p x).board = s.board := rfl
@[simp] theorem State.putPdk_dqTail (s : State) (p : Nat) (x : Pdk) : (s.putPdk p x).dqTail = s.dqTail := rfl
@[simp] theorem State.putPdk_fltSerial (s : State) (p : Nat) (x : Pdk) : (s.putPdk p x).fltSerial = s.fltSerial := rfl
@[simp] theorem State.putPdk_msixPend (s : State) (p : Nat) (x : Pdk) : (s.putPdk p x).msixPend = s.msixPend := rfl
@[simp] theorem State.putPdk_msixUnmasked (s : State) (p : Nat) (x : Pdk) : (s.putPdk p x).msixUnmasked = s.msixUnmasked := rfl
@[simp] theorem State.putPdk_msixEn (s : State) (p : Nat) (x : Pdk) : (s.putPdk p x).msixEn = s.msixEn := rfl
@[simp] theorem State.putPdk_msixFnMask (s : State) (p : Nat) (x : Pdk) : (s.putPdk p x).msixFnMask = s.msixFnMask := rfl
@[simp] theorem State.putPdk_aer (s : State) (p : Nat) (x : Pdk) : (s.putPdk p x).aer = s.aer := rfl
@[simp] theorem State.putPdk_fltQueue (s : State) (p : Nat) (x : Pdk) : (s.putPdk p x).fltQueue = s.fltQueue := rfl
@[simp] theorem State.putPdk_captured (s : State) (p : Nat) (x : Pdk) : (s.putPdk p x).captured = s.captured := rfl
@[simp] theorem State.putPdk_bus (s : State) (p : Nat) (x : Pdk) : (s.putPdk p x).bus = s.bus := rfl
@[simp] theorem State.putPdk_free (s : State) (p : Nat) (x : Pdk) : (s.putPdk p x).free = s.free := rfl
@[simp] theorem State.putPdk_pending (s : State) (p : Nat) (x : Pdk) : (s.putPdk p x).pending = s.pending := rfl
@[simp] theorem State.pdkOf_putPdk (s : State) (p : Nat) (x : Pdk) : (s.putPdk p x).pdkOf p = x := SMap.get_set_eq s.pdks _ p x
theorem State.pdkOf_putPdk_ne (s : State) (p : Nat) (x : Pdk) (j : Nat) (h : j ≠ p) : (s.putPdk p x).pdkOf j = s.pdkOf j :=
  SMap.get_set_ne s.pdks _ x h

/-! ### putEntry -/

@[simp] theorem State.putEntry_part (s : State) (ix : Nat) (e : Entry) : (s.putEntry ix e).part = s.part := rfl
@[simp] theorem State.putEntry_tb (s : State) (ix : Nat) (e : Entry) : (s.putEntry ix e).tb = s.tb := rfl
@[simp] theorem State.putEntry_regs (s : State) (ix : Nat) (e : Entry) : (s.putEntry ix e).regs = s.regs := rfl
@[simp] theorem State.putEntry_mem (s : State) (ix : Nat) (e : Entry) : (s.putEntry ix e).mem = s.mem := rfl
@[simp] theorem State.putEntry_checks (s : State) (ix : Nat) (e : Entry) : (s.putEntry ix e).checks = s.checks := rfl
@[simp] theorem State.putEntry_hostPoison (s : State) (ix : Nat) (e : Entry) : (s.putEntry ix e).hostPoison = s.hostPoison := rfl
@[simp] theorem State.putEntry_chans (s : State) (ix : Nat) (e : Entry) : (s.putEntry ix e).chans = s.chans := rfl
@[simp] theorem State.putEntry_lpQueue (s : State) (ix : Nat) (e : Entry) : (s.putEntry ix e).lpQueue = s.lpQueue := rfl
@[simp] theorem State.putEntry_lpScrub (s : State) (ix : Nat) (e : Entry) : (s.putEntry ix e).lpScrub = s.lpScrub := rfl
@[simp] theorem State.putEntry_corrected (s : State) (ix : Nat) (e : Entry) : (s.putEntry ix e).corrected = s.corrected := rfl
@[simp] theorem State.putEntry_tierWas (s : State) (ix : Nat) (e : Entry) : (s.putEntry ix e).tierWas = s.tierWas := rfl
@[simp] theorem State.putEntry_repairTable (s : State) (ix : Nat) (e : Entry) : (s.putEntry ix e).repairTable = s.repairTable := rfl
@[simp] theorem State.putEntry_softRows (s : State) (ix : Nat) (e : Entry) : (s.putEntry ix e).softRows = s.softRows := rfl
@[simp] theorem State.putEntry_fusedRows (s : State) (ix : Nat) (e : Entry) : (s.putEntry ix e).fusedRows = s.fusedRows := rfl
@[simp] theorem State.putEntry_wregs (s : State) (ix : Nat) (e : Entry) : (s.putEntry ix e).wregs = s.wregs := rfl
@[simp] theorem State.putEntry_acc (s : State) (ix : Nat) (e : Entry) : (s.putEntry ix e).acc = s.acc := rfl
@[simp] theorem State.putEntry_treg (s : State) (ix : Nat) (e : Entry) : (s.putEntry ix e).treg = s.treg := rfl
@[simp] theorem State.putEntry_tregPoison (s : State) (ix : Nat) (e : Entry) : (s.putEntry ix e).tregPoison = s.tregPoison := rfl
@[simp] theorem State.putEntry_seg (s : State) (ix : Nat) (e : Entry) : (s.putEntry ix e).seg = s.seg := rfl
@[simp] theorem State.putEntry_tables (s : State) (ix : Nat) (e : Entry) : (s.putEntry ix e).tables = s.tables := rfl
@[simp] theorem State.putEntry_dsp (s : State) (ix : Nat) (e : Entry) : (s.putEntry ix e).dsp = s.dsp := rfl
@[simp] theorem State.putEntry_scc (s : State) (ix : Nat) (e : Entry) : (s.putEntry ix e).scc = s.scc := rfl
@[simp] theorem State.putEntry_dma (s : State) (ix : Nat) (e : Entry) : (s.putEntry ix e).dma = s.dma := rfl
@[simp] theorem State.putEntry_mapList (s : State) (ix : Nat) (e : Entry) : (s.putEntry ix e).mapList = s.mapList := rfl
@[simp] theorem State.putEntry_mapRetry (s : State) (ix : Nat) (e : Entry) : (s.putEntry ix e).mapRetry = s.mapRetry := rfl
@[simp] theorem State.putEntry_fltLog (s : State) (ix : Nat) (e : Entry) : (s.putEntry ix e).fltLog = s.fltLog := rfl
@[simp] theorem State.putEntry_repairRetry (s : State) (ix : Nat) (e : Entry) : (s.putEntry ix e).repairRetry = s.repairRetry := rfl
@[simp] theorem State.putEntry_tackDevice (s : State) (ix : Nat) (e : Entry) : (s.putEntry ix e).tackDevice = s.tackDevice := rfl
@[simp] theorem State.putEntry_tackCompat (s : State) (ix : Nat) (e : Entry) : (s.putEntry ix e).tackCompat = s.tackCompat := rfl
@[simp] theorem State.putEntry_tackPdk (s : State) (ix : Nat) (e : Entry) : (s.putEntry ix e).tackPdk = s.tackPdk := rfl
@[simp] theorem State.putEntry_granules (s : State) (ix : Nat) (e : Entry) : (s.putEntry ix e).granules = s.granules := rfl
@[simp] theorem State.putEntry_fwTable (s : State) (ix : Nat) (e : Entry) : (s.putEntry ix e).fwTable = s.fwTable := rfl
@[simp] theorem State.putEntry_grooms (s : State) (ix : Nat) (e : Entry) : (s.putEntry ix e).grooms = s.grooms := rfl
@[simp] theorem State.putEntry_gctx (s : State) (ix : Nat) (e : Entry) : (s.putEntry ix e).gctx = s.gctx := rfl
@[simp] theorem State.putEntry_chain (s : State) (ix : Nat) (e : Entry) : (s.putEntry ix e).chain = s.chain := rfl
@[simp] theorem State.putEntry_xnode (s : State) (ix : Nat) (e : Entry) : (s.putEntry ix e).xnode = s.xnode := rfl
@[simp] theorem State.putEntry_shorts (s : State) (ix : Nat) (e : Entry) : (s.putEntry ix e).shorts = s.shorts := rfl
@[simp] theorem State.putEntry_fns (s : State) (ix : Nat) (e : Entry) : (s.putEntry ix e).fns = s.fns := rfl
@[simp] theorem State.putEntry_lqTurn (s : State) (ix : Nat) (e : Entry) : (s.putEntry ix e).lqTurn = s.lqTurn := rfl
@[simp] theorem State.putEntry_atc (s : State) (ix : Nat) (e : Entry) : (s.putEntry ix e).atc = s.atc := rfl
@[simp] theorem State.putEntry_xlReqs (s : State) (ix : Nat) (e : Entry) : (s.putEntry ix e).xlReqs = s.xlReqs := rfl
@[simp] theorem State.putEntry_pageReqs (s : State) (ix : Nat) (e : Entry) : (s.putEntry ix e).pageReqs = s.pageReqs := rfl
@[simp] theorem State.putEntry_invPend (s : State) (ix : Nat) (e : Entry) : (s.putEntry ix e).invPend = s.invPend := rfl
@[simp] theorem State.putEntry_atsFault (s : State) (ix : Nat) (e : Entry) : (s.putEntry ix e).atsFault = s.atsFault := rfl
@[simp] theorem State.putEntry_pdks (s : State) (ix : Nat) (e : Entry) : (s.putEntry ix e).pdks = s.pdks := rfl
@[simp] theorem State.putEntry_tabAt (s : State) (ix : Nat) (e : Entry) : (s.putEntry ix e).tabAt = s.tabAt := rfl
@[simp] theorem State.putEntry_stepMsgs (s : State) (ix : Nat) (e : Entry) : (s.putEntry ix e).stepMsgs = s.stepMsgs := rfl
@[simp] theorem State.putEntry_msixTab (s : State) (ix : Nat) (e : Entry) : (s.putEntry ix e).msixTab = s.msixTab := rfl
@[simp] theorem State.putEntry_ports (s : State) (ix : Nat) (e : Entry) : (s.putEntry ix e).ports = s.ports := rfl
@[simp] theorem State.putEntry_exp (s : State) (ix : Nat) (e : Entry) : (s.putEntry ix e).exp = s.exp := rfl
@[simp] theorem State.putEntry_xtags (s : State) (ix : Nat) (e : Entry) : (s.putEntry ix e).xtags = s.xtags := rfl
@[simp] theorem State.putEntry_board (s : State) (ix : Nat) (e : Entry) : (s.putEntry ix e).board = s.board := rfl
@[simp] theorem State.putEntry_dqTail (s : State) (ix : Nat) (e : Entry) : (s.putEntry ix e).dqTail = s.dqTail := rfl
@[simp] theorem State.putEntry_fltSerial (s : State) (ix : Nat) (e : Entry) : (s.putEntry ix e).fltSerial = s.fltSerial := rfl
@[simp] theorem State.putEntry_msixPend (s : State) (ix : Nat) (e : Entry) : (s.putEntry ix e).msixPend = s.msixPend := rfl
@[simp] theorem State.putEntry_msixUnmasked (s : State) (ix : Nat) (e : Entry) : (s.putEntry ix e).msixUnmasked = s.msixUnmasked := rfl
@[simp] theorem State.putEntry_msixEn (s : State) (ix : Nat) (e : Entry) : (s.putEntry ix e).msixEn = s.msixEn := rfl
@[simp] theorem State.putEntry_msixFnMask (s : State) (ix : Nat) (e : Entry) : (s.putEntry ix e).msixFnMask = s.msixFnMask := rfl
@[simp] theorem State.putEntry_aer (s : State) (ix : Nat) (e : Entry) : (s.putEntry ix e).aer = s.aer := rfl
@[simp] theorem State.putEntry_fltQueue (s : State) (ix : Nat) (e : Entry) : (s.putEntry ix e).fltQueue = s.fltQueue := rfl
@[simp] theorem State.putEntry_captured (s : State) (ix : Nat) (e : Entry) : (s.putEntry ix e).captured = s.captured := rfl
@[simp] theorem State.putEntry_bus (s : State) (ix : Nat) (e : Entry) : (s.putEntry ix e).bus = s.bus := rfl
@[simp] theorem State.putEntry_free (s : State) (ix : Nat) (e : Entry) : (s.putEntry ix e).free = s.free := rfl
@[simp] theorem State.putEntry_pending (s : State) (ix : Nat) (e : Entry) : (s.putEntry ix e).pending = s.pending := rfl
@[simp] theorem State.entryOf_putEntry (s : State) (ix : Nat) (e : Entry) : (s.putEntry ix e).entryOf ix = e := SMap.get_set_eq s.ledger _ ix e
theorem State.entryOf_putEntry_ne (s : State) (ix : Nat) (e : Entry) (j : Nat) (h : j ≠ ix) : (s.putEntry ix e).entryOf j = s.entryOf j :=
  SMap.get_set_ne s.ledger _ e h

/-! ### putPort -/

@[simp] theorem State.putPort_part (s : State) (k : Nat) (p : DrtPort) : (s.putPort k p).part = s.part := rfl
@[simp] theorem State.putPort_tb (s : State) (k : Nat) (p : DrtPort) : (s.putPort k p).tb = s.tb := rfl
@[simp] theorem State.putPort_regs (s : State) (k : Nat) (p : DrtPort) : (s.putPort k p).regs = s.regs := rfl
@[simp] theorem State.putPort_mem (s : State) (k : Nat) (p : DrtPort) : (s.putPort k p).mem = s.mem := rfl
@[simp] theorem State.putPort_checks (s : State) (k : Nat) (p : DrtPort) : (s.putPort k p).checks = s.checks := rfl
@[simp] theorem State.putPort_hostPoison (s : State) (k : Nat) (p : DrtPort) : (s.putPort k p).hostPoison = s.hostPoison := rfl
@[simp] theorem State.putPort_chans (s : State) (k : Nat) (p : DrtPort) : (s.putPort k p).chans = s.chans := rfl
@[simp] theorem State.putPort_lpQueue (s : State) (k : Nat) (p : DrtPort) : (s.putPort k p).lpQueue = s.lpQueue := rfl
@[simp] theorem State.putPort_lpScrub (s : State) (k : Nat) (p : DrtPort) : (s.putPort k p).lpScrub = s.lpScrub := rfl
@[simp] theorem State.putPort_corrected (s : State) (k : Nat) (p : DrtPort) : (s.putPort k p).corrected = s.corrected := rfl
@[simp] theorem State.putPort_tierWas (s : State) (k : Nat) (p : DrtPort) : (s.putPort k p).tierWas = s.tierWas := rfl
@[simp] theorem State.putPort_repairTable (s : State) (k : Nat) (p : DrtPort) : (s.putPort k p).repairTable = s.repairTable := rfl
@[simp] theorem State.putPort_softRows (s : State) (k : Nat) (p : DrtPort) : (s.putPort k p).softRows = s.softRows := rfl
@[simp] theorem State.putPort_fusedRows (s : State) (k : Nat) (p : DrtPort) : (s.putPort k p).fusedRows = s.fusedRows := rfl
@[simp] theorem State.putPort_wregs (s : State) (k : Nat) (p : DrtPort) : (s.putPort k p).wregs = s.wregs := rfl
@[simp] theorem State.putPort_acc (s : State) (k : Nat) (p : DrtPort) : (s.putPort k p).acc = s.acc := rfl
@[simp] theorem State.putPort_treg (s : State) (k : Nat) (p : DrtPort) : (s.putPort k p).treg = s.treg := rfl
@[simp] theorem State.putPort_tregPoison (s : State) (k : Nat) (p : DrtPort) : (s.putPort k p).tregPoison = s.tregPoison := rfl
@[simp] theorem State.putPort_seg (s : State) (k : Nat) (p : DrtPort) : (s.putPort k p).seg = s.seg := rfl
@[simp] theorem State.putPort_tables (s : State) (k : Nat) (p : DrtPort) : (s.putPort k p).tables = s.tables := rfl
@[simp] theorem State.putPort_dsp (s : State) (k : Nat) (p : DrtPort) : (s.putPort k p).dsp = s.dsp := rfl
@[simp] theorem State.putPort_scc (s : State) (k : Nat) (p : DrtPort) : (s.putPort k p).scc = s.scc := rfl
@[simp] theorem State.putPort_dma (s : State) (k : Nat) (p : DrtPort) : (s.putPort k p).dma = s.dma := rfl
@[simp] theorem State.putPort_mapList (s : State) (k : Nat) (p : DrtPort) : (s.putPort k p).mapList = s.mapList := rfl
@[simp] theorem State.putPort_mapRetry (s : State) (k : Nat) (p : DrtPort) : (s.putPort k p).mapRetry = s.mapRetry := rfl
@[simp] theorem State.putPort_fltLog (s : State) (k : Nat) (p : DrtPort) : (s.putPort k p).fltLog = s.fltLog := rfl
@[simp] theorem State.putPort_repairRetry (s : State) (k : Nat) (p : DrtPort) : (s.putPort k p).repairRetry = s.repairRetry := rfl
@[simp] theorem State.putPort_tackDevice (s : State) (k : Nat) (p : DrtPort) : (s.putPort k p).tackDevice = s.tackDevice := rfl
@[simp] theorem State.putPort_tackCompat (s : State) (k : Nat) (p : DrtPort) : (s.putPort k p).tackCompat = s.tackCompat := rfl
@[simp] theorem State.putPort_tackPdk (s : State) (k : Nat) (p : DrtPort) : (s.putPort k p).tackPdk = s.tackPdk := rfl
@[simp] theorem State.putPort_granules (s : State) (k : Nat) (p : DrtPort) : (s.putPort k p).granules = s.granules := rfl
@[simp] theorem State.putPort_fwTable (s : State) (k : Nat) (p : DrtPort) : (s.putPort k p).fwTable = s.fwTable := rfl
@[simp] theorem State.putPort_grooms (s : State) (k : Nat) (p : DrtPort) : (s.putPort k p).grooms = s.grooms := rfl
@[simp] theorem State.putPort_gctx (s : State) (k : Nat) (p : DrtPort) : (s.putPort k p).gctx = s.gctx := rfl
@[simp] theorem State.putPort_chain (s : State) (k : Nat) (p : DrtPort) : (s.putPort k p).chain = s.chain := rfl
@[simp] theorem State.putPort_xnode (s : State) (k : Nat) (p : DrtPort) : (s.putPort k p).xnode = s.xnode := rfl
@[simp] theorem State.putPort_shorts (s : State) (k : Nat) (p : DrtPort) : (s.putPort k p).shorts = s.shorts := rfl
@[simp] theorem State.putPort_fns (s : State) (k : Nat) (p : DrtPort) : (s.putPort k p).fns = s.fns := rfl
@[simp] theorem State.putPort_lqTurn (s : State) (k : Nat) (p : DrtPort) : (s.putPort k p).lqTurn = s.lqTurn := rfl
@[simp] theorem State.putPort_atc (s : State) (k : Nat) (p : DrtPort) : (s.putPort k p).atc = s.atc := rfl
@[simp] theorem State.putPort_xlReqs (s : State) (k : Nat) (p : DrtPort) : (s.putPort k p).xlReqs = s.xlReqs := rfl
@[simp] theorem State.putPort_pageReqs (s : State) (k : Nat) (p : DrtPort) : (s.putPort k p).pageReqs = s.pageReqs := rfl
@[simp] theorem State.putPort_invPend (s : State) (k : Nat) (p : DrtPort) : (s.putPort k p).invPend = s.invPend := rfl
@[simp] theorem State.putPort_atsFault (s : State) (k : Nat) (p : DrtPort) : (s.putPort k p).atsFault = s.atsFault := rfl
@[simp] theorem State.putPort_ledger (s : State) (k : Nat) (p : DrtPort) : (s.putPort k p).ledger = s.ledger := rfl
@[simp] theorem State.putPort_pdks (s : State) (k : Nat) (p : DrtPort) : (s.putPort k p).pdks = s.pdks := rfl
@[simp] theorem State.putPort_tabAt (s : State) (k : Nat) (p : DrtPort) : (s.putPort k p).tabAt = s.tabAt := rfl
@[simp] theorem State.putPort_stepMsgs (s : State) (k : Nat) (p : DrtPort) : (s.putPort k p).stepMsgs = s.stepMsgs := rfl
@[simp] theorem State.putPort_msixTab (s : State) (k : Nat) (p : DrtPort) : (s.putPort k p).msixTab = s.msixTab := rfl
@[simp] theorem State.putPort_exp (s : State) (k : Nat) (p : DrtPort) : (s.putPort k p).exp = s.exp := rfl
@[simp] theorem State.putPort_xtags (s : State) (k : Nat) (p : DrtPort) : (s.putPort k p).xtags = s.xtags := rfl
@[simp] theorem State.putPort_board (s : State) (k : Nat) (p : DrtPort) : (s.putPort k p).board = s.board := rfl
@[simp] theorem State.putPort_dqTail (s : State) (k : Nat) (p : DrtPort) : (s.putPort k p).dqTail = s.dqTail := rfl
@[simp] theorem State.putPort_fltSerial (s : State) (k : Nat) (p : DrtPort) : (s.putPort k p).fltSerial = s.fltSerial := rfl
@[simp] theorem State.putPort_msixPend (s : State) (k : Nat) (p : DrtPort) : (s.putPort k p).msixPend = s.msixPend := rfl
@[simp] theorem State.putPort_msixUnmasked (s : State) (k : Nat) (p : DrtPort) : (s.putPort k p).msixUnmasked = s.msixUnmasked := rfl
@[simp] theorem State.putPort_msixEn (s : State) (k : Nat) (p : DrtPort) : (s.putPort k p).msixEn = s.msixEn := rfl
@[simp] theorem State.putPort_msixFnMask (s : State) (k : Nat) (p : DrtPort) : (s.putPort k p).msixFnMask = s.msixFnMask := rfl
@[simp] theorem State.putPort_aer (s : State) (k : Nat) (p : DrtPort) : (s.putPort k p).aer = s.aer := rfl
@[simp] theorem State.putPort_fltQueue (s : State) (k : Nat) (p : DrtPort) : (s.putPort k p).fltQueue = s.fltQueue := rfl
@[simp] theorem State.putPort_captured (s : State) (k : Nat) (p : DrtPort) : (s.putPort k p).captured = s.captured := rfl
@[simp] theorem State.putPort_bus (s : State) (k : Nat) (p : DrtPort) : (s.putPort k p).bus = s.bus := rfl
@[simp] theorem State.putPort_free (s : State) (k : Nat) (p : DrtPort) : (s.putPort k p).free = s.free := rfl
@[simp] theorem State.putPort_pending (s : State) (k : Nat) (p : DrtPort) : (s.putPort k p).pending = s.pending := rfl
@[simp] theorem State.portOf_putPort (s : State) (k : Nat) (p : DrtPort) : (s.putPort k p).portOf k = p := SMap.get_set_eq s.ports _ k p
theorem State.portOf_putPort_ne (s : State) (k : Nat) (p : DrtPort) (j : Nat) (h : j ≠ k) : (s.putPort k p).portOf j = s.portOf j :=
  SMap.get_set_ne s.ports _ p h

end Sys2Proof.Machine
end

