-- ==== Sys2Proof/WellFormed.lean ====
section
/-! DEFINITION. The operands that a command of the part can carry, where their Lean types are wider than the manual's ranges. A meaning
takes any operand; an ill-formed one is no command that a sender of the manual can give. -/
namespace Sys2Proof

/-- Sizes of a register access: 1, 2, 4 or 8 bytes (00_scope.md R10, R12). -/
def sizeOk (n : Nat) : Bool := [1, 2, 4, 8].contains n

/-- Symbols in error of a line of `n` symbols: each named once, none by a zero (08_memory_system.md R201, R218). -/
def upsetOk (n : Nat) (l : List (Nat × Byte)) : Bool :=
  (l.all fun e => decide (e.1 < n) && decide (e.2 ≠ 0)) && decide (l.map (·.1)).Nodup

/-- Failures that a boot can find: units the part has, each once (16_tack_image_and_boot.md R441). -/
def bootOk (r : BootResults) : Bool :=
  let ok (n : Nat) (l : List Nat) : Bool := (l.all fun i => decide (i < n)) && decide l.Nodup
  ok 256 r.badChannels && ok 2048 r.badGrooms && ok 16 r.badStalls && ok 16 r.badLp
    && (r.badRows.all fun x => decide (x.1 < 256) && decide (x.2.1 < 32) && decide (x.2.2 < 24576)) && decide r.badRows.Nodup
    && (r.badLanes.all fun x => decide (x.1 < 256) && decide (x.2 < 36)) && decide r.badLanes.Nodup

/-- Well-formed commands. Where no arm names a command, its operands are typed to the manual's ranges. -/
def Instr.wf (c : Instr) : Bool :=
  match c with
  | .regWrite _ _ size _ => sizeOk size
  | .regRead _ _ size => sizeOk size
  | .gportWindowWrite _ off size _ => sizeOk size && off.toNat % size == 0
  | .loop _ _ _ last => decide (last.toNat ≤ 16384) && last.toNat % 4 == 0
  | .callr _ rd rs => rd != rs
  | .bsum _ _ mask _ => decide (mask.toNat < 64)
  | .groomBranchOp _ (.cond _ _ _ target) => target.toNat % 4 == 0
  | .groomBranchOp _ (.jump target) => target.toNat % 4 == 0
  | .groomBranchOp _ (.call _ target) => target.toNat % 4 == 0
  | .stackTempSample _ temps => temps.length == 5
  | .channelRequestServe _ upset => upsetOk 72 upset
  | .lpRequestServe _ upset => upsetOk 68 upset
  | .scrubRead tier _ upset => upsetOk (if tier then 68 else 72) upset
  | .apertureWrite _ data => decide (data.length ≤ 512)
  | .apertureRead _ len => decide (len ≤ 4096)
  | .coalTimer _ src _ => decide (src < 3)
  | .flitReceive _ flit _ _ => flit.length == 256
  | .coldBoot r => bootOk r
  | .pmbAlert words => words.length == 9
  | .deviceReset cause => cause == 5 || cause == 6 || cause == 7
  | _ => true

end Sys2Proof
end

