-- ==== Sys2Proof/Tests/Slice0.lean ====
section
/-! SUPPORT. Tests: ill-formed terms that the checks refuse, single commands from the manual's text, and for every statement a state and operands that meet its
hypotheses. -/
namespace Sys2Proof.Tests
open Sys2Proof Sys2Proof.Machine
set_option Elab.async false

/-! ### Small states -/

/-- Reset, with the core of stall 0 running in supervisor mode and holding `c`. -/
def core (c : Scc) : State := { State.reset.setFlag Reg.SCC_STATUS_RUNNING with scc := [(0, c)] }

/-- The same core in tenant mode. -/
def tenant (c : Scc) : State := (core c).setFld Reg.SCC_STATUS_MODE 0

/-- DMEM's first address. -/
def dmem0 : Dword := 0x8000000000000000

/-! ### The stall control core: states that meet the hypotheses -/

theorem wit_integer_zero : (core {}).sccGo 0 kPlain := by unfold State.sccGo State.awake; decide
theorem wit_integer_shift_63 : let s := core { gpr := [(1, 5), (2, 63)] }
    s.sccGo 0 kPlain ∧ (s.src2 0 (.reg 2)).toNat < 64 ∧ s.src2 0 (.reg 2) = 63 := by unfold State.sccGo State.awake; decide
theorem wit_integer_shift_31 : let s := core { gpr := [(1, 5), (2, 0xFF0000001F)] }
    s.sccGo 0 kPlain ∧ ((s.src2 0 (.reg 2)).setWidth 32).toNat < 32 ∧ ¬(s.src2 0 (.reg 2)).toNat < 64 := by unfold State.sccGo State.awake; decide
theorem wit_float_nan : let s := core { gpr := [(1, 0x7FC00000)] }
    s.sccGo 0 kPlain ∧ f32IsNan ((s.xreg 0 1).setWidth 32) = true := by unfold State.sccGo State.awake; decide
theorem wit_float_zeros : let s := core { gpr := [(2, 0x80000000)] }
    s.sccGo 0 kPlain ∧ (s.xreg 0 1).setWidth 32 = (0 : Word) ∧ (s.xreg 0 2).setWidth 32 = 0x80000000#32 := by
  unfold State.sccGo State.awake; decide
theorem wit_float_positive : let s := core { gpr := [(1, 0x7F800000), (2, 1)] }
    s.sccGo 0 kPlain ∧ f32IsNan ((s.xreg 0 1).setWidth 32) = false ∧ f32IsNan ((s.xreg 0 2).setWidth 32) = false
      ∧ ((s.xreg 0 1).setWidth 32).msb = false ∧ ((s.xreg 0 2).setWidth 32).msb = false := by unfold State.sccGo State.awake; decide
theorem wit_float_infinities : let s := core { gpr := [(1, 0x7F800000), (2, 0xFF800000)] }
    s.sccGo 0 kPlain ∧ (s.xreg 0 1).setWidth 32 = 0x7F800000#32 ∧ (s.xreg 0 2).setWidth 32 = 0xFF800000#32 := by
  unfold State.sccGo State.awake; decide
theorem wit_float_exact : let s := core { gpr := [(1, 0xFF000001)] }
    s.sccGo 0 kPlain ∧ ((s.xreg 0 1).setWidth 32).toInt.natAbs < 2 ^ 24 := by unfold State.sccGo State.awake; decide

/-- The last byte of DMEM, and its last double word. -/
theorem wit_dmem : let s := core { gpr := [(1, dmem0)] }
    s.sccGo 0 kPlain ∧ s.xreg 0 1 + 0xFFFF = BitVec.ofNat 64 (2 ^ 63 + 0xFFFF) ∧ s.xreg 0 1 + 0xFFF8 = BitVec.ofNat 64 (2 ^ 63 + 0xFFF8)
      ∧ s.dmemMay 0 0xFFFF = true ∧ 0xFFF8 % 8 = 0 ∧ (s.sccOf 0).stores = [] ∧ (s.sccOf 0).inTrap = false := by
  unfold State.sccGo State.awake; decide
theorem wit_dmem_tenant : let s := (tenant { gpr := [(1, dmem0)] }).setFld Reg.SCC_TEN_BASE_DBASE 16
    s.sccGo 0 kPlain ∧ s.dmemMay 0 64 = true ∧ s.dmemMay 0 63 = false := by unfold State.sccGo State.awake; decide

theorem wit_store_enters : let s := core { gpr := [(1, 0x10000000000)] }
    s.sccGo 0 kPlain ∧ s.xreg 0 1 + 0xFFFFF8 = BitVec.ofNat 64 (2 ^ 40 + 0 * 2 ^ 24 + 0xFFFFF8) ∧ 0xFFFFF8 % 8 = 0
      ∧ (s.sccOf 0).stores.length < 64 := by unfold State.sccGo State.awake; decide
theorem wit_store_waits : let s := core { gpr := [(1, 0x10000000000)], stores := List.replicate 64 ⟨0x10000000000, 1, 0, true⟩ }
    s.sccGo 0 kPlain ∧ s.xreg 0 1 + 0 = BitVec.ofNat 64 (2 ^ 40 + 0 * 2 ^ 24 + 0) ∧ ¬(s.sccOf 0).stores.length < 64 := by
  unfold State.sccGo State.awake; decide
theorem wit_store_leaves : let s := core { stores := [⟨0x10000FFFFF8, 8, 0x0102030405060708, true⟩] }
    s.awake ∧ s.stallUp 0 = true ∧ (s.sccOf 0).halting = false ∧ 0xFFFFF8 + 8 ≤ 2 ^ 24 ∧ 0xFFFFF8 / 64 = (0xFFFFF8 + 8 - 1) / 64
      ∧ (0x10000FFFFF8 : Dword) = BitVec.ofNat 64 (2 ^ 40 + 0 * 2 ^ 24 + 0xFFFFF8) := by unfold State.awake; decide

theorem wit_branch : (core { gpr := [(1, 1)] }).sccGo 0 kBranch ∧ (1 : XReg) ≠ 2 := by unfold State.sccGo State.awake; decide
theorem wit_delay_slot : let s := core { pc := 4, slot := some ⟨0, some 0x100⟩, loopsSup := [(0, ⟨2, 0, 0x40⟩), (1, ⟨2, 0x80, 0x100⟩)] }
    s.sccGo 0 kPlain ∧ (s.sccOf 0).slot = some ⟨0, some 0x100⟩ := by unfold State.sccGo State.awake; decide
theorem wit_loop : let s := core { gpr := [(1, 3)] }
    s.sccGo 0 kCtl ∧ (16384 : Dword).toNat ≤ 16384 ∧ (16384 : Dword).toNat % 4 = 0 ∧ (s.xreg 0 1).setWidth 32 ≠ (0 : Word)
      ∧ (s.xreg 0 2).setWidth 32 = (0 : Word) := by unfold State.sccGo State.awake; decide
/-- Loop 2 has its last pass, loop 1 goes on. -/
theorem wit_loop_back : let s := core { pc := 0x40, loopsSup := [(1, ⟨2, 8, 0x40⟩), (2, ⟨1, 0x20, 0x40⟩)] }
    s.sccGo 0 kPlain ∧ (s.sccOf 0).slot = none ∧ 1 < (SMap.get ((s.sccOf 0).loops (s.sup 0)) {} 1).count.toNat
      ∧ (SMap.get ((s.sccOf 0).loops (s.sup 0)) {} 2).count = 1 := by unfold State.sccGo State.awake; decide

theorem wit_summary : let s := (core {}).wr Reg.SUMM_FLAGS (2 ^ 63 + 2 ^ 56) 0
    s.sccGo 0 kPlain ∧ s.sccGo 0 kBranch ∧ s.summValid 0 7 = true ∧ s.summValid 0 0 = false := by
  unfold State.sccGo State.awake; decide

theorem wit_cmd : let s := core { gpr := [(1, dmem0 + 0xFFC0)] }
    s.sccGo 0 kPlain ∧ s.recordPlace 0 (s.xreg 0 1) = some (dmemKey 0 0xFFC0, 64) ∧ (s.xreg 0 1).toNat % 64 = 0
      ∧ (s.sccOf 0).stores = [] ∧ s.windowFull 0 = false ∧ recordBytes (s.bytes (dmemKey 0 0xFFC0) 16) ≤ 64 := by
  unfold State.sccGo State.awake; decide
theorem wit_cmd_waits : let s := core { gpr := [(1, dmem0)], stores := [⟨0x10000000000, 1, 0, true⟩] }
    s.sccGo 0 kPlain ∧ s.recordPlace 0 (s.xreg 0 1) = some (dmemKey 0 0, 0x10000) ∧ ¬((s.sccOf 0).stores = [] ∧ s.windowFull 0 = false) := by
  unfold State.sccGo State.awake; decide
theorem wit_short : let s := core { gpr := [(1, dmem0 + 0xFFE0)] }
    s.sccGo 0 kPlain ∧ s.xreg 0 1 = BitVec.ofNat 64 (2 ^ 63 + 0xFFE0) ∧ s.dmemMay 0 0xFFE0 = true ∧ (s.sccOf 0).stores = []
      ∧ (s.shortsOf 0).length < 64 := by unfold State.sccGo State.awake; decide
theorem wit_short_wait_none : let s := core { gpr := [(1, 0xFFFF)] }
    s.sccGo 0 kPlain ∧ (s.sccOf 0).shortWait = none ∧ (s.xreg 0 1).toNat < 2 ^ 16 ∧ ∀ x ∈ s.shortsOf 0, x.tag ≠ (s.xreg 0 1).toNat := by
  unfold State.sccGo State.awake; decide
theorem wit_short_wait : let s := { core {} with shorts := [(0, [parseShort (List.replicate 32 0)])] }
    s.sccGo 0 kPlain ∧ (s.xreg 0 1).toNat < 2 ^ 16 ∧ ∃ x ∈ s.shortsOf 0, x.tag = (s.xreg 0 1).toNat := by
  unfold State.sccGo State.awake; decide

theorem wit_waiting : let s := core { gpr := [(1, 7)], stores := [⟨0x10000390000, 4, 0, true⟩] }
    s.sccGo 0 kPlain ∧ s.sccGo 0 kPriv ∧ (s.xreg 0 1).toNat < 8 ∧ ¬(s.sccOf 0).stores = [] := by unfold State.sccGo State.awake; decide
theorem wit_step_message : let s := { core {} with dsp := [(0, { stepMsg := some 7 })] }
    s.sccGo 0 kPriv ∧ (s.dspOf 0).stepMsg = some 7 := by unfold State.sccGo State.awake; decide

theorem wit_trap : let s := core {}
    s.sccGo 0 kCtl ∧ s.sccFetch 0 = true ∧ (s.sccOf 0).inTrap = false ∧ (s.sccOf 0).stores = [] := by unfold State.sccGo State.awake; decide
theorem wit_priv : let s := tenant {}
    s.awake ∧ s.sccRuns 0 = true ∧ (s.sccOf 0).inTrap = false ∧ (s.sccOf 0).stores = [] ∧ s.sccFetch 0 = true ∧ s.sup 0 = false
      ∧ s.sccIllegal 0 kPriv = false ∧ s.sccIllegal 0 kCtl = false := by unfold State.awake; decide
theorem wit_fetch : let s := core { pc := 0x10000 }
    s.awake ∧ s.sccRuns 0 = true ∧ (s.sccOf 0).inTrap = false ∧ (s.sccOf 0).stores = [] ∧ s.sccFetch 0 = false := by unfold State.awake; decide
theorem wit_fatal : let s := core { inTrap := true }
    s.sccGo 0 kCtl ∧ (s.sccOf 0).inTrap = true ∧ (s.sccOf 0).stores = [] ∧ s.paddockOf 0 = none := by unfold State.sccGo State.awake; decide
theorem wit_tret : (core {}).sccGo 0 { kCtl with priv := true } ∧ (core {}).sccGo 0 kPriv := by unfold State.sccGo State.awake; decide
theorem wit_interrupt : let s := core { ie := true, mboxPending := true }
    s.awake ∧ s.sccPending 0 = some (0x12, 0) ∧ s.sccRuns 0 = true ∧ (s.sccOf 0).ie = true ∧ (s.sccOf 0).inTrap = false
      ∧ (s.sccOf 0).slot = none ∧ (s.sccOf 0).afterTret = false ∧ (s.sccOf 0).stores = [] := by unfold State.awake; decide
theorem wit_interrupt_not : let s := core { ie := false, tbAlarm := 8 }
    s.awake ∧ s.stallUp 0 = true ∧ ¬(s.sccOf 0).ie = true ∧ (s.sccOf 0).tbAlarm.toNat ≤ (8 : Dword).toNat ∧ s.tb.toNat ≤ (8 : Dword).toNat
      ∧ bit (s.sccOf 0).intMask.toNat 0x12 = true := by unfold State.awake; decide
theorem wit_run : State.reset.awake ∧ State.reset.stallUp 15 = true ∧ (State.reset.sccOf 15).halting = false
    ∧ State.reset.flag Reg.SCC_STATUS_RUNNING 15 = false ∧ (core {}).flag Reg.SCC_STATUS_RUNNING 0 = true := by unfold State.awake; decide
theorem wit_step_start : let s := { State.reset with stepMsgs := [(3, [9, 10])] }
    s.awake ∧ s.stallUp 3 = true ∧ SMap.get s.stepMsgs [] 3 = [9, 10] ∧ (s.dspOf 3).stepMsg = none := by unfold State.awake; decide

/-! ### Engine commands: records and states that meet the hypotheses -/

/-- A command record of `lines` lines: OP, LEN, and the fields given as (offset, bytes, value). -/
def record (op lines : Nat) (fs : List (Nat × Nat × Nat)) : List Byte :=
  (List.range (64 * lines)).map fun i =>
    match fs.find? fun f => decide (f.1 ≤ i) && decide (i < f.1 + f.2.1) with
    | some f => BitVec.ofNat 8 (f.2.2 / 2 ^ (8 * (i - f.1)))
    | none => if i = 0 then BitVec.ofNat 8 op else if i = 1 then BitVec.ofNat 8 (lines - 1) else 0

/-- The command of that record, number 1. -/
def command (op lines : Nat) (fs : List (Nat × Nat × Nat)) : WinCmd := parseRecord 1 (record op lines fs) false

/-- Reset, with the command in its engine. -/
def busy (w : WinCmd) : State := { State.reset with dsp := [(0, { running := [w] })] }

def cLatchRel : WinCmd := command opLatchRel 1 [(1, 1, 0x80), (6, 1, 255)]
def cLatchArm : WinCmd := command opLatchArm 1 [(16, 32, 2 ^ 255 + 1)]
def cMmul (m : Nat) : WinCmd := command opMmul 2 [(19, 2, m), (22, 2, 1), (24, 3, 1), (36, 1, 0x80), (37, 1, 2), (64, 3, 0x1000), (68, 1, 0x80), (69, 1, 2)]
def cAccZero (m : Nat) : WinCmd := command opAccZero 1 [(18, 2, m), (21, 2, 128)]
def cAccStore (m : Nat) : WinCmd := command opAccStore 1 [(18, 2, m), (21, 2, 1), (36, 1, 0x80), (37, 1, 8)]
/-- Two FP32 elements at 0x1000 times 2, stored at 0x2000. -/
def cVchain : WinCmd := command opVchain 7 [(32, 3, 0x1000), (36, 1, 0x80), (37, 1, 8), (64, 2, 1), (66, 2, 2), (68, 1, 1), (69, 1, 4),
  (70, 1, 1), (192, 4, 0x40000000), (200, 1, 1), (224, 3, 0x2000), (228, 1, 0x80), (229, 1, 8), (385, 1, 0xF)]
def cCombine (op n : Nat) : WinCmd :=
  let x : Nat := if op = 0 then 0 else 0x80
  command opCombine 5 [(16, 1, 2), (17, 1, op), (18, 3, n), (32, 3, 0x3000), (36, 1, 0x80), (37, 1, 8), (64, 3, 0x4000), (68, 1, x),
    (128, 3, 0x1000), (132, 1, 0x80), (133, 1, 8), (160, 3, 0x5000), (164, 1, x), (192, 1, 1), (224, 3, 0x2000), (228, 1, 0x80), (229, 1, 8),
    (256, 3, 0x6000), (260, 1, x)]
def cCvt (rows : Nat) : WinCmd := command opCvt 2 [(16, 1, 2), (17, 1, 6), (25, 2, rows), (27, 2, 1), (36, 1, 0x80), (64, 3, 0x1000), (68, 1, 0x80)]
def cHist (rows : Nat) : WinCmd := command opHist 1 [(16, 2, rows), (18, 2, 2), (36, 1, 0x80), (37, 1, 2)]
/-- HIST of a slot of the ring of channel 3. -/
def cHistRing : WinCmd := command opHist 1 [(16, 2, 1), (18, 2, 2), (32, 3, 0xB), (36, 1, 0x83), (37, 1, 2)]
def cTblLoad : WinCmd := command opTblLoad 1 [(16, 3, 0x40)]
def cGpLoad (targets : Nat) : WinCmd := command opGpLoad 1 [(19, 32, targets)]
def cAttn (nseq : Nat) : WinCmd := command opAttn 7 [(36, 1, 0x80), (64, 2, nseq), (69, 1, 1), (70, 1, 1), (160, 3, 0x1000), (164, 1, 0x80), (165, 1, 2),
  (320, 3, 0x2000), (324, 1, 0x80), (325, 1, 8), (384, 3, 0x100000), (387, 1, 0xFF)]
def cMerge (rows : Nat) : WinCmd := command opAttnMerge 4 [(16, 1, 2), (17, 3, rows), (32, 3, 0x3000), (36, 1, 0x80), (37, 1, 8), (64, 3, 0x4000), (68, 1, 0x80),
  (128, 3, 0x1000), (132, 1, 0x80), (160, 1, 1), (192, 3, 0x2000), (196, 1, 0x80)]
def cSample (nent : Nat) : WinCmd := command opSample 2 [(36, 1, 0x80), (37, 1, 8), (64, 3, 4), (67, 3, 0x1000), (70, 2, nent)]

theorem wit_dispatch : let s := { State.reset with dsp := [(0, { running := [parseRecord 0 (record opLatchArm 1 [(16, 32, 1)]) false], window := [parseRecord 0 (record opHist 1 [(1, 1, 0x10), (2, 1, 7)]) false, cLatchRel] })] }
    s.awake ∧ s.stallUp 0 = true ∧ (s.dspOf 0).held = none ∧ cLatchRel.refused = false ∧ s.waitsMet 0 cLatchRel = true
      ∧ (s.dspOf 0).running ≠ []
      ∧ (∀ x ∈ (s.dspOf 0).running, sameEngine cLatchRel x = false ∧ (armHolds x cLatchRel = true → x.ok = true ∨ seqBefore x.seq cLatchRel.seq = false)) ∧ s.behindEarlier 0 cLatchRel [parseRecord 0 (record opHist 1 [(1, 1, 0x10), (2, 1, 7)]) false] = false
      ∧ ∀ x ∈ [parseRecord 0 (record opHist 1 [(1, 1, 0x10), (2, 1, 7)]) false], x.refused = false ∧ ∃ l ∈ x.waits, s.latch 0 l = false := by
  unfold State.awake; decide +kernel
theorem wit_complete : let s := busy { cLatchRel with ok := true }
    s.awake ∧ (s.dspOf 0).running = [] ++ { cLatchRel with ok := true } :: [] ∧ cLatchRel.seq = 1 ∧ cLatchRel.rel = 255 ∧ cLatchRel.relStall = 0 := by
  unfold State.awake; decide +kernel
theorem wit_latch_rel : (busy cLatchRel).engineHas 0 1 opLatchRel cLatchRel := ⟨rfl, by decide +kernel, by decide +kernel⟩
theorem wit_step_end : (busy (command opStepEnd 1 [])).engineHas 0 1 opStepEnd (command opStepEnd 1 [])
    ∧ ((busy (command opStepEnd 1 [])).dspOf 0).earlier 1 = [] := ⟨⟨rfl, by decide +kernel, by decide +kernel⟩, by decide +kernel⟩
theorem wit_step_end_waits : let s := { State.reset with dsp := [(0, { running := [command opStepEnd 1 [], parseRecord 0 (record opHist 1 []) false] })] }
    s.engineHas 0 1 opStepEnd (command opStepEnd 1 []) ∧ (s.dspOf 0).earlier 1 ≠ [] := ⟨⟨rfl, by decide +kernel, by decide +kernel⟩, by decide +kernel⟩
theorem wit_latch_arm : (busy cLatchArm).engineHas 0 1 opLatchArm cLatchArm ∧ recField cLatchArm.record latchArmLayout 0 = 2 ^ 255 + 1
    ∧ (((busy cLatchArm).dspOf 0).earlier 1).any (fun x => x.touches 0 (2 ^ 255 + 1)) = false :=
  ⟨⟨rfl, by decide +kernel, by decide +kernel⟩, by decide +kernel, by decide +kernel⟩
theorem wit_latch_arm_waits : let w := parseRecord 0 (record opHist 1 [(1, 1, 0x10), (2, 1, 255)]) false
    let s := { State.reset with dsp := [(0, { running := [cLatchArm], window := [w] })] }
    s.engineHas 0 1 opLatchArm cLatchArm ∧ ((s.dspOf 0).earlier 1).any (fun x => x.touches 0 (2 ^ 255 + 1)) = true :=
  ⟨⟨rfl, by decide +kernel, by decide +kernel⟩, by decide +kernel⟩
theorem wit_skip : let s := { State.reset with dsp := [(0, { held := some cLatchRel })] }
    s.awake ∧ (s.dspOf 0).held = some cLatchRel ∧ cLatchRel.rel < 256 ∧ cLatchRel.relStall < 16 := by unfold State.awake; decide +kernel
theorem wit_preload : let s := { State.reset with dsp := [(0, { running := [cLatchRel, { cMmul 1 with seq := 0, ok := true }], window := [cMmul 1] })] }
    let c := parseMmul (cMmul 1).record
    s.awake ∧ (s.dspOf 0).window = [] ++ cMmul 1 :: [] ∧ (cMmul 1).op = opMmul ∧ s.waitsMet 0 (cMmul 1) = true ∧ (s.dspOf 0).preload = 0
      ∧ (s.dspOf 0).running ≠ [] ∧ (∀ x ∈ (s.dspOf 0).running, preloadBlocked x = false) ∧ (∀ y ∈ (s.dspOf 0).window, y.seq = (cMmul 1).seq → y = cMmul 1)
      ∧ (checkMmul 0 s (cMmul 1) matches .run) ∧ c.v ≠ 0 ∧ c.w.kind ≠ 3 ∧ c.arrays ≠ [] := by unfold State.awake; decide +kernel

/-- A stall in no paddock waits for no channel; one whose device has every channel ready waits for none. -/
theorem ready_alone (s : State) (st : Nat) (h : s.paddockOf st = none) : s.paddockReady st = true := by
  unfold State.paddockReady State.ownsChan
  rw [List.all_eq_true]
  intro q _
  rw [h]
  cases s.ownerOf q with
  | none => rfl
  | some o => cases h : s.paddockOf o.1 <;> simp [h]
theorem ready_all (s : State) (st : Nat) (h : (List.range s.nChan).all s.chanReady = true) : s.paddockReady st = true := by
  unfold State.paddockReady
  rw [List.all_eq_true] at h ⊢
  intro q m
  rw [h q m, Bool.or_true]

/-- What an engine's check answers, without the state of a rejection. -/
def verdict (v : Verdict) : Nat := match v with | .rejected _ => 0 | .zero => 1 | .run => 2

/-- The command runs in its engine with that answer. -/
def met (w : WinCmd) (op : Nat) (check : State → WinCmd → Verdict) (v : Nat) : Prop :=
  (busy w).awake ∧ (busy w).runningCmd 0 1 op = some w
    ∧ (w.issued = false ∧ w.outs = none ∧ w.summ = none ∧ w.got = [] ∧ w.gotPoison = [] ∧ w.reads = [] ∧ w.holding = [])
    ∧ ((busy w).dspOf 0).held = none ∧ (busy w).mmulWaits 0 1 = false ∧ (busy w).paddockOf 0 = none ∧ verdict (check (busy w) w) = v

theorem wit_runs_matrix : met (cMmul 1) opMmul (checkMmul 0) 2 ∧ met (cAccZero 1) opAccZero (checkAccZero 0) 2 ∧ met (cAccStore 1) opAccStore (checkAccStore 0) 2 := by
  unfold met State.awake; decide +kernel
theorem wit_zero_matrix : met (cMmul 0) opMmul (checkMmul 0) 1 ∧ met (cAccZero 0) opAccZero (checkAccZero 0) 1 ∧ met (cAccStore 0) opAccStore (checkAccStore 0) 1 := by
  unfold met State.awake; decide +kernel
theorem wit_rejects_matrix : met (cMmul 129) opMmul (checkMmul 0) 0 ∧ met (cAccZero 129) opAccZero (checkAccZero 0) 0 ∧ met (cAccStore 129) opAccStore (checkAccStore 0) 0 := by
  unfold met State.awake; decide +kernel
theorem wit_runs_vector : met cVchain opVchain (checkVchain 0) 2 ∧ met (cCombine 0 1) opCombine (checkCombine 0) 2 := by unfold met State.awake; decide +kernel
theorem wit_runs_convert : met (cCombine 4 1) opCombine (checkCombine 0) 2
    ∧ met (cCvt 1) opCvt (checkCvt 0) 2 ∧ met (cHist 1) opHist (checkHist 0) 2 := by unfold met State.awake; decide +kernel
theorem wit_zero_vector : met (cCombine 0 0) opCombine (checkCombine 0) 1 ∧ met (cCvt 0) opCvt (checkCvt 0) 1 ∧ met (cHist 0) opHist (checkHist 0) 1
    ∧ met (cGpLoad 0) opGpLoad (checkGpLoad 0) 1 := by unfold met State.awake; decide +kernel
theorem wit_rejects_vector : met (command opVchain 9 [(68, 1, 9)]) opVchain (checkVchain 0) 0 ∧ met (cCombine 1 1) opCombine (checkCombine 0) 0
    ∧ met (command opCvt 2 [(16, 1, 9)]) opCvt (checkCvt 0) 0 := by unfold met State.awake; decide +kernel
theorem wit_rejects_loads : met (command opHist 1 []) opHist (checkHist 0) 0
    ∧ met (command opTblLoad 1 [(16, 3, 1)]) opTblLoad (checkTblLoad 0) 0 ∧ met (command opGpLoad 1 [(16, 3, 1), (19, 32, 1)]) opGpLoad (checkGpLoad 0) 0 := by
  unfold met State.awake; decide +kernel
theorem wit_runs_attention : met (cAttn 1) opAttn (checkAttn 0) 2 ∧ met (cMerge 1) opAttnMerge (checkMerge 0) 2 ∧ met (cSample 1) opSample (checkSample 0) 2 := by
  unfold met State.awake; decide +kernel
theorem wit_zero_attention : met (cAttn 0) opAttn (checkAttn 0) 1 ∧ met (cMerge 0) opAttnMerge (checkMerge 0) 1 ∧ met (cSample 0) opSample (checkSample 0) 1 := by
  unfold met State.awake; decide +kernel
theorem wit_rejects_attention : met (command opAttn 7 []) opAttn (checkAttn 0) 0 ∧ met (command opAttnMerge 4 []) opAttnMerge (checkMerge 0) 0
    ∧ met (command opSample 2 []) opSample (checkSample 0) 0 := by unfold met State.awake; decide +kernel

/-- The command of `busy w` has passed what the statements of the engines ask first. -/
theorem wit_matrix_product : let w := cMmul 1
    let c := parseMmul w.record
    let s := busy w
    s.awake ∧ c.w.comp = false ∧ c.a.kind = 0 ∧ c.w.kind = 0 ∧ 0 < c.m ∧ 0 < c.n ∧ s.spanPoison 0 c.w.loc (s.weightSpan 0 c) = false
      ∧ s.spanPoison 0 (c.a.loc + 0 * c.a.stride) (rowBytes c.a.fmt c.v) = false := by unfold State.awake; decide +kernel
/-- No tile is preloaded; the first tile of group 0 is. -/
theorem wit_matrix_tiles : (∀ g, (busy (cMmul 1)).preloaded 0 (parseMmul (cMmul 1).record) 1 g = none)
    ∧ (let s := { State.reset with dsp := [(0, { running := [cMmul 1], preload := 2 })] }
       s.engineHas 0 1 opMmul (cMmul 1) ∧ verdict (checkMmul 0 s (cMmul 1)) = 2 ∧ s.preloaded 0 (parseMmul (cMmul 1).record) 1 0 = some ([], false)
         ∧ ∀ g x, s.preloaded 0 (parseMmul (cMmul 1).record) 1 g = some x → x.2 = false) := by
  have e : (parseMmul (cMmul 1).record).arrays = [(0, 0)] := by decide +kernel
  refine ⟨fun g => if_neg (by decide +kernel), ⟨rfl, by decide +kernel, by decide +kernel⟩, by decide +kernel, by decide +kernel, fun g x h => ?_⟩
  unfold State.preloaded at h
  rw [e] at h
  by_cases z : g = 0
  · subst z
    have y : x = ([], false) := by
      have : (some ([], false) : Option (List Nat × Bool)) = some x := by rw [← h]; decide +kernel
      injection this with this; exact this.symm
    rw [y]
  · have n : ((0 : Nat) == g) = false := by simpa using fun h => z h.symm
    simp [List.find?, n] at h
/-- A matrix product that names table 0 behind a load of it, and a load of table 1,023 behind a product that names it. -/
def cMmulComp (table : Nat) : WinCmd := command opMmul 2 [(19, 2, 1), (22, 2, 1), (24, 3, 1), (36, 1, 0x80), (37, 1, 2), (64, 3, 0x1000), (68, 1, 0x88),
  (76, 2, table)]
theorem wit_table_order : let s := { State.reset with dsp := [(0, { running := [{ cTblLoad with seq := 0 }, cMmulComp 0] })] }
    let t := { State.reset with dsp := [(0, { running := [{ cMmulComp 1023 with seq := 0 }, cTblLoad] })] }
    s.awake ∧ s.runningCmd 0 1 opMmul = some (cMmulComp 0) ∧ s.mmulWaits 0 1 = true ∧ t.awake ∧ t.runningCmd 0 1 opTblLoad = some cTblLoad
      ∧ verdict (checkTblLoad 0 t cTblLoad) = 2 ∧ ((t.dspOf 0).ahead cTblLoad.seq).any (fun x => tableUse x == some 1023) = true := by
  unfold State.awake; decide +kernel
theorem wit_matrix_product_poison : let w := cMmul 1
    let c := parseMmul w.record
    let s := (busy w).wr Reg.STB_POISON 1
    s.awake ∧ s.runningCmd 0 1 opMmul = some w ∧ verdict (checkMmul 0 s w) = 2 ∧ s.spanPoison 0 c.w.loc (s.weightSpan 0 c) = false
      ∧ s.spanPoison 0 (c.a.loc + 0 * c.a.stride) (rowBytes c.a.fmt c.v) = true := by unfold State.awake; decide +kernel
theorem wit_acc_store : let w := cAccStore 1
    let d := recDesc w.record accStoreLayout 5
    d.kind = 0 ∧ fmtBits d.fmt % 8 = 0 ∧ (parseRect w.record).m = 1 ∧ 0 < (parseRect w.record).n := by decide +kernel
theorem wit_vchain : let w := cVchain
    let v := parseVchain w.record
    let s := busy w
    s.awake ∧ v.src.kind = 0 ∧ (∀ g ∈ v.stages, g.bsrc ≤ 1 ∧ g.csrc ≤ 1) ∧ v.mask.present = false ∧ v.hasRed = false ∧ v.store.present = true
      ∧ v.store.kind = 0 ∧ v.store.fmt = 8 ∧ v.rows = 1 ∧ 1 < v.cols ∧ v.stages.length = 1
      ∧ s.spanPoison 0 v.src.loc (spanBytes v.src.fmt v.src.stride v.rows v.cols) = false := by unfold State.awake; decide +kernel
theorem wit_combine : 0 < (parseCombine (cCombine 0 1).record).n ∧ (parseCombine (cCombine 0 1).record).op = 0 ∧ 0 < (parseCombine (cCombine 4 1).record).n
    ∧ (parseCombine (cCombine 4 1).record).op ≠ 0 := by decide +kernel
theorem wit_cvt : let w := cCvt 1
    let c := parseCvt w.record
    c.src.kind = 0 ∧ c.dst.kind = 0 ∧ fmtBits c.dstFmt % 8 = 0 ∧ cvtInPlace w.record = false ∧ c.rows = 1 ∧ 0 < c.cols := by decide +kernel
theorem wit_hist : (parseHist (cHist 1).record).src.kind = 0 ∧ State.reset.awake := by unfold State.awake; decide +kernel

/-- A ring of two slots of one line: one line issued, `lines` lines of slot 0 written, slot 0 TAKEN or not. -/
def ring0 (lines : Nat) (used : Bool) : Ring := { base := 0, nslot := 2, slotLines := 1, isOut := false, issued := 1, lines := [(0, lines)], inUse := used }
/-- Reset, with HIST at that ring of channel 3. -/
def ringState (w : WinCmd) (r : Ring) : State := { busy w with dma := [(3, { ring := some r })] }
def ringMet (w : WinCmd) (r : Ring) : Prop := let s := ringState w r
  let c := parseHist w.record
  s.awake ∧ s.runningCmd 0 1 opHist = some w ∧ w.outs = none ∧ w.summ = none ∧ (s.dspOf 0).running = [w] ∧ c.src.kind = 3 ∧ c.src.slots = 1
    ∧ 0 < r.slotLines ∧ 0 < r.nslot ∧ (s.dmaOf 0 c.src.chan).ring = some r ∧ r.isOut = false ∧ SMap.get w.reads 0 c.src.place = 0
theorem wit_ring_turn (r : Ring) (h : r ∈ [ring0 1 false, ring0 0 false, ring0 1 true, { ring0 1 false with head := 1 }]) : ringMet cHistRing r ∧ cHistRing.issued = false
    ∧ (checkHist 0 (ringState cHistRing r) cHistRing matches .run) ∧ (ringState cHistRing r).ringTurn 0 cHistRing 3 = true
    ∧ SMap.get cHistRing.holding false (parseHist cHistRing.record).src.place = false := by
  revert r; unfold ringMet State.awake; decide +kernel
/-- Slot 0 full and free to take; not full; TAKEN by another; the stream not begun behind the slots taken. -/
theorem wit_ring_slots : ((ring0 1 false).head < (ring0 1 false).started ∧ (ring0 1 false).complete 0 = true) ∧ (ring0 0 false).complete 0 = false
    ∧ (ring0 1 true).inUse = true ∧ (ring0 1 false).started ≤ ({ ring0 1 false with head := 1 } : Ring).head := by decide
/-- HIST that has taken its slot and reads it. -/
theorem wit_ring_reads : let w := { cHistRing with issued := true, holding := [((parseHist cHistRing.record).src.place, true)] }
    ringMet w (ring0 1 true) ∧ w.issued = true ∧ SMap.get w.holding false (parseHist w.record).src.place = true := by
  unfold ringMet State.awake; decide +kernel

/-- An image of an INT4 table, identifier 1,023: symbols 0 and 1 of one bit each. -/
def tblImage : List Byte := [0xFF, 0x43, 1, 0, 0, 0, 0, 0, 0, 0, 0, 0, 0, 0, 0, 0, 0x11]
theorem wit_tbl_good : let s := (busy cTblLoad).putBytes (stbKey 0 0x40) tblImage
    s.awake ∧ s.runningCmd 0 1 opTblLoad = some cTblLoad ∧ verdict (checkTblLoad 0 s cTblLoad) = 2 ∧ (parseTblLoad cTblLoad.record).groom = false
      ∧ tableImageId (s.stbRead 0 0x40 64) = 1023 ∧ (s.tableImage 0 0x40).isSome = true
      ∧ ((s.dspOf 0).ahead 1).any (fun x => tableUse x == some 1023) = false := by unfold State.awake; decide +kernel
theorem wit_tbl_bad : let s := busy cTblLoad
    s.awake ∧ verdict (checkTblLoad 0 s cTblLoad) = 2 ∧ (s.tableImage 0 0x40).isSome = false
      ∧ ((s.dspOf 0).ahead 1).any (fun x => tableUse x == some 0) = false := by unfold State.awake; decide +kernel

/-- Reset, in service, with the groom port of stall 0 mapped to channel 0 and the groom at its first index holding `g`. -/
def groomState (g : Groom) : State := { (State.reset.wr Reg.GPORT_MAP 0x80000000) with grooms := [(0, g)] }
def groomUp (g : Groom) : State := (groomState g).setFld Reg.GPORT_STATUS_STARTUP 0
/-- TBL_LOAD into slot 7 of the first groom: a good image, a bad one, and a groom that runs a sequence. -/
def cTblGroom : WinCmd := command opTblLoad 1 [(16, 3, 0x40), (19, 1, 1), (21, 1, 7)]
def tblGroom (g : Groom) : State := { groomUp g with dsp := [(0, { running := [cTblGroom] })] }
theorem wit_tbl_groom : let s := (tblGroom {}).putBytes (stbKey 0 0x40) tblImage
    let r := tblGroom { run := some { ctx := 0, go := ⟨0, 0, []⟩ } }
    s.awake ∧ s.runningCmd 0 1 opTblLoad = some cTblGroom ∧ verdict (checkTblLoad 0 s cTblGroom) = 2 ∧ (parseTblLoad cTblGroom.record).groom = true
      ∧ s.positionOf 0 (parseTblLoad cTblGroom.record).gi = some 0 ∧ s.hostOf 0 = some 0 ∧ (s.groom 0).run.isSome = false ∧ (s.tableImage 0 0x40).isSome = true
      ∧ verdict (checkTblLoad 0 (tblGroom {}) cTblGroom) = 2 ∧ ((tblGroom {}).tableImage 0 0x40).isSome = false
      ∧ verdict (checkTblLoad 0 r cTblGroom) = 2 ∧ r.hostOf 0 = some 0 ∧ (r.groom 0).run.isSome = true := by unfold State.awake; decide +kernel

/-- A microprogram image of one line: 64 zero bytes of code. -/
def gpImage : List Byte := [0, 0, 1, 0] ++ leBytes 63499111 4
def gpState : State := ({ groomUp {} with dsp := [(0, { running := [cGpLoad 1] })], fwTable := [(0, 0, 0, 0xFFFF)] }).putBytes (stbKey 0 0) gpImage
theorem wit_gp_load : let s := gpState
    s.awake ∧ s.runningCmd 0 1 opGpLoad = some (cGpLoad 1) ∧ verdict (checkGpLoad 0 s (cGpLoad 1)) = 2 ∧ s.gpTargets 0 1 = [0] ∧ s.ready 0 = true ∧ s.hostOf 0 = some 0 := by
  unfold State.awake; decide +kernel
theorem wit_gp_load_waits : let t := gpState.setFld Reg.GRM_STATUS_READY 0
    t.awake ∧ t.runningCmd 0 1 opGpLoad = some (cGpLoad 1) ∧ verdict (checkGpLoad 0 t (cGpLoad 1)) = 2 ∧ t.gpTargets 0 1 = [0] ∧ t.ready 0 = false
      ∧ t.hostOf 0 = some 0 ∧ t.stallOf 0 = 0 := by unfold State.awake; decide +kernel

/-- A length table entry that sets a reserved bit, and one without query rows. -/
theorem wit_attn_fault : let s := (busy (cAttn 1)).putBytes (stbKey 0 0) [2]
    let c := parseAttn (cAttn 1).record
    s.awake ∧ s.runningCmd 0 1 opAttn = some (cAttn 1) ∧ verdict (checkAttn 0 s (cAttn 1)) = 2 ∧ c.nseq = 1 ∧ c.qlatch = 0xFF ∧ s.paddockOf 0 = none
      ∧ ltGood c (parseLt ((s.stepTable 0 c.lt.loc false).stbRead 0 c.lt.loc 32)) = false ∧ s.flag Reg.ATS_STATUS_MMU_FAULT = false
      ∧ ltGood c (parseLt ((busy (cAttn 1)).stbRead 0 c.lt.loc 32)) = true ∧ (parseLt ((busy (cAttn 1)).stbRead 0 c.lt.loc 32)).qrows = 0 := by
  unfold State.awake; decide +kernel
theorem wit_attn_latch : let w := command opAttn 7 [(36, 1, 0x80), (64, 2, 1), (69, 1, 1), (70, 1, 1), (160, 3, 0x1000), (164, 1, 0x80), (165, 1, 2),
      (320, 3, 0x2000), (324, 1, 0x80), (325, 1, 8), (384, 3, 0x100000), (387, 1, 9)]
    met w opAttn (checkAttn 0) 2 ∧ (parseAttn w.record).qlatch = 9 ∧ (busy w).latch 0 9 = false := by unfold met State.awake; decide +kernel
/-- Two parts of a row that do not fit together, and two that do: spans 0 and 1 of four. -/
theorem wit_merge_fault : let w := cMerge 1
    let m := parseMerge w.record
    let s := busy w
    m.rows = 1 ∧ m.node = false ∧ m.out.fmt = 8 ∧ m.rstat.present = true ∧ m.parts = 2
      ∧ leAt (s.stbRead 0 0x2000 64) 12 2 ≠ leAt (s.stbRead 0 0x1000 64) 14 2 + 1 := by decide +kernel
theorem wit_merge_fits : let w := cMerge 1
    let m := parseMerge w.record
    let s := (busy w).putBytes (stbKey 0 0x200C) [1, 0, 1, 0]
    let node (k : Nat) : Node × Nat × Nat := parseNode m.d (s.stbRead 0 k (64 + 4 * m.d))
    s.awake ∧ s.runningCmd 0 1 opAttnMerge = some w ∧ verdict (checkMerge 0 s w) = 2 ∧ m.srcs.map (fun x => x.2.loc) = [0x1000, 0x2000]
      ∧ (node 0x1000).2 = (0, 0) ∧ (node 0x2000).2 = (1, 1) ∧ (node 0x1000).1.fault = false ∧ (node 0x2000).1.fault = false := by unfold State.awake; decide +kernel

/-- Reset, with SAMPLE of one row, whose stall belongs to paddock 0; the parameters stand in channel 0: temperature 0, TOP_P 1. -/
def sampleState : State :=
  (((({ (busy (cSample 1)).wr Reg.GPORT_MAP 0x80000000 with tackPdk := [(0, [0, 1, 1, 0])] }).setFlag Reg.STL_INFO_IN_PDK).putBytes (dramKey 0 0x10)
    [0, 0, 0x80, 0x3F]).putBytes (stbKey 0 0x1000) [0, 0, 1]).putBytes (stbKey 0 0x1028) [1, 0, 0, 0, 0xC0]
theorem wit_sample : let s := sampleState
    let c := parseSample (cSample 1).record
    s.awake ∧ s.runningCmd 0 1 opSample = some (cSample 1) ∧ verdict (checkSample 0 s (cSample 1)) = 2 ∧ c.nent = 1 ∧ s.paddockOf 0 = some 0
      ∧ s.stepTable 0 c.table true = s ∧ bits (byteAt (s.stbRead 0 c.table 64) 2) 4 0 = 1 ∧ c.logits.loc + 0 * c.logits.stride + rowBytes c.logits.fmt c.v ≤ stbSize
      ∧ s.spanPoison 0 (c.logits.loc + 0 * c.logits.stride) (rowBytes c.logits.fmt c.v) = false := by unfold State.awake; decide +kernel
theorem wit_sample_ready : sampleState.paddockReady 0 = true := ready_all _ _ (by decide +kernel)
theorem wit_sample_token : let s := sampleState
    let x := s.params 0 (leAt (s.stbRead 0 0x1000 64) 40 8) 4
    (x.1.pdkOf 0).res = [] ∧ x.1.paddockOf 0 = some 0 ∧ (x.2.any fun y => (chooseToken y.1 4 0 (candidates y.1 y.2 [0, 0, 0, 0]).1).isSome) = true := by
  decide +kernel
/-- The entry of the row is live, its position not yet issued, and issued. -/
theorem wit_sample_record : let s (n : Nat) := { sampleState with ledger := [(0, { state := stDecode, issuedTo := n })] }
    let u (n : Nat) := ((s n).params 0 (leAt ((s n).stbRead 0 0x1000 64) 40 8) 4).1
    ((u 0).entryOf 0).state = stDecode ∧ ((u 0).pdkOf 0).abandonAt = none ∧ ((u 0).pdkOf 0).abandon = false ∧ (u 0).follower 0 = false
      ∧ leAt ((s 0).stbRead 0 0x1000 64) 4 4 = 0 ∧ max ((u 0).entryOf 0).issuedTo (leAt ((s 0).stbRead 0 0x1000 64) 36 4) = 0
      ∧ ((u 1).entryOf 0).issuedTo = 1 ∧ ((u 1).pdkOf 0).res = [] := by decide +kernel
theorem wit_sample_poison : let s := sampleState.wr Reg.STB_POISON 1
    verdict (checkSample 0 s (cSample 1)) = 2 ∧ s.spanPoison 0 0 16 = true ∧ s.awake := by unfold State.awake; decide +kernel

/-! ### Grooms -/

/-- The sequence of the first groom, and that groom running it. -/
def seq0 : GSeq := { ctx := 0, go := ⟨0, 0, []⟩ }
def runs0 (gr : SMap Word) : State := groomState { gr := gr, run := some seq0, codeLen := 64 }
theorem wit_groom_port : let s := groomUp {}
    s.awake ∧ s.portOpen 0 = true ∧ s.positionOf 0 0 = some 0 ∧ s.hostOf 0 = some 0 ∧ s.loadHolds 0 = false ∧ s.drains 0 = false ∧ (s.groom 0).run = none
      ∧ (s.ctxOf 0).pend = none ∧ (s.ctxOf 0).held = none := by
  unfold State.awake; decide +kernel
theorem wit_groom_pending : let s := (runs0 []).setFld Reg.GPORT_STATUS_STARTUP 0
    s.awake ∧ s.portOpen 0 = true ∧ s.loadHolds 0 = false ∧ s.drains 0 = false ∧ (s.groom 0).run ≠ none ∧ (s.ctxOf 0).pend = none ∧ (s.ctxOf 0).held = none
      ∧ s.running 0 = true ∧ (s.ctxOf 0).draining = false := by
  unfold State.awake; decide +kernel
theorem wit_groom_drain : let s := { groomUp {} with gctx := [(0, { draining := true })] }
    s.awake ∧ s.portOpen 0 = true ∧ s.drains 0 = true ∧ s.loadHolds 0 = false ∧ s.flitsOf 0 = [] ∧ s.running 0 = false := by
  unfold State.awake; decide +kernel
/-- No context of the device holds a GO. -/
theorem ctx_idle (s : State) (h : s.gctx = [(0, { draining := true })] ∨ s.gctx = []) (k : Nat) : (s.ctxOf k).pend = none ∧ (s.ctxOf k).held = none := by
  unfold State.ctxOf
  rcases h with h | h <;> rw [h]
  · by_cases e : 0 = k <;> simp [SMap.get, e]
  · simp [SMap.get]
theorem wit_groom_drain_free : ∀ k, ((({ groomUp {} with gctx := [(0, { draining := true })] } : State).ctxOf k).pend = none
    ∧ (({ groomUp {} with gctx := [(0, { draining := true })] } : State).ctxOf k).held = none) := fun k => ctx_idle _ (.inl rfl) k
/-- A full slot; a GP_LOAD that waits for the groom. -/
theorem wit_groom_not_free : let s := { groomUp {} with gctx := [(0, { pend := some ⟨0, 0, []⟩ })] }
    let l := { gpState.setFld Reg.GRM_STATUS_READY 0 with dsp := [(0, { running := [{ cGpLoad 1 with issued := true }] })] }
    s.awake ∧ s.portOpen 0 = true ∧ (s.ctxOf 0).pend ≠ none ∧ l.awake ∧ l.portOpen 0 = true ∧ l.positionOf 0 0 = some 0 ∧ l.loadHolds 0 = true := by
  unfold State.awake; decide +kernel
theorem wit_groom_complete : let s := groomState { run := some { seq0 with ended := true, err := true } }
    s.awake ∧ s.hostOf 0 = some 0 ∧ (s.groom 0).run = some { seq0 with ended := true, err := true } ∧ s.flitsOf 0 = [] ∧ s.gctx = [] := by unfold State.awake; decide +kernel
theorem wit_groom_watchdog : let s := (runs0 []).wr Reg.GPORT_WDOG 1
    s.awake ∧ s.rd Reg.GPORT_WDOG (s.stallOf 0) ≠ 0 ∧ s.rd Reg.GPORT_WDOG (s.stallOf 0) < 2 ∧ (s.ctxOf 0).draining = false := by unfold State.awake; decide +kernel
theorem wit_chain_stuck : let s := { runs0 [] with chain := [⟨0, 0, .stb 0 0, [], false⟩] }
    s.awake ∧ s.hostOf 0 = some 0 ∧ s.chain[0]? = some ⟨0, 0, .stb 0 0, [], false⟩ ∧ (s.groom 0).run = some seq0 ∧ (s.ctxOf 0).draining = false := by
  unfold State.awake; decide +kernel

/-- A running groom with these registers goes: what every statement of a groom instruction asks. -/
theorem runs0_goes (gr : SMap Word) : (runs0 gr).groomGoes 0 seq0 :=
  ⟨by show (runs0 []).stopped = false; decide, rfl, ⟨rfl, by decide, rfl⟩, rfl, by show 0 < 64; decide⟩
theorem wit_groom_shift : (runs0 [(2, 31)]).gsrc 0 (.reg 2) = 31 ∧ (31 : Word).toNat < 32 ∧ ¬((runs0 [(2, 32)]).gsrc 0 (.reg 2)).toNat < 32 := by decide +kernel
theorem wit_groom_scratch : let s := runs0 [(1, 0x4000)]
    s.greg 0 1 + (0x1FFC : BitVec 16).signExtend 32 = BitVec.ofNat 32 (0x4000 + 0x1FFC) ∧ 0x1FFC % gwidthBytes .b32 = 0 ∧ ¬0x1FFE % gwidthBytes .b32 = 0 := by
  decide +kernel
/-- The last line of an open granule, the last line of scratch; the granule protected; the refresh request up. -/
theorem wit_groom_lines : let s := { runs0 [(1, 0x1FFFC0), (2, 0x5FC0)] with granules := [(0, 1)] }
    (s.greg 0 1).toNat % 64 = 0 ∧ s.greg 0 2 = BitVec.ofNat 32 (0x4000 + 0x1FC0) ∧ 0x1FC0 + 64 ≤ 0x2000 ∧ s.bankOk 0 (s.greg 0 1).toNat 64 = true ∧ s.paused 0 = false
      ∧ (runs0 [(1, 0x1FFFC0), (2, 0x5FC0)]).bankOk 0 0x1FFFC0 64 = false ∧ (s.setFld Reg.CH_STATUS_OWED 8).paused 0 = true := by decide +kernel
/-- One column of one E4M3 code, one row, result 0 of part 0. -/
def gmul1 (nc : BitVec 12) (fmt : BitVec 4) : GMulArgs :=
  { add := false, nc := nc, b := 1, kTotal := 1, partsCode := 0, part := 0, wAddr := 0, fmt := fmt, comp := false, slot := 0, zpEn := false, zp := 0,
    scaleEn := false, scaleBase := 0, tag := 0, blist := 0, a := 0x4000, aStride := 64, out := 0x5000 }
theorem wit_gmul : let s := { runs0 [] with granules := [(0, 1)] }
    let f := gmul1 1 2
    s.gmulCheck 0 seq0 f = none ∧ f.kTotal ≠ 0 ∧ f.comp = false ∧ s.paused 0 = false ∧ gmNext f ({ args := f } : GmulAt).total 0 = ({ args := f } : GmulAt).total ∧ 0 < f.nc.toNat ∧ 0 < f.b.toNat
      ∧ ∀ b', b' < f.b.toNat → s.scratchBad 0 (f.a.toNat - 0x4000 + b' * f.aStride.toNat) (2 * gmV32 f) = false := by
  refine ⟨by decide +kernel, by decide +kernel, by decide +kernel, by decide +kernel, by decide +kernel, by decide +kernel, by decide +kernel, fun b' h => ?_⟩
  have : b' = 0 := Nat.lt_one_iff.mp h
  subst this; decide +kernel
/-- A count of zero; a format that is none; a granule that is protected. -/
theorem wit_gmul_other : let s := { runs0 [] with granules := [(0, 1)] }
    s.gmulCheck 0 seq0 (gmul1 0 2) = none ∧ (gmul1 0 2).nc = 0 ∧ (s.gmulCheck 0 seq0 (gmul1 1 8)).isSome = true ∧ gmFmtOk (gmul1 1 9) = false
      ∧ (s.gmulCheck 0 seq0 (gmul1 1 9)).isSome = true ∧ ((runs0 []).gmulCheck 0 seq0 (gmul1 1 2)).isSome = true := by decide +kernel
/-- Columns that go past the end of a row of the bank, from its start and where it goes on. -/
theorem wit_gmul_rows : let s := { runs0 [] with granules := [(0, 1)] }
    let f := { gmul1 40 2 with kTotal := 64 }
    let m (p : Nat) : GmulAt := { args := f, data := List.replicate p 7, marks := List.replicate (p / 64) false }
    let t (p : Nat) : State := { groomState { run := some seq0, codeLen := 64, gmul := some (m p) } with granules := [(0, 1)] }
    s.gmulCheck 0 seq0 f = none ∧ f.nc ≠ 0 ∧ f.kTotal ≠ 0 ∧ s.paused 0 = false ∧ gmNext f (m 0).total 0 ≠ (m 0).total ∧ gmCodes f ≠ 0
      ∧ (t 0).awake ∧ ((t 0).groom 0).run = some seq0 ∧ ((t 0).groom 0).gmul = some (m 0) ∧ (t 2048).gmulCheck 0 seq0 f = none ∧ (t 2048).paused 0 = false
      ∧ (m 2048).marks.length = f.b.toNat * (m 2048).cols ∧ gmNext f (m 2048).total 2048 = (m 2048).total
      ∧ (s.setFld Reg.CH_STATUS_OWED 8).gmulCheck 0 seq0 f = none ∧ ((t 0).setFld Reg.CH_STATUS_OWED 8).paused 0 = true := by
  unfold State.awake; decide +kernel
theorem wit_gvec : gopndGiven (.vec 0x4100) = opNeedsB 1 ∧ gopndGiven .none = opNeedsC 1 ∧ (gopndAt (.vec 0x4100) 1).toOption = some 0x100
    ∧ (gopndAt .none 1).toOption.isSome = true ∧ (0x4000 : BitVec 16).toNat = 0x4000 + 0 ∧ (0x5FFC : BitVec 16).toNat = 0x4000 + 0x1FFC ∧ 0x1FFC + 4 * 1 ≤ 0x2000 := by
  decide +kernel
theorem wit_gred_gnar_gscl : GRedOp.maxi ≠ .sum ∧ (0x4104 : BitVec 16).toNat = 0x4000 + 0x100 + 4 ∧ fmtOk 6 = true ∧ fmtBits 6 % 8 = 0 ∧ fmtOk 9 = false
    ∧ (511 : BitVec 9).toNat + (1 : BitVec 12).toNat ≤ 512 := by decide +kernel
theorem wit_gtbl : let s := (runs0 []).putBytes (grmScratchKey 0 0) tblImage
    s.hostOf seq0.ctx = some 0 ∧ tableImageSize (tableImageFmt (s.scratchRead 0 0 64)) = 64 ∧ (parseTable (s.scratchRead 0 0 64)).isSome = true
      ∧ (parseTable ((runs0 []).scratchRead 0 0 64)).isSome = false := by decide +kernel
theorem wit_gsend : let s := runs0 []
    s.chain = [] ∧ s.sendDst 0 (.groom 1) 16 = some (.groom 1) ∧ (s.groom 1).rx.length + 16 ≤ 16 ∧ s.sendDst 0 (.stb 0xFFFE00) 16 = some (.stb 0 0xFFFE00)
      ∧ (s.xqueue 0).length + 16 ≤ 64 := by
  decide +kernel
theorem wit_grecv : let s := groomState { run := some seq0, codeLen := 64, rx := [(List.replicate 32 1, false)] }
    (s.groom 0).recvDone = 0 ∧ (∀ f ∈ (s.groom 0).rx, f.1.length = 32) ∧ (1 : BitVec 9).toNat ≤ (s.groom 0).rx.length ∧ (0x4000 : BitVec 16).toNat = 0x4000 + 0
      ∧ 0 + 32 * (1 : BitVec 9).toNat ≤ 0x2000 := by decide +kernel
theorem wit_exit_node : let x : ChainFlit := ⟨0, 0, .stb 0 0xFFFFC0, List.replicate 32 1, false⟩
    let y : ChainFlit := ⟨0, 0, .stb 0 (0xFFFFC0 + 32), List.replicate 32 2, true⟩
    let s := { runs0 [] with xnode := [(0, [x, y])] }
    s.awake ∧ s.chain = [] ∧ s.xqueue 0 = [x, y] ∧ y.src = x.src ∧ y.ctx = x.ctx ∧ x.data.length = 32 ∧ y.data.length = 32 ∧ 0xFFFFC0 % 64 = 0
      ∧ 0xFFFFC0 + 64 ≤ stbSize := by
  unfold State.awake; decide +kernel
theorem wit_port_window : let s := (groomState {}).setFld Reg.GPORT_STATUS_STARTUP 0
    s.awake ∧ s.portOpen 0 = true ∧ s.selGroom 0 = some (0, 0) ∧ s.ready 0 = true ∧ (s.setFld Reg.GRM_STATUS_READY 0).ready 0 = false ∧ 0x3FF8 + 8 ≤ 0x4000 := by
  unfold State.awake; decide +kernel

/-! ### Registers and the memory system -/

/-- A part that has booted: it answers the physical function. -/
def up : State := { State.reset with board := { State.reset.board with bootDue := false } }
theorem wit_register_access : up.reaches (.fn 0) = true ∧ up.stallUp 15 = true ∧ up.awake := by unfold State.awake; decide
theorem wit_vf_fence : let s := (up.setFlag Reg.HIF_NUMVF_VF_EN).setFld Reg.HIF_NUMVF_NUMVF 256
    s.awake ∧ s.reaches (.fn 256) = true ∧ 0xFFFFC < 0x100000 ∧ 0x80000 ≤ 0xFFFFC ∧ 0xFFFFC % 4 = 0
      ∧ (s.entryOf (4096 * s.fld Reg.FN_CTRL_WIN_HALF 0 256 + (0xFFFFC - 0x80000) / 128)).tenant ≠ 256 - 1 ∧ 0xFFFFF % 4 ≠ 0 := by unfold State.awake; decide +kernel
theorem wit_vf_own : let s := { (up.setFlag Reg.HIF_NUMVF_VF_EN).setFld Reg.HIF_NUMVF_NUMVF 1 with ledger := [(4095, { tenant := 0, state := 4 })] }
    s.awake ∧ s.reaches (.fn 1) = true ∧ (s.entryOf (4096 * s.fld Reg.FN_CTRL_WIN_HALF 0 1 + (0xFFFFC - 0x80000) / 128)).tenant = 1 - 1 := by
  unfold State.awake; decide +kernel

theorem wit_refresh : let s := State.reset.setFld Reg.CH_STATUS_OWED 8 0 255
    s.awake ∧ s.chanUp 255 = true ∧ s.runningOf 255 = [] ∧ s.fld Reg.CH_STATUS_OWED 0 255 = 8 := by unfold State.awake; decide +kernel
theorem wit_refresh_postponed : (runs0 []).awake ∧ (runs0 []).chanUp 0 = true ∧ (runs0 []).runningOf 0 ≠ [] := by unfold State.awake; decide +kernel
/-- Every boundary of the temperatures. -/
theorem wit_temperatures : State.reset.awake ∧ (7 : Fin 8).val < State.reset.nStack ∧ (15 : Stall).val < State.reset.nStall
    ∧ [82, 83, 84, 85, 92, 93, 94, 95, 104, 105].map (fun c => ([0, c, 1, 0, 0] : List Byte).foldl (fun m x => max m x.toNat) 0)
      = [82, 83, 84, 85, 92, 93, 94, 95, 104, 105] := by unfold State.awake; decide

/-- A write and a read of a line of memory, as they stand in a queue. -/
def wr0 (d : LineRef) : MemReq := ⟨0, ⟨.hole, d, none, 0, 0, 0, 0⟩, some (List.replicate 64 7), 0, 0⟩
def rd0 (a d : LineRef) : MemReq := ⟨0, ⟨a, d, none, 0, 0, 0, 0⟩, none, 0, 0⟩
/-- Reset with a line of channel 0 (or of tier channel 63) that has `n` symbols in error, and the request in the queue of its channel. -/
def upset0 (n : Nat) : List (Nat × Byte) := (List.range n).map fun i => (71 - i, 1)
def chanState (n : Nat) (r : MemReq) : State := { State.reset.upsetLine (dramKey 0 0x5FFFFFC0) 8 (0x5FFFFFC0 / 64) (upset0 n) with chans := [(0, { queue := [r] })] }
def tierState (n : Nat) (r : MemReq) : State :=
  { (State.reset.setFld Reg.MEM_LP_CFG_NCH 64).upsetLine (tierKey 63 (2 ^ 33 - 64)) 4 ((State.reset.setFld Reg.MEM_LP_CFG_NCH 64).lpLineIndex 63 (2 ^ 33 - 64))
      ((List.range n).map fun i => (67 - i, 1)) with lpQueue := [(63, [r])] }
theorem wit_channel_write : let s := chanState 0 (wr0 (.dram 0 0x5FFFFFC0))
    s.awake ∧ (s.chanOf 0).queue = [wr0 (.dram 0 0x5FFFFFC0)] ∧ 0x5FFFFFC0 % 64 = 0 ∧ s.chanUp 0 = true ∧ s.paused 0 = false
      ∧ (s.chanOf 0).retrain.toNat ≤ s.tb.toNat ∧ s.granuleOpen 0 (0x5FFFFFC0 / 2 ^ 21) = false := by unfold State.awake; decide +kernel
theorem wit_channel_write_waits : let s := { State.reset with chans := [(0, { queue := [wr0 (.dram 0 0)], retrain := 1 })] }
    s.awake ∧ (s.chanOf 0).queue = [wr0 (.dram 0 0)] ∧ ¬(s.chanOf 0).retrain.toNat ≤ s.tb.toNat
      ∧ ((chanState 0 (wr0 (.dram 0 0))).setFld Reg.CH_STATUS_OWED 8).paused 0 = true := by unfold State.awake; decide +kernel
def lineVerdict (x : LineRead) : Nat := match x with | .clean => 0 | .corrected _ _ => 1 | .uncorrectable => 2
/-- A read of the last line of a channel: clean, corrected with two symbols in error, uncorrectable with three. -/
theorem wit_channel_read : let r := rd0 (.dram 0 0x5FFFFFC0) (.stb 15 0xFFFFC0)
    (chanState 3 r).awake ∧ ((chanState 3 r).chanOf 0).queue = [r] ∧ (chanState 3 r).chanUp 0 = true ∧ (chanState 3 r).granuleOpen 0 (0x5FFFFFC0 / 2 ^ 21) = false
      ∧ 0xFFFFC0 + 64 ≤ stbSize
      ∧ [0, 2, 3].map (fun n => lineVerdict ((chanState n r).decodeLine (dramKey 0 0x5FFFFFC0) 8 2 (0x5FFFFFC0 / 64) (0x5FFFFFC0 / 64))) = [0, 1, 2] ∧ (chanState 3 r).readTurn r = true := by
  unfold State.awake; decide +kernel
theorem wit_tier_write : let s := { State.reset with lpQueue := [(63, [wr0 (.tier 63 0)])] }
    s.awake ∧ s.lpOf 63 = [wr0 (.tier 63 0)] := by unfold State.awake; decide +kernel
theorem wit_tier_read : let r := rd0 (.tier 63 (2 ^ 33 - 64)) (.stb 15 0xFFFFC0)
    (tierState 1 r).awake ∧ (tierState 1 r).lpOf 63 = [r] ∧ 2 ^ 33 - 64 < 2 ^ 33
      ∧ [0, 1, 2].map (fun n => lineVerdict ((tierState n r).decodeLine (tierKey 63 (2 ^ 33 - 64)) 4 1 ((tierState n r).lpBaseIndex 63 (2 ^ 33 - 64)) ((tierState n r).lpLineIndex 63 (2 ^ 33 - 64)))) = [0, 1, 2]
      ∧ (tierState 1 r).readTurn r = true := by
  unfold State.awake; decide +kernel
/-- No symbol in error, two and three of a line of a channel; none, one and two of a line of the tier. -/
theorem wit_scrub : let s := State.reset
    s.awake ∧ s.flag Reg.MEM_CTRL_SCRUB_EN = true ∧ s.chanTakes 255 0 false = true ∧ s.nextProtected 255 (s.chanOf 255).scrub = some 0
      ∧ [0, 2, 3].map (fun n => lineVerdict ((s.upsetLine (dramKey 255 0) 8 0 (upset0 n)).decodeLine (dramKey 255 0) 8 2 0 0)) = [0, 1, 2]
      ∧ s.flag Reg.CH_STATUS_UE 0 255 = false := by unfold State.awake; decide +kernel
theorem wit_scrub_tier : let s := State.reset.setFld Reg.MEM_LP_CFG_NCH 64
    let a := s.lpLineIndex 63 0
    s.awake ∧ s.flag Reg.MEM_CTRL_SCRUB_EN = true ∧ s.lpNch ≠ 0 ∧ s.lpFirst ≤ 63 ∧ 63 < s.lpFirst + s.lpNch ∧ SMap.get s.lpScrub 0 63 = 0
      ∧ [0, 1, 2].map (fun n => lineVerdict ((s.upsetLine (tierKey 63 0) 4 a ((List.range n).map fun i => (67 - i, 1))).decodeLine (tierKey 63 0) 4 1 a a)) = [0, 1, 2] ∧ s.lpBaseIndex 63 0 = a := by
  unfold State.awake; decide +kernel
theorem wit_repair : let s := State.reset.wr Reg.MEM_REPAIR_ARG 0
    s.awake ∧ s.repairArg.q < s.nChan ∧ s.repairArg.row < 24576 ∧ s.sparesLeft 0 0 ≠ 0 ∧ bits (s.rd Reg.MEM_REPAIR_ARG) 18 13 ≤ 35
      ∧ s.flag Reg.CH_LANE_SPARED = false := by unfold State.awake; decide +kernel
theorem wit_repair_fuse : let s := { State.reset with softRows := [(0, 0, 0)] }
    s.awake ∧ s.startup = true ∧ (s.repairArg.q, s.repairArg.bank, s.repairArg.row) ∈ s.softRows ∧ s.sparesLeft 0 0 ≠ 0 := by unfold State.awake; decide +kernel
theorem wit_repair_refused : let s := { State.reset.setFlag Reg.CH_LANE_SPARED with fusedRows := (List.range 32).map fun i => (0, 0, i + 1) }
    s.awake ∧ s.sparesLeft 0 0 = 0 ∧ s.flag Reg.CH_LANE_SPARED = true := by unfold State.awake; decide +kernel

/-! ### DMA -/

theorem wit_push : let s := { State.reset with dma := [(0, { queue := List.replicate 15 0 })] }
    s.awake ∧ s.stallUp 0 = true ∧ (s.dmaOf 0 0).queue.length < 16 ∧ ¬(List.replicate 16 0).length < 16 := by unfold State.awake; decide
/-- A descriptor with one wrong byte; a copy of nothing; a stream into a ring of one slot. -/
def desc0 (fs : List (Nat × Nat × Nat)) : State :=
  (({ State.reset with dma := [(0, { queue := [0x100] })] }).putBytes (stbKey 0 0x100) (record 0 1 fs))
def streamIn : List (Nat × Nat × Nat) := [(0, 1, 1), (36, 2, 1), (38, 2, 1)]
theorem wit_start : let s := desc0 []
    s.awake ∧ s.stallUp 0 = true ∧ (s.dmaOf 0 0).cur = none ∧ s.flag Reg.DMA_CH_CTRL_EN = true ∧ s.chState 0 0 = stIdle ∧ (s.dmaOf 0 0).queue = [0x100]
      ∧ (parseDmaDesc ((desc0 [(28, 3, 16)]).stbRead 0 0x100 64)).aligned = false ∧ dmaDescOk ((desc0 [(28, 3, 16)]).stbRead 0 0x100 64) = false ∧ dmaDescOk (s.stbRead 0 0x100 64) = true ∧ (parseDmaDesc (s.stbRead 0 0x100 64)).kind = 0
      ∧ dmaDescOk ((desc0 [(3, 1, 1)]).stbRead 0 0x100 64) = false := by unfold State.awake; decide +kernel
theorem wit_start_waits : let r : Ring := { base := 0, nslot := 1, slotLines := 1, isOut := false, issued := 1, ended := true }
    let s := { desc0 streamIn with dma := [(0, { queue := [0x100], ring := some r })] }
    s.awake ∧ (s.dmaOf 0 0).queue = [0x100] ∧ dmaDescOk (s.stbRead 0 0x100 64) = true ∧ (parseDmaDesc (s.stbRead 0 0x100 64)).kind ≠ 0 ∧ r.allFree = false := by
  unfold State.awake; decide +kernel
/-- The copy of nothing, current on channel 0. -/
def copy0 : DmaDesc := parseDmaDesc []
theorem wit_trigger : let s := ({ State.reset with dma := [(0, { cur := some copy0 })] }).setCh 0 0 stWaitTrig
    s.awake ∧ (s.dmaOf 0 0).cur = some copy0 ∧ s.chState 0 0 = stWaitTrig ∧ s.triggered 0 copy0 = true
      ∧ s.triggered 0 { copy0 with trigger := 1, trigVal := 5 } = false := by unfold State.awake; decide +kernel
theorem wit_descriptor_complete : let s := ({ State.reset with dma := [(0, { cur := some copy0, started := true })] }).setCh 0 0 stRun
    s.awake ∧ (s.dmaOf 0 0).flights = [] ∧ s.chState 0 0 = stRun ∧ s.walkEnd 0 0 copy0 = some codeOk ∧ copy0.doneLatch < 256 := by
  unfold State.awake; decide +kernel
theorem wit_stream_end : let r : Ring := { base := 0, nslot := 2, slotLines := 1, isOut := false, head := 1, issued := 1, lines := [(0, 1)], ended := true, finished := true }
    let w := { cHistRing with issued := true }
    let s := ringState w r
    let x := (parseHist w.record).src
    s.awake ∧ (s.dspOf 0).running.find? (fun w => w.seq == 1 && !w.ok && w.outs.isNone && w.issued) = some w ∧ x ∈ w.descs ∧ x.present = true
      ∧ x.kind = 3 ∧ (s.dmaOf 0 x.chan).ring = some r ∧ r.isOut = false ∧ r.finished = true ∧ r.inUse = false ∧ r.head = r.started
      ∧ SMap.get w.reads 0 x.place < x.slots ∧ SMap.get w.holding false x.place = false ∧ (s.dspOf 0).held = none := by unfold State.awake; decide +kernel
theorem wit_wait_ring : let s := ({ State.reset with dma := [(0, { queue := [0x100] })] }).setCh 0 0 stWaitRing
    s.awake ∧ s.stallUp 0 = true ∧ s.chState 0 0 = stWaitRing ∧ (s.dmaOf 0 0).queue = [0x100] := by unfold State.awake; decide +kernel
theorem wit_dma_control : let s := (({ State.reset with dma := [(0, { cur := some copy0, aborting := true })] }).setCh 0 0 stDraining)
    let h := State.reset.setCh 0 0 stHalted
    s.awake ∧ s.chState 0 0 = stDraining ∧ (s.dmaOf 0 0).flights = [] ∧ (s.dmaOf 0 0).aborting = true ∧ s.flag Reg.DMA_CH_CTRL_EN = true
      ∧ h.awake ∧ h.chState 0 0 = stHalted := by unfold State.awake; decide +kernel
theorem wit_dma_drained : let s := (State.reset.setCh 0 0 stDraining).setFld Reg.DMA_CH_CTRL_EN 0
    s.awake ∧ s.chState 0 0 = stDraining ∧ (s.dmaOf 0 0).flights = [] ∧ (s.dmaOf 0 0).aborting = false ∧ s.flag Reg.DMA_CH_CTRL_EN = false
      ∧ s.flag Reg.DMA_CH_STATUS_PENDING_ENABLE = false := by unfold State.awake; decide +kernel

/-- A copy of the line at 0x1000 to the last line of the buffer, its lists at 0x100 and 0x120. -/
def copyLine : DmaDesc := { copy0 with srcCount := 1, dstCount := 1, srcList := 0x100, dstList := 0x120 }
def copyState : State :=
  ((({ State.reset with dma := [(0, { cur := some copyLine, started := true })] }).setCh 0 0 stRun).putBytes (stbKey 0 0x100)
    (leBytes (2 ^ 40 + 0x1000) 6 ++ [0, 0] ++ leBytes 64 4 ++ [1, 0, 1, 0, 1, 0] ++ List.replicate 14 0)).putBytes (stbKey 0 0x120)
    (leBytes (2 ^ 40 + 0xFFFFC0) 6 ++ [0, 0] ++ leBytes 64 4 ++ [1, 0, 1, 0, 1, 0] ++ List.replicate 14 0)
/-- The block of one line at a device address. -/
def oneLine (a : Nat) : Block :=
  { addr := a, len0 := 64, space := 0, view := false, latchWait := false, n1 := 1, n2 := 1, n3 := 1, latch := 0, s1 := 0, s2 := 0, s3 := 0, rsv := false }
theorem wit_copy_line : let s := copyState
    s.awake ∧ s.stallUp 0 = true ∧ s.shortsOf 0 = [] ∧ s.issueOrder 0 = [0] ∧ copyLine.kind = 0 ∧ s.chState 0 0 = stRun ∧ s.rd Reg.DMA_CH_SPOS = 0
      ∧ parseBlock (s.stbRead 0 0x100 32) = oneLine (2 ^ 40 + 0x1000)
      ∧ parseBlock (s.stbRead 0 0x120 32) = oneLine (2 ^ 40 + 0xFFFFC0)
      ∧ spansMeet 0xFFFFC0 64 0x100 32 = false ∧ spansMeet 0xFFFFC0 64 0x120 32 = false := by unfold State.awake; decide +kernel
/-- The short transfer of the same line. -/
def short0 (issued : Bool) : ShortXfer := ⟨0xFFFF, ⟨0, false, 2 ^ 40 + 0 * 2 ^ 24 + 0x1000⟩, ⟨0, false, 2 ^ 40 + 0 * 2 ^ 24 + 0xFFFFC0⟩, 1, issued⟩
theorem wit_short_transfer : let s (i : Bool) := { State.reset with shorts := [(0, [short0 i])] }
    (s false).awake ∧ (s false).shortsOf 0 = [short0 false] ∧ (s false).issueOrder 0 = [] ∧ (s true).awake ∧ (s true).shortsOf 0 = [short0 true]
      ∧ (s true).linePoison 0 (0x1000 / 64) = false := by unfold State.awake; decide +kernel

/-! ### Host interface -/

def req0 : PageReq := ⟨1, 0x7000, 511, 5⟩
theorem wit_translation : let s := { State.reset with xlReqs := [(256, 0xFFFFFFFFFFFFF000)] }
    s.awake ∧ s.xlReqs = [((256 : Fn).val, (0xFFFFFFFFFFFFF000 : Dword).toNat)] ∧ (0xFFFFFFFFFFFFF000 : Dword).toNat % 4096 = 0 ∧ s.atc = []
      ∧ State.reset.xlReqs = [] ∧ ∀ i, i < 128 → (State.reset.dmaOf (i / 8) (i % 8)).flights = [] := by unfold State.awake; decide +kernel
theorem wit_page_response : let s := ({ State.reset with pageReqs := [req0], dma := [(0, { waitPage := some (1, 0x7000) })] }.setCh 0 0 stWaitPage).setFld Reg.FN_PRI_TMO_TMO 2 0 1
    s.awake ∧ s.pageReqs = [req0] ∧ req0.fn = (1 : Fn).val ∧ req0.idx < 512 ∧ req0.page = (0x7000 : Dword).toNat
      ∧ (s.dmaOf (0 / 8) (0 % 8)).waitPage = some ((1 : Fn).val, req0.page) ∧ s.chState (0 / 8) (0 % 8) = stWaitPage
      ∧ 0 < s.fld Reg.FN_PRI_TMO_TMO 0 1 ∧ req0.tb.toNat + 1000 * s.fld Reg.FN_PRI_TMO_TMO 0 1 ≤ (2005 : Dword).toNat := by unfold State.awake; decide +kernel
theorem wit_coalescing : let s := { State.reset with fns := [(1, { coal := [(2, { n := 1, first := 7 })] })] }.setFld Reg.FN_COAL_TIME 3 0 1
    s.awake ∧ 0 < (s.coalOf 1 2).n ∧ 0 < s.fld Reg.FN_COAL_TIME 0 1 ∧ (s.coalOf 1 2).first.toNat + 1000 * s.fld Reg.FN_COAL_TIME 0 1 ≤ (3007 : Dword).toNat := by
  unfold State.awake; decide +kernel

/-- A command ring of 4 entries, enabled, at count 0xFFFFFFFF, with commands to fetch. -/
def ring4 : State := { (State.reset.setFlag Reg.FN_CTRL_EN 0 1).setFld Reg.FN_LQ_CFG_LOG2 2 0 1 with fns := [(1, { lqTail := 3, cqTail := 0xFFFFFFFD })] }.wr Reg.FN_LQ_HEAD 0xFFFFFFFF 0 1
theorem wit_rings_fetch : let s := ring4
    let f := s.fnOf 1
    let head := BitVec.ofNat 32 (s.rd Reg.FN_LQ_HEAD 0 1)
    s.awake ∧ s.flag Reg.FN_CTRL_EN 0 1 = true ∧ f.d3 = false ∧ f.flr = false ∧ f.fetchPage = none ∧ f.ats = false ∧ 0 < (f.lqTail - head).toNat
      ∧ (f.lqTail - head).toNat ≤ 2 ^ s.fld Reg.FN_LQ_CFG_LOG2 0 1 ∧ (head - f.cqTail).toNat < 2 ^ s.fld Reg.FN_LQ_CFG_LOG2 0 1
      ∧ SMap.get s.hostPoison false ((s.rd Reg.FN_LQ_BASE 0 1 + 64 * (head.toNat % 2 ^ s.fld Reg.FN_LQ_CFG_LOG2 0 1)) / 64) = false
      ∧ 2 ^ s.fld Reg.FN_LQ_CFG_LOG2 0 1 < ((4 : Word) - head).toNat := by unfold State.awake; decide +kernel
theorem wit_rings_off : let s := State.reset.setFld Reg.FN_LQ_CFG_LOG2 2 0 1
    let d := s.setFlag Reg.FN_STATUS_DRAINING 0 1
    s.awake ∧ s.flag Reg.FN_CTRL_EN 0 1 = false ∧ s.flag Reg.FN_STATUS_DRAINING 0 1 = false ∧ (2 ≤ s.fld Reg.FN_LQ_CFG_LOG2 0 1 ∧ s.rd Reg.FN_LQ_BASE 0 1 % 64 = 0
      ∧ s.rd Reg.FN_CQ_BASE 0 1 % 64 = 0) ∧ d.flag Reg.FN_STATUS_DRAINING 0 1 = true ∧ (d.fnOf 1).idle = true ∧ (d.fnOf 1).flr = false
      ∧ State.reset.fld Reg.FN_LQ_CFG_LOG2 0 1 < 2 := by unfold State.awake; decide +kernel

/-- A direct queue of 2 entries, its first offset `r` at 0x40. -/
def direct (r : Nat) : State :=
  ({ (State.reset.setFlag Reg.STL_DQ_CTRL_EN).setFld Reg.STL_DQ_CTRL_BASE 1 with dqTail := [(0, 1)] }.putBytes (stbKey 0 0x40) (leBytes r 4)).putBytes
    (stbKey 0 0xFFFFC0) (record opLatchRel 1 [])
theorem wit_direct_queue : let s := direct 0xFFFFC0
    s.awake ∧ s.stallUp 0 = true ∧ s.flag Reg.STL_DQ_CTRL_EN 0 = true ∧ s.flag Reg.SCC_CTRL_RUN 0 = false ∧ s.windowFull 0 = false
      ∧ SMap.get s.dqTail 0 0 - BitVec.ofNat 32 (s.rd Reg.STL_DQ_HEAD 0) = 1 ∧ leAt (s.stbRead 0 0x40 4) 0 4 = 0xFFFFC0
      ∧ 0xFFFFC0 + recordBytes (s.stbRead 0 0xFFFFC0 16) = stbSize ∧ leAt ((direct 0x20).stbRead 0 0x40 4) 0 4 % 64 ≠ 0 := by unfold State.awake; decide +kernel
theorem wit_apertures : let s := (State.reset.setFlag Reg.APT_WIN_EN 0 15).setFld Reg.APT_WIN_BASE 256 0 15
    s.awake ∧ s.fnAnswers 0 = true ∧ s.aperture 0x0FFFFFFFF = none ∧ s.stallUp 15 = true
      ∧ s.aperture (15 * 2 ^ 32 + 15 * 2 ^ 24 + 0xFFFFC0) = some (false, 2 ^ 40 + (15 : Stall).val * 2 ^ 24 + 0xFFFFC0) ∧ 0xFFFFC0 % 64 + 64 ≤ 64
      ∧ 0xFFFFC0 + 64 ≤ stbSize := by unfold State.awake; decide +kernel
theorem wit_function_reset : let s := (State.reset.setFlag Reg.HIF_NUMVF_VF_EN).setFld Reg.HIF_NUMVF_NUMVF 256
    let r := { s with fns := [(256, { flr := true })] }
    let d := State.reset.setFlag Reg.HIF_NUMVF_DRAINING
    s.awake ∧ (256 : Fn).val ≠ 0 ∧ s.flag Reg.HIF_NUMVF_VF_EN = true ∧ s.fnExists 256 = true ∧ (s.fnOf 256).flr = false ∧ State.reset.fnExists 1 = false
      ∧ r.fnExists 256 = true ∧ (r.fnOf 256).flr = true ∧ (s.fnOf 256).ats = false ∧ d.flag Reg.HIF_NUMVF_DRAINING = true := by unfold State.awake; decide +kernel

/-! ### Ledger and sequencer -/

/-- Paddock 0: stall 0, two entries from index 4, tenants 0 and 1, open. -/
def pdk0 (fs : List (Nat × Nat × Nat)) : State :=
  (({ State.reset.setFlag Reg.STL_INFO_IN_PDK with
      tackPdk := [(0, record 0 8 (fs ++ [(1, 1, 1), (2, 2, 1), (4, 2, 4), (6, 2, 2), (35, 1, 15), (36, 2, 64), (44, 2, 1), (48, 1, 3), (128, 2, 1), (130, 1, 1), (144, 2, 8)]))]
    }.setFld Reg.TACK_STATUS_STATE 2).setFlag Reg.PDK_CTRL_OPEN).setFld Reg.PDK_STATUS_STATE 2
/-- A SUBMIT of one prompt token for paddock 0, and a command `op` for entry 5. -/
def cmdSubmit : List Byte := record 1 1 [(1, 1, 0), (4, 4, 2 * 2 ^ 24), (12, 4, 1), (16, 4, 1048576), (48, 8, 77)]
def cmdEntry (op : Nat) : List Byte := record op 1 [(1, 1, 0), (4, 2, 5), (8, 2, if op = 3 then 65535 else 0), (48, 8, 77)]
def fetched (cmd : List Byte) (s : State) : State := { s with fns := [(1, { fetched := [(0xFFFFFFFF, cmd)] })] }.setFld Reg.FN_LQ_CFG_LOG2 2 0 1
def entry5 (state : Nat) : Entry := { state := state, tenant := 0, hostTag := 77, ringBase := 0x10000, ringLog2 := 2, tailSeen := 0, fn := 1 }
def withEntry (e : Entry) (s : State) : State := { s with ledger := [(5, e)] }
def answers (s : State) : Prop := s.awake ∧ s.lqNext = some 1 ∧ (s.fnOf 1).cpl = none ∧ (s.fnOf 1).ats = false ∧ s.hostTry 1 (s.rd Reg.FN_CQ_BASE 0 1 + 16 * ((0xFFFFFFFF : Word).toNat % 2 ^ s.fld Reg.FN_LQ_CFG_LOG2 0 1)) true = (s, .ok 48)
theorem wit_submit : let s := fetched cmdSubmit (pdk0 [])
    answers s ∧ s.cmdCheck cmdSubmit 1 none = none ∧ cmdSubmit.length = 64 ∧ byteAt cmdSubmit 0 = 1
      ∧ (s.slice 0).find? (fun i => (s.entryOf i).state == stFree) = some 4 := by unfold answers State.awake; decide +kernel
theorem wit_unknown_op : let s := fetched (cmdEntry 15) (pdk0 [])
    answers s ∧ s.cmdCheck (cmdEntry 15) 1 none = some codeBadField ∧ byteAt (cmdEntry 15) 0 ∉ [1, 2, 3, 4, 5] := by unfold answers State.awake; decide +kernel
theorem wit_entry_commands : let s (op st : Nat) := fetched (cmdEntry op) (withEntry { entry5 st with imported := true } (pdk0 []))
    answers (s 2 stQueued) ∧ (s 2 stQueued).cmdCheck (cmdEntry 2) 1 none = none ∧ (s 3 stQueued).cmdCheck (cmdEntry 3) 1 none = none
      ∧ (s 4 stPaused).cmdCheck (cmdEntry 4) 1 none = none ∧ (s 5 stQueued).cmdCheck (cmdEntry 5) 1 none = none
      ∧ (s 2 stDone).cmdCheck (cmdEntry 2) 1 none = some codeStale := by unfold answers State.awake; decide +kernel

/-- Another function's turn; a completion record that waited. -/
theorem wit_command_turn : let s := { State.reset with fns := [(1, { fetched := [(0, cmdEntry 2)] }), (2, { fetched := [(0, cmdEntry 2)] })], lqTurn := 2 }
    s.awake ∧ s.lqNext = some 2 ∧ (s.fnOf 1).cpl = none ∧ (s.fnOf 1).fetched = [(0, cmdEntry 2)] ∧ (cmdEntry 2).length = 64 := by unfold State.awake; decide +kernel
theorem wit_completion_waits : let x : CplWait := ⟨0xFFFFFFFF, 0, 5, cmdSubmit⟩
    let s := { withEntry (entry5 stQueued) (pdk0 []) with fns := [(1, { cpl := some x })] }.setFld Reg.FN_LQ_CFG_LOG2 2 0 1
    s.awake ∧ (s.fnOf 1).cpl = some x ∧ byteAt x.cmd 0 = 1 ∧ s.openedWaits 5 = false
      ∧ s.hostTry 1 (s.rd Reg.FN_CQ_BASE 0 1 + 16 * (x.serial.toNat % 2 ^ s.fld Reg.FN_LQ_CFG_LOG2 0 1)) true = (s, .ok 48) := by unfold State.awake; decide +kernel

def recToken (st : Nat) : Rec := { kind := 0, token := 9, pos := 3, st := st }
def withRecs (e : Entry) (l : List Rec) : State := withEntry { e with recs := l } (pdk0 [])
theorem wit_record_out : let s := withRecs (entry5 stDecode) [recToken 15]
    s.awake ∧ (s.entryOf 5).silent = false ∧ (s.entryOf 5).drops (recToken 15) = false ∧ (s.entryOf 5).paddock < 16 ∧ 2 ≤ (s.entryOf 5).room ∧ s.hostTry 1 (0x10000 + 64 + 16 * 0) true = (s, .ok 0x10040) := by
  unfold State.awake; decide +kernel
theorem wit_record_room : ({ entry5 stDecode with ringHead := 2 } : Entry).room = 2 ∧ ({ entry5 stDecode with ringHead := 3 } : Entry).room = 1
    ∧ ({ entry5 stDecode with ringHead := 4 } : Entry).room = 0 := by decide
/-- A token of a request whose CANCEL has been seen, and one whose position has been issued; a closing record is not dropped. -/
theorem wit_record_dropped : let e := entry5 stDecode
    let s := withRecs { e with cancelReq := true } [recToken 0]
    s.awake ∧ (s.entryOf 5).recs = [recToken 0] ∧ (s.entryOf 5).silent = false ∧ (s.entryOf 5).drops (recToken 0) = true
      ∧ ({ e with cancelReq := true } : Entry).drops { recToken 0 with kind := 2, held := true } = false ∧ ({ e with issuedTo := 4 } : Entry).drops (recToken 0) = true
      ∧ ({ e with issuedTo := 3 } : Entry).drops (recToken 0) = false := by unfold State.awake; decide +kernel
/-- One free place, with the TAIL as it was and with one beyond the ring. -/
theorem wit_record_held : let s (t : Byte) := (withRecs { entry5 stDecode with ringHead := 3 } [recToken 0]).putBytes (hostKey 0x10000) [t]
    let tail (t : Byte) := BitVec.ofNat 32 (leAt ((s t).bytes (hostKey 0x10000) 4) 0 4)
    (s 0).awake ∧ ((s 0).entryOf 5).room = 1 ∧ ((s 0).entryOf 5).drops (recToken 0) = false ∧ SMap.get (s 0).hostPoison false (0x10000 / 64) = false
      ∧ (s 0).hostTry 1 0x10000 false = (s 0, .ok 0x10000) ∧ ({ (s 0).entryOf 5 with tailSeen := tail 0 } : Entry).room < 2
      ∧ (s 4).hostTry 1 0x10000 false = (s 4, .ok 0x10000) ∧ ({ (s 4).entryOf 5 with tailSeen := tail 4 } : Entry).room < 2
      ∧ (((s 4).entryOf 5).ringHead - tail 4).toNat > 2 ^ 2 := by unfold State.awake; decide +kernel
theorem wit_tail_reread : let r := { recToken 0 with held := true }
    let s := (withRecs { entry5 stDecode with ringHead := 3 } [r]).putBytes (hostKey 0x10000) [1]
    let tail := BitVec.ofNat 32 (leAt (s.bytes (hostKey 0x10000) 4) 0 4)
    s.awake ∧ tail = 1 ∧ (s.entryOf 5).recs = [r] ∧ (s.entryOf 5).silent = false ∧ (s.entryOf 5).drops r = false
      ∧ s.hostTry 1 0x10000 false = (s, .ok 0x10000) ∧ SMap.get s.hostPoison false (0x10000 / 64) = false
      ∧ 2 ≤ ({ s.entryOf 5 with tailSeen := tail } : Entry).room ∧ s.hostTry 1 (0x10000 + 64 + 16 * 3) true = (s, .ok 0x10070) := by unfold State.awake; decide +kernel
theorem wit_ring_wait : let s := (pdk0 [(38, 2, 2)]).putPdk 0 { waitFrom := some 5 }
    s.awake ∧ (s.pdkOf 0).waitFrom = some 5 ∧ (5 : Dword).toNat + 1000 * s.ringWait 0 ≤ (2005 : Dword).toNat ∧ ¬(5 : Dword).toNat + 1000 * s.ringWait 0 ≤ (2004 : Dword).toNat := by
  unfold State.awake; decide +kernel

/-- A full budget and one in debt. -/
theorem wit_budget : let s := State.reset.wr Reg.TNT_REFILL 0xFFFFFFFF 0 255
    s.awake ∧ (1000000 : Dword).toNat % 1000000 = 0 ∧ s.rd Reg.TNT_REFILL 0 255 ≠ 0 ∧ s.rd Reg.TNT_REFILL 0 0 = 0 := by unfold State.awake; decide +kernel
theorem wit_paddock_open : let s := pdk0 []
    let a := s.setFld Reg.PDK_STATUS_STATE 3
    let f := pdk0 [(258, 1, 2), (259, 1, 1)]
    s.awake ∧ (s.pdkOf 0).bookBad = false ∧ ((s.putPdk 0 { bookBad := true }).pdkOf 0).bookBad = true ∧ ({ s with board := up.board } : State).reaches (.fn 0) = true
      ∧ ({ s with board := up.board } : State).pdkOn 0 = true ∧ s.pdkOn 0 = true ∧ s.pdkOn 1 = false ∧ s.follower 0 = false ∧ f.follower 0 = true ∧ f.pdkOn 0 = true ∧ s.fld Reg.PDK_STATUS_STATE = 2
      ∧ a.fld Reg.PDK_STATUS_STATE = 3 ∧ a.pdkOn 0 = true ∧ (s.pdkOf 0).running = false := by unfold State.awake; decide +kernel
theorem wit_abort_all : let s := withEntry (entry5 stQueued) (pdk0 [])
    s.awake ∧ s.pdkOn 0 = true ∧ 5 ∈ s.slice 0 ∧ (s.entryOf 5).live = true ∧ s.allFree 0 = false ∧ (pdk0 []).allFree 0 = true ∧ (s.pdkOf 0).stop = 0 := by
  unfold State.awake; decide +kernel

def queued5 : State := ({ withEntry { entry5 stQueued with lPrompt := 1, lMax := 8 } (pdk0 [(16, 3, 1)]) with
  pdks := [(0, { due := true, cmds := [cmdSubmit], pool := [⟨0, false, 0, 0⟩] })] }.wr Reg.TNT_BUDGET 100).setFld Reg.PDK_PG_TOTAL_TOTAL 1
theorem wit_plan : let s := queued5
    s.awake ∧ s.follower 0 = false ∧ s.hingeMay 0 = true ∧ s.hingeWaits 0 = false ∧ (pdk0 []).hingeMay 0 = false := by unfold State.awake; decide +kernel
/-- Every channel of the paddock takes requests; channel 0, which its stall owns, performs owed refreshes. -/
def owning (s : State) : State := s.wr Reg.GPORT_MAP 0x80000000
theorem wit_channels_ready : queued5.firstStall 0 = 0 ∧ queued5.paddockReady 0 = true
    ∧ ((owning queued5).setFld Reg.CH_STATUS_OWED 8).paddockReady ((owning queued5).firstStall 0) = false := by
  refine ⟨by decide +kernel, ready_all _ _ (by decide +kernel), ?_⟩
  unfold State.paddockReady
  rw [List.all_eq_false]
  exact ⟨0, by decide +kernel, by decide +kernel⟩
theorem wit_plan_waits : let s := (withRecs { entry5 stDecode with ringHead := 4 } [{ recToken 0 with held := true }])
    let s := { s with tackPdk := [(0, (s.sect 0).set 38 1)], pdks := [(0, { running := true, step := [⟨5, 1, false, 3⟩], ended := [0], res := [⟨5, 0, 0, false, 0⟩] })] }
    s.awake ∧ s.follower 0 = false ∧ s.hingeMay 0 = true ∧ s.hingeWaits 0 = true := by unfold State.awake; decide +kernel
def plan5 : Plan := ⟨[(5, { entry5 stQueued with lPrompt := 1, lMax := 8 }, { entry5 stPrompt with lPrompt := 1, lMax := 8 })], [⟨5, 1, true, 0⟩], 0, 0, false, [(0, 1)], [cmdSubmit], []⟩
theorem wit_commit : let s := { queued5 with pdks := [(0, { plan := some plan5, pool := [⟨0, false, 0, 0⟩] })] }
    s.awake ∧ (s.pdkOf 0).plan = some plan5 ∧ (∀ x ∈ s.fns, x.2.flr = false) ∧ ((pdk0 []).pdkOf 0).plan = none := by unfold State.awake; decide +kernel
theorem wit_copy : let s := withEntry { entry5 stPaused with copy := some ⟨true, [], false⟩ } (pdk0 [])
    let r := withEntry { entry5 stPaused with copy := some ⟨true, [], true⟩ } (pdk0 [])
    s.awake ∧ (s.entryOf 5).copy = some ⟨true, [], false⟩ ∧ (r.entryOf 5).copy = some { (⟨true, [], false⟩ : KvCopy) with ready := true }
      ∧ (s.entryOf 4).copy = none ∧ s.firstStall (s.entryOf 5).paddock = 0 := by unfold State.awake; decide +kernel
theorem wit_copy_ready : let s := withEntry { entry5 stPaused with copy := some ⟨true, [], false⟩ } (pdk0 [])
    s.paddockReady 0 = true := ready_all _ _ (by decide +kernel)
theorem wit_copy_waits : let s := ((owning (withEntry { entry5 stPaused with copy := some ⟨true, [], false⟩ } (pdk0 []))).setFld Reg.CH_STATUS_OWED 8)
    (s.entryOf 5).copy.isSome = true ∧ s.paddockReady (s.firstStall (s.entryOf 5).paddock) = false := by
  refine ⟨by decide +kernel, ?_⟩
  unfold State.paddockReady
  rw [List.all_eq_false]
  exact ⟨0, by decide +kernel, by decide +kernel⟩

/-! ### The Dartin link -/

/-- A device of DID 0 with every port enabled and port 7 up; DID 1 is reached by it. -/
def linked : State :=
  ({ State.reset with tackDevice := [0, 0, 0, 0, 0xFF] ++ List.replicate 4476 0 ++ [0x87] }.setFld Reg.DRT_PORT_STATUS_STATE 2 0 7).setFld Reg.TACK_STATUS_STATE 2
def withPort (p : DrtPort) (s : State) : State := { s with ports := [(7, p)] }
/-- A flit of DID 1 as it comes in; TTL is the second byte. -/
def flitOf (type dst : Nat) (fields payload : List Byte) (ttl : Byte := 15) (seq : Nat := 0) : List Byte :=
  stampFlit ((mkFlit type dst 1 1 fields payload).set 1 ttl) false seq 0 [0, 0, 0, 0]
/-- The IDLE flit with NAK and ACK 0. -/
def flitNak : List Byte := stampFlit (List.replicate 256 0) true 0 0 [255, 1, 0, 0]
theorem wit_link_good : let s := linked
    let f := flitOf tPing 0 [] []
    s.awake ∧ s.portUp 7 = true ∧ s.portUp 0 = false ∧ flitGood f = true ∧ fType f < 12 ∧ fVl f = typeVl (fType f) ∧ fSeq f = ((s.portOf 7).rxSeq + 1) % 65536
      ∧ fDst f = s.did := by unfold State.awake; decide +kernel
theorem wit_link_transit : let f := flitOf tPing 1 [] [] 1
    flitGood f = true ∧ fDst f ≠ linked.did ∧ fTtl f ≤ 1 ∧ fSeq f = 0 ∧ fType f = 10 ∧ fVl f = 3 := by decide +kernel
theorem wit_link_bad : flitGood (flitOf tPing 0 [] []) = true ∧ ¬flitGood (List.replicate 256 0) = true ∧ fSeq (flitOf tPing 0 [] [] 15 1) ≠ (0xFFFF + 1) % 65536
    ∧ fType (flitOf tPing 0 [] [] 15 1) ≠ tIdle := by decide +kernel
theorem wit_link_idle : let s := withPort { sent := [(0, flitOf tPing 1 [] []), (1, flitOf tPing 1 [] [] 15 1)] } linked
    s.awake ∧ s.portUp 7 = true ∧ flitGood flitNak = true ∧ fType flitNak = tIdle ∧ fNak flitNak = true ∧ (s.portOf 7).tx = [] ∧ s.exp.cur = none ∧ s.exp.queue = [] := by
  unfold State.awake; decide +kernel
theorem wit_nak : let s := withPort { sent := [(1, flitOf tPing 1 [] [] 15 1)], nakFrom := some 0 } linked
    let n := withPort { s.portOf 7 with tx := [(none, flitOf tPing 1 [] [])] } linked
    s.awake ∧ s.portUp 7 = true ∧ (s.portOf 7).nakFrom = some 0 ∧ (s.portOf 7).tx = [] ∧ n.awake ∧ n.portUp 7 = true ∧ (n.portOf 7).nakFrom = some 0
      ∧ (n.portOf 7).tx ≠ [] := by unfold State.awake; decide +kernel

/-- At the boundaries: sixteen resends, 4 µs of silence; each retry at its time; the peer expected and another. -/
theorem wit_port_down : let s := withPort { resends := 16 } linked
    s.awake ∧ s.portUp 7 = true ∧ 16 ≤ (s.portOf 7).resends ∧ (linked.portOf 7).lastGood.toNat + 4000 ≤ (4000 : Dword).toNat
      ∧ ¬((linked.portOf 7).lastGood.toNat + 4000 ≤ (3999 : Dword).toNat) := by unfold State.awake; decide +kernel
theorem wit_port_retrain : let s (n : Nat) := withPort { tries := n } (linked.setFld Reg.DRT_PORT_STATUS_STATE 0 0 7)
    (s 2).awake ∧ (s 2).portState 7 = pDown ∧ (s 2).portMay 7 = true ∧ (s 2).flag Reg.DRT_PORT_STATUS_MISWIRED 0 7 = false
      ∧ ((s 1).portOf 7).downTb.toNat + 10 ^ 9 ≤ (1000000000 : Dword).toNat ∧ ((s 2).portOf 7).downTb.toNat + 10 ^ 10 ≤ (10000000000 : Dword).toNat
      ∧ ¬((s 3).portOf 7).tries < 3 := by unfold State.awake; decide +kernel
theorem wit_port_trains : let s (n : Nat) := withPort { tries := n } (linked.setFld Reg.DRT_PORT_STATUS_STATE 1 0 7)
    (s 2).awake ∧ (s 2).portState 7 = pTraining ∧ (s 2).portMay 7 = true ∧ (0 : BitVec 16).toNat = (s 2).peerDid 7 ∧ (0xFFFF : BitVec 16).toNat ≠ (s 2).peerDid 7
      ∧ ¬3 ≤ ((s 2).portOf 7).tries ∧ 3 ≤ ((s 3).portOf 7).tries := by unfold State.awake; decide +kernel

/-- The flit is the one message in the receive buffers of port 7. -/
def arrived (f : List Byte) (s : State) : State := withPort { rx := [f] } s
theorem linked_route (s : State) (dst vl : Nat) (h : s.routePort dst = some 7) (i : (s.portOf 7).tx = []) (c : 0 < s.cred 7 vl)
    (r : (s.portOf 7).sent.length < 512) : s.linkTo dst vl 7 := ⟨h, i, c, r⟩
theorem wit_ping : let f := flitOf tPing 0 [] []
    (arrived f linked).awake ∧ (arrived f linked).rxFirst 7 f [] tPing ∧ (arrived f linked).linkTo 1 3 7 :=
  ⟨rfl, ⟨rfl, by decide +kernel, by decide +kernel⟩, linked_route _ _ _ (by decide +kernel) rfl (by decide +kernel) (by decide +kernel)⟩
theorem wit_answers : (arrived (flitOf tPong 0 [] []) linked).rxFirst 7 (flitOf tPong 0 [] []) [] tPong
    ∧ (arrived (flitOf tLedgerCpl 0 [] []) linked).rxFirst 7 (flitOf tLedgerCpl 0 [] []) [] tLedgerCpl :=
  ⟨⟨rfl, by decide +kernel, by decide +kernel⟩, ⟨rfl, by decide +kernel, by decide +kernel⟩⟩
/-- Paddock 0 with DID 1 as an import source, on the linked device. -/
def far (fs : List (Nat × Nat × Nat)) : State := { pdk0 fs with tackDevice := linked.tackDevice }.setFld Reg.DRT_PORT_STATUS_STATE 2 0 7
def flitCmd : List Byte := flitOf tLedgerCmd 0 [9] (cmdEntry 2)
theorem wit_remote_command : let s := arrived flitCmd (withEntry (entry5 stQueued) (far [(261, 1, 1), (264, 2, 1)]))
    s.awake ∧ s.xtags.find? (fun x => x.1 == fSrc flitCmd && x.2.1 == leAt flitCmd 16 4) = none ∧ s.cmdCheck ((fPayload flitCmd).take 64) 0 (some 1) = none
      ∧ byteAt ((fPayload flitCmd).take 64) 0 = 2 ∧ s.routePort 1 = some 7 := by unfold State.awake; decide +kernel
theorem wit_remote_refused : let s := arrived flitCmd (withEntry (entry5 stQueued) (far []))
    s.awake ∧ s.cmdCheck ((fPayload flitCmd).take 64) 0 (some 1) = some codeTenant := by unfold State.awake; decide +kernel
theorem wit_remote_again : let s := { arrived flitCmd (far []) with xtags := [(1, 9, List.replicate 16 0)] }
    s.awake ∧ s.xtags.find? (fun x => x.1 == fSrc flitCmd && x.2.1 == leAt flitCmd 16 4) = some (1, 9, List.replicate 16 0) := by unfold State.awake; decide +kernel

/-- The descriptor of a gather of 64 bytes each from 0x1000 by 0x2000 to 0x3000, its latches 1 and 2; a group of two. -/
def coll0 : List Byte := record 0 1 [(0, 1, 0), (1, 1, 1), (2, 1, 2), (4, 4, 64), (8, 4, 0x1000), (12, 4, 0x2000), (16, 4, 0x3000)]
def grouped (rank : Nat) (r : List Round) : State := (far [(258, 1, 2), (259, 1, rank), (384, 2, rank), (386, 2, 1 - rank)]).putPdk 0 { running := true, rounds := r }
def round0 : Round := { st := 0, idx := 0, desc := coll0, openTb := 0, got := [], voted := false, votes := [], done := false }
theorem wit_round_open : let s := ((grouped 1 []).putBytes (stbKey 0 0) coll0).setLatch 0 1 true
    s.awake ∧ s.paddockOf 0 = some 0 ∧ 2 ≤ s.groupSize 0 ∧ s.groupRank 0 < s.groupSize 0 ∧ (s.pdkOf 0).running = true ∧ s.stbRead 0 0 64 = coll0
      ∧ collOk (s.groupSize 0) coll0 = true ∧ tableGoesOn (s.groupSize 0) (s.collBase 0 0) 0 coll0 ((s.pdkOf 0).rounds.filter fun y => y.st == 0) = true
      ∧ tableGoesOn 2 (some 0) 64 (coll0.set 12 0x80) [round0] = true ∧ s.latch 0 (parseColl coll0).trig = true ∧ (s.pdkOf 0).abandonAt = none ∧ State.reset.paddockOf 0 = none := by
  unfold State.awake; decide +kernel
def flitData : List Byte := flitOf tCollData 0 ([0, 0, 0, 0, 0, 0, 0, 0, 64, 0, 0, 0]) (List.replicate 64 7)
theorem wit_coll_data : let s := arrived flitData (grouped 1 [{ round0 with desc := (coll0.set 4 128) }])
    s.awake ∧ s.pdkOfGroup (leAt flitData 16 2) = some 0 ∧ collEpoch flitData = s.epochOf 0 ∧ s.openRound 0 (collRound flitData) = some { round0 with desc := (coll0.set 4 128) }
      ∧ collOk (s.groupSize 0) (coll0.set 4 128) = true ∧ s.late 0 flitData = false ∧ leAt flitData 24 4 % 64 = 0 ∧ 64 + 64 * fLines flitData ≤ 2 * 128
      ∧ 64 * (0 + fLines flitData) < (2 - 1) * 128 := by unfold State.awake; decide +kernel
theorem wit_coll_late : let s := arrived flitData ((grouped 1 []).setFld Reg.COLL_EPOCH_EPOCH 1)
    s.awake ∧ s.pdkOfGroup (leAt flitData 16 2) = some 0 ∧ s.late 0 flitData = true := by unfold State.awake; decide +kernel
/-- The last vote, at the deadline and after it; the decision of a lead. -/
theorem wit_coll_vote : let f := flitOf tCollVote 0 [0, 0, 1] []
    let s (t : Dword) := { arrived f (grouped 0 [{ round0 with votes := [0], voted := true }]) with tb := t }
    (s 0).awake ∧ (s 0).pdkOfGroup (leAt f 16 2) = some 0 ∧ collEpoch f = (s 0).epochOf 0
      ∧ (s 0).openRound 0 (collRound f) = some { round0 with votes := [0], voted := true } ∧ (s 0).groupRank 0 = 0 ∧ byteAt f 24 = 0 ∧ [0].contains (bits (byteAt f 18) 5 0) = false
      ∧ [0].length + 1 = (s 0).groupSize 0 ∧ (s 20000).tb.toNat ≤ round0.openTb.toNat + (s 20000).roundDeadline 0 round0
      ∧ ¬(s 20001).tb.toNat ≤ round0.openTb.toNat + (s 20001).roundDeadline 0 round0 := by unfold State.awake; decide +kernel
theorem wit_coll_decide : let f (d : Byte) := flitOf tCollDecide 0 [0, 0, 0, 0, 0, 0, 0, 0, d] []
    let s (d : Byte) := arrived (f d) (grouped 1 [round0])
    (s 0).awake ∧ (s 0).pdkOfGroup (leAt (f 0) 16 2) = some 0 ∧ (s 0).openRound 0 (collRound (f 0)) = some round0 ∧ byteAt (f 0) 24 = 0 ∧ byteAt (f 1) 24 ≠ 0 := by
  unfold State.awake; decide +kernel
theorem wit_deadlines : let l := grouped 0 [round0]
    let m := grouped 1 [round0]
    l.awake ∧ l.groupSize 0 ≠ 0 ∧ l.groupRank 0 = 0 ∧ m.groupRank 0 ≠ 0 ∧ (l.pdkOf 0).rounds.find? (fun y => !y.done && decide ((l.atTb 20001).tb.toNat > y.openTb.toNat + l.roundDeadline 0 y)) = some round0
      ∧ (m.atTb 40000).overdue 0 2 = some round0 ∧ (m.atTb 39999).overdue 0 2 = none ∧ l.flag Reg.COLL_STATUS_ABORT = false := by unfold State.awake; decide +kernel
/-- Part 0 of `n` of a plan that holds nothing, for step 5. -/
def flitPlan (n : Byte) : List Byte := flitOf tHinge 0 [0, 0, 0, 0, 0, 0, 0, 0, 5, 0, 0, 0, 0, 0, 0, 0, 0, n] []
theorem wit_plan_parts : let s (n : Byte) := arrived (flitPlan n) ((grouped 1 []).putPdk 0 {})
    (s 1).awake ∧ (s 1).pdkOfGroup (leAt (flitPlan 1) 16 2) = some 0 ∧ (s 1).follower 0 = true ∧ ((s 1).pdkOf 0).stop = 0 ∧ ((s 1).pdkOf 0).plan = none
      ∧ ((s 1).pdkOf 0).resetTb = none ∧ (s 1).flag Reg.PDK_TACK_WAIT_SHRINK = false ∧ ((s 1).pdkOf 0).running = false ∧ (s 1).firstStall 0 = 0 ∧ (∀ y ∈ (s 1).fns, y.2.flr = false)
      ∧ byteAt (flitPlan 1) 33 ≤ (SMap.set ((s 1).pdkOf 0).parts [] (byteAt (flitPlan 1) 32) (fPayload (flitPlan 1))).length
      ∧ ((s 2).pdkOf 0).parts.length + 1 < byteAt (flitPlan 2) 33 ∧ leAt (flitPlan 2) 24 8 = 5 ∧ linked.pdkOfGroup (leAt (flitPlan 1) 16 2) = none := by unfold State.awake; decide +kernel
theorem wit_plan_ready : (arrived (flitPlan 1) ((grouped 1 []).putPdk 0 {})).paddockReady 0 = true := ready_all _ _ (by decide +kernel)
theorem wit_part_timeout : let s := (grouped 1 []).putPdk 0 { parts := [(0, [1])], partsTb := 5 }
    s.awake ∧ s.follower 0 = true ∧ (s.pdkOf 0).parts ≠ [] ∧ (s.pdkOf 0).partsTb.toNat + 2000 * 20 ≤ (40005 : Dword).toNat ∧ byteAt (s.sect 0) 260 = 0 := by
  unfold State.awake; decide +kernel

/-! ### Import and export -/

def flitImport : List Byte := flitOf tImportWr 0 (leBytes 5 2 ++ List.replicate 6 0 ++ leBytes 77 8 ++ leBytes 0 5 ++ [0, 0, 0] ++ leBytes 3 4) (List.replicate 64 7)
/-- Entry 5 in import: its root table at 0x1200 and one leaf table at 0x2000 of the table region; its page is striped over channels 0 to 15, which
stall 0 owns, at 0 of each. -/
def importing : State :=
  (((List.range 16).foldl (fun s k => s.wr Reg.GPORT_MAP (0x80000000 + k) 0 k)
    (withEntry { entry5 stPrompt with imported := true, lPrompt := 64, root := 0x1200 } (far [(8, 8, 0x1000), (16, 3, 1), (261, 1, 1), (264, 2, 1)]))).putBytes
      (dramKey 18 0) (leBytes 0x2001 8)).putBytes (dramKey 32 0) (leBytes 5 16)
theorem wit_import_refused_ready : (arrived flitImport (far [])).paddockReady 0 = true := ready_all _ _ (by decide +kernel)
theorem wit_import_refused : let s := arrived flitImport (far [])
    s.awake ∧ s.firstStall (s.entryOf (leAt flitImport 16 2)).paddock = 0 ∧ (s.entryOf (leAt flitImport 16 2)).state ≠ stPrompt ∧ s.routePort (fSrc flitImport) = some 7 ∧ fType flitImport = tImportWr ∧ flitImport.length = 256 := by
  unfold State.awake; decide +kernel
def page0 : KvPage := ⟨true, false, 0, 0, 0, 0⟩
def importTaken : State := ((arrived flitImport importing).putPort 7 { (arrived flitImport importing).portOf 7 with rx := [] }).owe 7 (fVl flitImport)
theorem takeRx_one (s : State) (k : Nat) (f : List Byte) (c : List Byte → Bool) (h : (s.portOf k).rx = [f]) (hc : c f = true) :
    s.takeRx k c = some (f, (s.putPort k { s.portOf k with rx := [] }).owe k (fVl f)) := by
  simp [State.takeRx, h, rxHeads, List.find?, hc]
theorem wit_import : (let s := arrived flitImport importing
      s.takeRx 7 (fun y => fType y == tImportWr && s.paddockReady (s.firstStall (s.entryOf (leAt y 16 2)).paddock)) = some (flitImport, importTaken))
    ∧ importTaken.routePort 1 = some 7
    ∧ (match (importTaken.mmuWalk 0 false 0x1200 0).2 with | .ok p => p = page0 | .error _ => False)
    ∧ (importTaken.mmuWalk 0 false 0x1200 0).1.pageLine page0 0 = .dram 0 0 ∧ (importTaken.mmuWalk 0 false 0x1200 0).1.granuleOpen 0 0 = false := by
  refine ⟨takeRx_one _ _ _ _ rfl ?_, by decide +kernel, ?_, by decide +kernel, by decide +kernel⟩
  · have t : (fType flitImport == tImportWr) = true := by decide +kernel
    rw [t, Bool.true_and]
    exact ready_all _ _ (by decide +kernel)
  · have h : (importTaken.mmuWalk 0 false 0x1200 0).2.toOption = some page0 := by decide +kernel
    revert h; cases (importTaken.mmuWalk 0 false 0x1200 0).2 <;> simp [Except.toOption]
theorem wit_import_entry : let s := arrived flitImport importing
    let e := s.entryOf (leAt flitImport 16 2)
    s.awake ∧ e.state = stPrompt ∧ e.imported = true ∧ e.importDone = false ∧ e.hostTag.toNat = leAt flitImport 24 8 ∧ (s.importSources e.paddock).contains 1 = true
      ∧ bits (leAt flitImport 32 5 % 2 ^ 32 * 64) 29 16 < (e.lPrompt + 63) / 64 ∧ bit (byteAt flitImport 37) 0 = false ∧ fLines flitImport = 1
      ∧ s.firstStall e.paddock = 0 := by unfold State.awake; decide +kernel
/-- ATTN of one query row at the first position of that entry, its length table at the start of the buffer: OUT in FP32; a NODE record with a status
byte. -/
def cAttnNode : WinCmd := command opAttn 7 [(36, 1, 0x80), (64, 2, 1), (69, 1, 1), (70, 1, 1), (160, 3, 0x1000), (164, 1, 0x80), (165, 1, 2), (290, 1, 1),
  (320, 3, 0x2000), (324, 1, 0x80), (325, 1, 8), (352, 3, 0x3000), (356, 1, 0x80), (384, 3, 0x100000), (387, 1, 0xFF)]
def attending (w : WinCmd) : State :=
  { importing with dsp := [(0, { running := [w] })] }.putBytes (stbKey 0 0) (leBytes 0x1200 8 ++ leBytes 1 4 ++ leBytes 1 2 ++ leBytes 5 2)
theorem wit_attn_row : let s (w : WinCmd) := attending w
    let c (w : WinCmd) := parseAttn w.record
    let e (w : WinCmd) := parseLt (((s w).stepTable 0 (c w).lt.loc false).stbRead 0 (c w).lt.loc 32)
    let walk (w : WinCmd) := (s w).walkPages 0 (c w) (e w) ((List.range (((e w).l + 63) / 64)).filter fun p => (c w).covers (e w) (64 * p))
    ∀ w ∈ [cAttn 1, cAttnNode], (s w).awake ∧ (s w).runningCmd 0 1 opAttn = some w ∧ verdict (checkAttn 0 (s w) w) = 2 ∧ (c w).nseq = 1 ∧ (c w).qlatch = 0xFF
      ∧ ltGood (c w) (e w) = true ∧ (e w).qrows = 1 ∧ (c w).newK.present = false ∧ (walk w).2.toOption.map List.length = some 1
      ∧ attnRows (c w) (e w) = [(0, 0, 0)] ∧ meets (outSpan (c w) (e w) (0, 0, 0)) (rstatSpan (c w) (e w) (0, 0, 0)) = false
      ∧ (c w).node = (c w).rstat.present ∧ ((c w).node = true ∨ (c w).out.fmt = 8) := by unfold State.awake; decide +kernel
theorem wit_attn_ready (w : WinCmd) (h : w ∈ [cAttn 1, cAttnNode]) : (attending w).paddockReady 0 = true := ready_all _ _ (by revert w; decide +kernel)

/-- The export of entry 5 to DID 1, 64 positions of one layer-group. -/
def exp0 : List Byte := record 1 1 [(0, 2, 1), (2, 2, 5), (8, 8, 77), (16, 8, 0x1200), (32, 4, 64), (36, 1, 1)]
def write0 (n : Nat) : ExpWrite := ⟨342, 5, n, mkFlit tImportWr 1 0 1 [] []⟩
def exporting (ready : Bool) (n : Nat) : State := { linked with exp := { cur := some exp0, ready := ready, writes := [write0 n], next := 343 } }
theorem wit_import_ready : let f := flitOf tImportReady 0 (leBytes 5 2 ++ List.replicate 6 0 ++ leBytes 77 8) []
    let s := { (arrived f linked).wr Reg.DRT_PORT_CRED 0 0 7 with exp := { cur := some exp0 } }
    s.awake ∧ fType f = tImportReady ∧ f.length = 256 ∧ s.exp.next < expTotal exp0 ∧ s.expRoom (leAt exp0 0 2) = false ∧ (arrived f linked).exp.cur = none
      ∧ (leAt exp0 0 2, leAt exp0 2 2, leAt exp0 8 8) = (fSrc f, leAt f 16 2, leAt f 24 8) ∧ s.routePort 1 = some 7 := by unfold State.awake; decide +kernel
theorem wit_import_ack : let f (st : Nat) := flitOf tImportAck 0 (leBytes 5 2 ++ List.replicate 6 0 ++ leBytes 77 8) ((List.replicate 8 (leBytes 342 4 ++ leBytes st 4)).flatten)
    let s := arrived (f 1) (exporting true 0)
    s.awake ∧ fType (f 1) = tImportAck ∧ s.exp.cur = some exp0 ∧ leAt (f 1) 16 2 = leAt exp0 2 2 ∧ leAt (f 1) 24 8 = leAt exp0 8 8 ∧ fLines (f 1) = 1
      ∧ (∀ i, i < 8 → leAt (fPayload (f 1)) (8 * i) 4 = (write0 0).wseq → leAt (fPayload (f 1)) (8 * i + 4) 4 = leAt (fPayload (f 1)) 4 4)
      ∧ leAt (fPayload (f 1)) 0 4 = (write0 0).wseq ∧ leAt (fPayload (f 1)) 4 4 ≠ 0 ∧ leAt (fPayload (f 0)) 4 4 = 0 ∧ expTotal exp0 = s.exp.next ∧ s.exp.ready = true := by
  unfold State.awake; decide +kernel
theorem wit_export_push : let s := { linked with exp := { cur := some exp0, queue := List.replicate 15 (false, 0) } }
    let e := linked.putBytes (stbKey 0 0xFFFFC0) exp0
    s.awake ∧ s.exp.queue.length < 16 ∧ s.exp.cur = some exp0 ∧ s.exp.ready = false ∧ ¬(List.replicate 16 (false, 0)).length < 16
      ∧ e.stallUp 0 = true ∧ e.exp.cur = none ∧ e.exp.queue = [] ∧ bits (2 ^ 40 + 0xFFFFC0) 47 6 * 64 = 2 ^ 40 + 0 * 2 ^ 24 + 0xFFFFC0 ∧ e.stbRead 0 0xFFFFC0 64 = exp0
      ∧ e.exp.readies = [] ∧ expDescOk exp0 = true ∧ expDescOk (linked.stbRead 0 0xFFFFC0 64) = false := by unfold State.awake; decide +kernel
theorem wit_export_resend : let s := exporting true 7
    s.awake ∧ s.exp.cur = some exp0 ∧ s.exp.writes = [write0 7] ∧ s.exp.queue = [] ∧ expTotal exp0 ≤ s.exp.next ∧ (write0 7).tb.toNat + 100000 ≤ (s.atTb 100005).tb.toNat
      ∧ ¬8 ≤ (write0 7).resends ∧ 8 ≤ (write0 8).resends ∧ s.routePort (fDst (write0 7).body) = some 7 ∧ 0 < s.cred 7 (fVl (write0 7).body) ∧ (write0 7).body.length = 256 := by
  unfold State.awake; decide +kernel
theorem wit_export_timeout : let s := exporting false 0
    s.awake ∧ s.exp.ready = false ∧ s.exp.tb.toNat + 10 ^ 9 ≤ (1000000000 : Dword).toNat ∧ linked.exp.cur = none := by unfold State.awake; decide +kernel

/-! ### Tack commands, boot, resets and power-down -/

theorem wit_boot : let s := State.reset
    s.awake ∧ s.board.cold = false ∧ s.board.bootDue = true ∧ allZero s.board.keyHash = true ∧ up.board.bootDue = false
      ∧ ({ s with board := { s.board with cold := true } } : State).board.cold = true := by unfold State.awake; decide
theorem wit_device_reset : up.awake ∧ up.booted = true ∧ up.board.downTb = none ∧ State.reset.booted = false ∧ State.reset.shut = false
    ∧ ([5, 6, 7] : List (BitVec 4)).all (fun c => c == 5 || c == 6 || c == 7) = true ∧ (4 : BitVec 4) ≠ 5 ∧ (8 : BitVec 4) ≠ 7 := by unfold State.awake; decide
theorem wit_paddock_reset : let s := (pdk0 []).putPdk 0 { running := true, resets := 2 }
    let r := s.putPdk 0 { resetTb := some 7 }
    s.awake ∧ s.pdkOn 0 = true ∧ (s.pdkOf 0).resetTb = none ∧ s.pdkStalls 0 = [0] ∧ State.reset.pdkOn 0 = false ∧ (r.pdkOf 0).resetTb ≠ none
      ∧ (r.pdkOf 0).heldCmd = 0 ∧ r.pdkStalls 0 = [0] ∧ bit (1 : BitVec 16).toNat 0 = true ∧ r.sagNow = false ∧ r.stallUp 0 = true
      ∧ r.flag Reg.SCC_STATUS_RUNNING 0 = false ∧ (r.sccOf 0).halting = false := by unfold State.awake; decide +kernel
theorem wit_stall_reset : let s := pdk0 []
    let o := State.reset.wr Reg.MAP_STALL 0x8000
    s.awake ∧ o.stallUp 15 = false ∧ s.stallUp 15 = true ∧ s.paddockOf 15 = none ∧ s.stallUp 0 = true ∧ s.paddockOf 0 = some 0 ∧ s.pdkOn 0 = true
      ∧ (s.pdkOf 0).resetTb = none := by unfold State.awake; decide +kernel

/-- A booted part in service, with no firmware running but the boot ROM, and in maintenance mode. -/
def served : State := up.setFld Reg.TACK_STATUS_STATE 2
def romAlone : State := { up with board := { up.board with romOnly := true } }
def mended : State := up.setFld Reg.TACK_STATUS_STATE 3
/-- `n` bytes are staged, from the start of STB of stall 15. -/
def stage (n : Nat) (s : State) : State := (s.setFld Reg.TACK_STAGE_ADDR ((2 ^ 40 + 15 * 2 ^ 24) / 64)).setFld Reg.TACK_STAGE_LEN_LEN n
def low (s : State) : State := s.setFlag Reg.SAG_STATUS_AUX_LOW
def tackArg (slot region : Nat) (s : State) : State := s.setFld Reg.TACK_CMD_TACK_ARG (slot + 2 * region)
theorem wit_tack_refused : let e := (withEntry (entry5 stQueued) (pdk0 []))
    let b := { e with board := up.board }
    b.awake ∧ b.booted = true ∧ State.reset.booted = false ∧ romAlone.board.romOnly = true ∧ b.board.romOnly = false ∧ b.maintenance = false
      ∧ (5, entry5 stQueued) ∈ b.ledger ∧ (entry5 stQueued).state ≠ stFree ∧ up.startup = true ∧ up.pdkOn (up.fld Reg.TACK_CMD_PADDOCK) = false
      ∧ b.pdkOn (b.fld Reg.TACK_CMD_PADDOCK) = true ∧ b.allFree (b.fld Reg.TACK_CMD_PADDOCK) = false ∧ (b.pdkOf 0).resetTb = none
      ∧ up.flag Reg.PDK_TACK_WAIT_SHRINK 0 (up.fld Reg.TACK_CMD_PADDOCK) = false ∧ up.maintenance = false
      ∧ 1 < bits ((tackArg 1 7 up).fld Reg.TACK_CMD_TACK_ARG) 3 1 ∧ (low up).sagNow = true ∧ (low mended).sagNow = true ∧ mended.maintenance = true := by
  unfold State.awake; decide +kernel
/-- The stage begins in no memory: at 2^47, and the first byte past the last stall's STB. -/
theorem wit_unstaged : ((stage 64 served).setFld Reg.TACK_STAGE_ADDR (2 ^ 41)).staged = none ∧ served.board.romOnly = false ∧ served.maintenance = false
    ∧ served.ledger = [] ∧ served.startup = false := by decide +kernel
theorem wit_staged_bad : (stage 0 served).staged = some (stage 0 served, []) ∧ parseImage [] = none ∧ served.sagNow = false
    ∧ ([] : List Byte).length ≤ slotSize (bits (served.fld Reg.TACK_CMD_TACK_ARG) 3 1) := by refine ⟨?_, by decide, by decide, by decide⟩; rfl
theorem wit_flash : let s := tackArg 1 1 (stage 64 served)
    ((s.putBytes (stbKey 15 0) (List.replicate 64 7)).staged.map fun x => x.2) = some (List.replicate 64 7) ∧ s.booted = true
      ∧ bits (s.fld Reg.TACK_CMD_TACK_ARG) 0 0 = 1 ∧ bits (s.fld Reg.TACK_CMD_TACK_ARG) 3 1 = 1 ∧ s.sagNow = false ∧ (low s).sagNow = true
      ∧ 64 ≤ slotSize 1 ∧ s.stallUp 15 = true ∧ s.stageView = false ∧ s.stageAddr = 2 ^ 40 + (15 : Stall).val * 2 ^ 24 + 0 ∧ 0 + s.stageLen ≤ stbSize
      ∧ s.stageLen % 64 = 0 ∧ 64 * s.fld Reg.TACK_FLASH_OFS_OFFSET + s.stageLen ≤ 2 ^ 26 ∧ ¬(stage 48 s).stageLen % 64 = 0
      ∧ ¬64 * (s.setFld Reg.TACK_FLASH_OFS_OFFSET (2 ^ 20 - 1)).fld Reg.TACK_FLASH_OFS_OFFSET + 128 ≤ 2 ^ 26 := by decide +kernel
theorem wit_key_prog : let s := (stage 48 mended).putBytes (stbKey 15 0) (List.replicate 48 9)
    s.maintenance = true ∧ allZero s.board.keyHash = true ∧ s.stageLen = 48 ∧ (s.staged.map fun x => x.2) = some (List.replicate 48 9)
      ∧ allZero (List.replicate 48 9) = false ∧ ((stage 48 mended).staged.map fun x => x.2) = some (List.replicate 48 0)
      ∧ allZero (List.replicate 48 0) = true ∧ (stage 47 mended).stageLen ≠ 48 := by decide +kernel
theorem wit_unload : let s := { pdk0 [] with board := up.board }
    let w := s.setFlag Reg.PDK_TACK_WAIT_SHRINK
    s.booted = true ∧ s.pdkOn (s.fld Reg.TACK_CMD_PADDOCK) = true ∧ s.allFree (s.fld Reg.TACK_CMD_PADDOCK) = true ∧ s.pdkStalls 0 = [0]
      ∧ w.flag Reg.PDK_TACK_WAIT_SHRINK 0 (w.fld Reg.TACK_CMD_PADDOCK) = true := by decide +kernel

/-- At the 2 ms and just before. -/
theorem wit_power_down : let s := { pdk0 [] with board := up.board }
    let b := s.putPdk 0 { running := true }
    let u := { s with tb := 400000 }
    s.awake ∧ s.booted = true ∧ s.board.downTb = none ∧ (b.pdkOf 0).running = true ∧ (∀ x ∈ s.pdks, x.2.running = false)
      ∧ (∀ st, st < 16 → s.flag Reg.SCC_STATUS_RUNNING st = false) ∧ s.dma = [] ∧ s.board.persist = [] ∧ s.pdkOn 0 = true ∧ s.fld Reg.PDK_STATUS_STATE 0 0 ≠ 3
      ∧ u.smbUp = true ∧ ({ s with tb := 399999 } : State).smbUp = false ∧ (5 : Dword).toNat + 2000000 ≤ (2000005 : Dword).toNat
      ∧ ¬(5 : Dword).toNat + 2000000 ≤ (2000004 : Dword).toNat ∧ (0xA4 : Byte) ≠ 0xA5 := by unfold State.awake; decide +kernel

/-! ### Power, supply and the fault log -/

/-- The limit is 900 W: just over it, at it, at 95 % and just below. -/
theorem wit_power : let s (n calm : Nat) := { State.reset.setFld Reg.PWR_STATUS_LEVEL n with board := { State.reset.board with pwrLimit := 900, calm := calm } }.setFld Reg.PWR_CTRL_LIMIT 900
    (s 3 9).awake ∧ (s 3 9).flag Reg.THERM_STATUS_TRIP = false ∧ ((s 3 9).setFlag Reg.THERM_STATUS_TRIP).flag Reg.THERM_STATUS_TRIP = true
      ∧ (s 3 9).powerLimit = 900 ∧ 900 < (901 : BitVec 16).toNat ∧ ¬900 < (900 : BitVec 16).toNat ∧ (s 3 9).fld Reg.PWR_STATUS_LEVEL = 3
      ∧ (854 : BitVec 16).toNat * 100 < 900 * 95 ∧ ¬(855 : BitVec 16).toNat * 100 < 900 * 95 ∧ 10 ≤ (s 3 9).board.calm + 1 ∧ ¬10 ≤ (s 3 8).board.calm + 1
      ∧ 200 ≤ (200 : BitVec 12).toNat ∧ (900 : BitVec 12).toNat ≤ (s 3 9).board.pwrLimit ∧ ¬(901 : BitVec 12).toNat ≤ (s 3 9).board.pwrLimit := by
  unfold State.awake; decide +kernel
theorem wit_rails : let s := State.reset
    s.awake ∧ s.board.silentRails.contains (8 : Fin 9).val = false ∧ s.fltQueue.length ≤ 247
      ∧ (List.replicate 8 (some (0 : BitVec 16)) ++ [some 1])[8]? = some (some 1) ∧ (([] : List (Option (BitVec 16)))[8]?).getD none = none
      ∧ 8 ∉ s.board.silentRails ∧ (∀ r, r < 9 → (List.replicate 9 (some (0 : BitVec 16)))[r]? = some (some 0)) ∧ (24 : Fin 25).val - 17 < s.nStack ∧ (15 : Fin 25).val < s.nStall
      ∧ ({ s with board := { s.board with silentRails := [8] } } : State).board.silentRails.contains (8 : Fin 9).val = true
      ∧ ¬(15 : Fin 25).val < ({ s with part := { x8 := false } } : State).nStall := by unfold State.awake; decide
def event0 : FltEvent := ⟨0, 0, 0x14, 8, 0, 0, false⟩
/-- The log with one entry free, and full; the copy with one entry free, and full. -/
theorem wit_fault_log : let s (n : Nat) := { State.reset with fltQueue := [event0] }.wr Reg.FLT_HEAD n
    (s 1023).awake ∧ (s 1023).fltQueue = [event0] ∧ (s 1023).fltUsed < 1024 ∧ ¬(s 1024).fltUsed < 1024 ∧ State.reset.fltQueue = []
      ∧ ((1024 : Word) - BitVec.ofNat 32 ((s 1024).rd Reg.FLT_TAIL)).toNat ≤ (s 1024).fltUsed
      ∧ ¬((1025 : Word) - BitVec.ofNat 32 ((s 1024).rd Reg.FLT_TAIL)).toNat ≤ (s 1024).fltUsed
      ∧ (State.reset.wr Reg.FLT_PERSIST_CNT 255).persistUsed < 256 ∧ ¬(State.reset.wr Reg.FLT_PERSIST_CNT 256).persistUsed < 256 := by
  unfold State.awake; decide +kernel
/-- A page of eight entries, the last of the copy; one entry 100 ms old, and just before. -/
theorem wit_persist : let s (n : Nat) := { State.reset with board := { State.reset.board with persist := List.replicate n (List.replicate 32 7), persistTb := 5 } }.wr Reg.FLT_PERSIST_CNT 248
    (s 8).awake ∧ (s 8).sagNow = false ∧ 8 ≤ (s 8).board.persist.length ∧ (s 8).fld Reg.FLT_PERSIST_CNT_COUNT + ((s 8).board.persist.take (8 - (s 8).fld Reg.FLT_PERSIST_CNT_COUNT % 8)).length + (s 8).board.persistGone = 256
      ∧ (s 1).board.persist ≠ [] ∧ (s 1).board.persistTb.toNat + 100000000 ≤ (100000005 : Dword).toNat
      ∧ ¬(s 1).board.persistTb.toNat + 100000000 ≤ (100000004 : Dword).toNat := by unfold State.awake; decide +kernel
theorem wit_sag : let s := { low State.reset with mapRetry := [(1, 3)], repairRetry := [(0, 1, 2)] }
    s.awake ∧ (1, 3) ∈ s.mapRetry ∧ s.sagNow = true ∧ s.fltQueue.length < 256 := by unfold State.awake; decide +kernel

/-! ### Pins, SMBus and JTAG -/

/-- The last of the three conditions of the end of cold reset is still open. -/
theorem wit_cold_reset : let s (g r c : Bool) := { State.reset with board := { State.reset.board with cold := true, pwrgd := g, perst := r, refPcie := c } }
    (s false false true).board.cold = true ∧ (!(s false false true).board.perst && (s false false true).board.refPcie) = true
      ∧ ((s true true true).board.pwrgd && (s true true true).board.refPcie) = true ∧ ((s true false false).board.pwrgd && !(s true false false).board.perst) = true
      ∧ State.reset.board.pwrgd = true ∧ State.reset.board.perst = false ∧ (s true true true).board.perst = true ∧ (s false false true).board.pwrgd = false := by decide
theorem wit_jtag : let s := { State.reset with board := { State.reset.board with cold := true, perst := true } }
    s.board.cold = true ∧ s.board.pwrgd = true ∧ s.board.perst = true ∧ State.reset.board.cold = false ∧ ({ State.reset with tb := 400000 } : State).smbUp = true
      ∧ State.reset.smbUp = false := by decide

/-! ### The whole block -/

theorem wit_reset_memory : State.reset.memOk := by unfold State.memOk; decide
theorem wit_step : State.reset.pending = [] ∧ ({ State.reset with pending := [.idcode] } : State).pending = .idcode :: [] := by decide
/-- The step of the second state answers a next state, whose memory holds a byte. -/
theorem wit_memory : let s := { desc0 streamIn with pending := [.idcode] }
    s.memOk ∧ s.mem ≠ [] := by unfold State.memOk; decide +kernel
theorem wit_shut : let s := State.reset.setFlag Reg.BOOT_STATUS_POWERDOWN_READY
    s.shut = true ∧ s.board.cold = false ∧ Instr.idcode ∉ [Instr.pwrgdRise, .pwrgdFall, .perstAssert, .perstDeassert, .refclkPcieLoss, .refclkPcieReturn, .refclkDrtLoss, .refclkDrtReturn] := by
  decide

/-! ### Witnesses of single clauses -/

theorem wit_comparisons : f32IsNan 0x7FC00000 = true ∧ f32IsNan 0xFF800001 = true ∧ f32IsNan 0x7F800000 = false := by decide
theorem wit_repair_requesters : mended.awake ∧ mended.maintenance = true ∧ up.maintenance = false ∧ (Requester.fn 0) ≠ .ostler
    ∧ mended.repairArg.q < mended.nChan ∧ mended.repairArg.row < 24576 := by unfold State.awake; decide
/-- The values a register write may give a tenant's budget: bit 31 does not stay. -/
theorem wit_budget_write : up.reaches (.fn 0) = true ∧ (0xFFFFFFFF : Dword).toNat % 2 ^ 31 = 0x7FFFFFFF := by decide

/-- The size of a float in units of 2^−150, as the statement of F2I takes it: a tie, the largest value in range, and the ends just out of it. -/
def floatSize (x : Word) : Nat :=
  (x.toNat % 2 ^ 23 + if x.toNat / 2 ^ 23 % 2 ^ 8 = 0 then 0 else 2 ^ 23) * 2 ^ max (x.toNat / 2 ^ 23 % 2 ^ 8) 1
theorem wit_float_finite : let s := core { gpr := [(1, 0x40200000)] }
    s.sccGo 0 kPlain ∧ (s.xreg 0 1).setWidth 32 = 0x40200000#32 ∧ (0x40200000#32).toNat / 2 ^ 23 % 2 ^ 8 ≠ 255 := by unfold State.sccGo State.awake; decide
theorem wit_float_sizes : floatSize 0x40200000#32 < 2 ^ 181 ∧ floatSize 0x4EFFFFFF#32 < 2 ^ 181 ∧ floatSize 0x80000001#32 < 2 ^ 181
    ∧ 2 ^ 181 ≤ floatSize 0x4F000000#32 ∧ 2 ^ 181 ≤ floatSize 0xCF000000#32 := by decide +kernel
theorem wit_float_negative : let s := core { gpr := [(1, 0xBF800000), (2, 0xC0000000)] }
    s.sccGo 0 kPlain ∧ f32IsNan ((s.xreg 0 1).setWidth 32) = false ∧ f32IsNan ((s.xreg 0 2).setWidth 32) = false ∧ ((s.xreg 0 2).setWidth 32).msb = true := by
  unfold State.sccGo State.awake; decide
/-- An odd address, and a tenant's access one byte and eight below its base. -/
theorem wit_dmem_misaligned : let s := core { gpr := [(1, dmem0)] }
    s.sccGo 0 kPlain ∧ s.xreg 0 1 + 0xFFFF = BitVec.ofNat 64 (2 ^ 63 + 0xFFFF) ∧ s.dmemMay 0 0xFFFF = true ∧ ¬0xFFFF % 2 = 0 ∧ ¬0xFFFF % 8 = 0
      ∧ (s.sccOf 0).stores = [] ∧ (s.sccOf 0).inTrap = false := by unfold State.sccGo State.awake; decide
theorem wit_dmem_barred : let s := (tenant { gpr := [(1, dmem0)] }).setFld Reg.SCC_TEN_BASE_DBASE 16
    s.sccGo 0 kPlain ∧ s.sup 0 = false ∧ 63 < 4 * s.fld Reg.SCC_TEN_BASE_DBASE 0 ∧ 56 < 4 * s.fld Reg.SCC_TEN_BASE_DBASE 0 ∧ 56 % 8 = 0
      ∧ s.xreg 0 1 + 56 = BitVec.ofNat 64 (2 ^ 63 + 56) ∧ (s.sccOf 0).stores = [] ∧ (s.sccOf 0).inTrap = false := by
  unfold State.sccGo State.awake; decide

/-- The second halt within 1 s leaves the stall, the third one takes it out of its paddock. -/
theorem wit_fatal_third : let f (n : Nat) : State :=
      let s := { (pdk0 []).setFlag Reg.SCC_STATUS_RUNNING with scc := [(0, { inTrap := true })] }
      { s with tb := 1000000004, board := { s.board with fatals := List.replicate n (0, 5) } }
    (f 2).sccGo 0 kCtl ∧ ((f 2).sccOf 0).inTrap = true ∧ ((f 2).sccOf 0).stores = [] ∧ (f 2).sagNow = false ∧ (f 2).paddockOf 0 = some 0
      ∧ ¬((f 2).board.fatals.filter fun x => x.1 == 0 && decide ((f 2).tb.toNat < x.2.toNat + 1000000000)).length < 2
      ∧ ((f 1).board.fatals.filter fun x => x.1 == 0 && decide ((f 1).tb.toNat < x.2.toNat + 1000000000)).length < 2 := by
  unfold State.sccGo State.awake; decide +kernel
/-- A rejected command accepted before them holds back STEP_END, and LATCH_ARM where it names a masked latch. -/
theorem wit_held_earlier : let h := parseRecord 0 (record opHist 1 [(1, 1, 0x10), (2, 1, 255)]) false
    let s := { State.reset with dsp := [(0, { running := [command opStepEnd 1 []], held := some h })] }
    let a := { State.reset with dsp := [(0, { running := [cLatchArm], held := some h })] }
    s.engineHas 0 1 opStepEnd (command opStepEnd 1 []) ∧ (s.dspOf 0).earlier 1 = [h] ∧ a.engineHas 0 1 opLatchArm cLatchArm
      ∧ ((a.dspOf 0).earlier 1).any (fun x => x.touches 0 (2 ^ 255 + 1)) = true :=
  ⟨⟨rfl, by decide +kernel, by decide +kernel⟩, by decide +kernel, ⟨rfl, by decide +kernel, by decide +kernel⟩, by decide +kernel⟩
/-- The rejected LATCH_REL with REL_EN set. -/
theorem wit_skip_released : (command opLatchRel 1 [(1, 1, 0x80), (6, 1, 255)]).relEn = true ∧ (pdk0 []).samePaddock 0 0 = true := by decide +kernel
/-- What the preload asks: nothing but the weight path holds the instruction back. -/
theorem wit_preload_free : let s := { State.reset with dsp := [(0, { running := [cLatchRel, { cMmul 1 with seq := 0, ok := true }], window := [cMmul 1] })] }
    s.preloadFree 0 (cMmul 1) = true ∧ (parseMmul (cMmul 1).record).a.noSlots = false ∧ (∀ x ∈ ([] : List WinCmd), x.op ≠ opMmul)
      ∧ { s with dsp := [(0, { window := [cMmul 1], held := some cLatchRel })] }.preloadFree 0 (cMmul 1) = true := by decide +kernel

/-- VCHAIN of no rows into a summary slot; VCHAIN that stores and reduces nothing; one that only reduces. -/
theorem wit_vchain_zero : let w := command opVchain 7 [(32, 3, 0x1000), (36, 1, 0x80), (37, 1, 8), (66, 2, 2), (68, 1, 1), (69, 1, 4), (70, 1, 1),
      (192, 4, 0x40000000), (200, 1, 1), (224, 3, 0x2000), (228, 1, 0x80), (229, 1, 8), (385, 1, 7)]
    met w opVchain (checkVchain 0) 2 ∧ (parseVchain w.record).rows = 0 ∧ (parseVchain w.record).summ = 7 := by unfold met State.awake; decide +kernel
theorem wit_vchain_writes : let v := parseVchain cVchain.record
    let w := command opVchain 7 [(32, 3, 0x1000), (36, 1, 0x80), (37, 1, 8), (64, 2, 1), (66, 2, 2), (68, 1, 1), (69, 1, 4), (70, 1, 1),
      (192, 4, 0x40000000), (256, 1, 1), (258, 1, 1), (288, 3, 0x3000), (292, 1, 0x80), (293, 1, 8), (385, 1, 0xF)]
    let r := parseVchain w.record
    v.redWrites = false ∧ v.store.present = true ∧ v.store.kind = 0 ∧ (∀ d ∈ v.src :: v.store :: v.allOperands.map (·.2), d.kind ≠ 3)
      ∧ met w opVchain (checkVchain 0) 2 ∧ r.store.present = false ∧ r.red.ridx.present = false ∧ r.redWrites = true
      ∧ (∀ d ∈ r.src :: r.store :: r.allOperands.map (·.2), d.kind ≠ 3) := by unfold met State.awake; decide +kernel
/-- A stored block of 8,192 zero codes of `tblImage`, on a part without the CRC. -/
def block0 : List Byte := [0xFF, 0x43, 4, 0] ++ List.replicate 1084 0
def table1 : CodeTable := ⟨4, 1, [1, 1] ++ List.replicate 14 0⟩
theorem wit_code : parseTable (tblImage ++ List.replicate 46 0) = some table1 ∧ 1 < table1.lens.length ∧ table1.lens.getD 1 0 ≠ 0 := by decide +kernel
theorem wit_raw_block : let b : List Byte := [0xFF, 0x47, 0, 0] ++ List.replicate 4156 0
    fmtCodable 4 = true ∧ b.length = 4160 ∧ leAt b 0 2 = 1023 % 1024 + 2 ^ 10 + 4 * 2 ^ 12 ∧ byteAt b 2 = 0 ∧ byteAt b 3 = 0 ∧ leAt b 4 4 = 0
      ∧ fmtBits 4 = 4 := by decide +kernel
/-- A matrix product of two such blocks at 0x1000, their sizes at 0x8000. -/
def cMmulBlocks : WinCmd := command opMmul 2 [(19, 2, 1), (22, 2, 1), (24, 3, 1), (36, 1, 0x80), (37, 1, 2), (64, 3, 0x1000), (68, 1, 0x88), (69, 1, 4),
  (72, 3, 0x8000), (76, 2, 1023)]
def blocksState : State :=
  (({ busy cMmulBlocks with part := { x8 := false }, tables := [(1023, some table1)] }.putBytes (stbKey 0 0x8000) [17, 17]).putBytes (stbKey 0 0x1000)
    [0xFF, 0x43, 4]).putBytes (stbKey 0 0x1440) [0xFF, 0x43, 4]
theorem wit_matrix_compressed : let c := parseMmul cMmulBlocks.record
    let s := blocksState
    s.awake ∧ s.runningCmd 0 1 opMmul = some cMmulBlocks ∧ verdict (checkMmul 0 s cMmulBlocks) = 2 ∧ s.mmulWaits 0 1 = false ∧ c.w.comp = true
      ∧ c.a.kind = 0 ∧ c.w.kind = 0 ∧ SMap.get s.tables none (1024 * 0 + c.w.tableId) = some table1 ∧ c.blockCount = 2 ∧ 0 < c.m ∧ 0 < c.n
      ∧ s.spanPoison 0 c.w.loc (s.weightSpan 0 c) = false := by unfold State.awake; decide +kernel
theorem wit_matrix_block : (decodeBlock blocksState.crc 4 1023 table1 block0).cause = 0 := by decide +kernel
theorem wit_matrix_stored (k : Nat) (h : k = 0x1000 ∨ k = 0x1440) : blocksState.stbRead 0 k 1088 = block0 := by
  rcases h with h | h <;> subst h <;> decide +kernel
/-- A compressed column of one block, read whole in one row of the bank. -/
theorem wit_gmul_compressed : let f := { gmul1 1 4 with comp := true, blist := 0x5800 }
    let s := (({ groomState { run := some seq0, codeLen := 64, tables := [(0, some (1023, table1))] } with part := { x8 := false }, granules := [(0, 1)] } : State).putBytes
      (grmScratchKey 0 0x1800) [17]).putBytes (dramKey 0 0) block0
    let g : GmulAt := { args := f, sizes := s.blistSizes 0 f, table := s.ctxTable 0 0 f.slot }
    s.gmulCheck 0 seq0 f = none ∧ f.nc ≠ 0 ∧ f.kTotal ≠ 0 ∧ s.paused 0 = false ∧ gmNext f g.total 0 = g.total ∧ g.total = 1088
      ∧ (∀ v ∈ gmulBlocks s.crc 4 (1023, table1) g.sizes (s.bytes (dramKey 0 0) 1088), v.cause = 0)
      ∧ s.scratchBad 0 (f.blist.toNat - 0x4000) (gmBlocks f) = false := by decide +kernel

def goNext : GoSnap := ⟨0, 7, []⟩
/-- No context but 0 holds a GO or drains. -/
theorem ctx_alone (s : State) (c : GCtx) (h : s.gctx = [(0, c)]) (k : Nat) (n : k ≠ 0) :
    (s.ctxOf k).pend = none ∧ (s.ctxOf k).held = none ∧ (s.ctxOf k).draining = false := by
  unfold State.ctxOf; rw [h]; have e : ¬(0 = k) := fun x => n x.symm; simp [SMap.get, e]
/-- An idle groom; one that drains with a GO held; its drain ended; a sequence ended with a GO pending. -/
theorem wit_groom_abort : let i := groomUp {}
    let d := { groomUp {} with gctx := [(0, { draining := true, held := some goNext })] }
    i.awake ∧ i.portOpen 0 = true ∧ i.positionOf 0 0 = some 0 ∧ i.hostOf 0 = some 0 ∧ i.running 0 = false ∧ (i.ctxOf 0).draining = false
      ∧ d.portOpen 0 = true ∧ (d.ctxOf 0).draining = true ∧ d.flitsOf 0 = [] ∧ (d.groom 0).run = none ∧ (d.ctxOf 0).held = some goNext := by
  unfold State.awake; decide +kernel
theorem wit_groom_held_alone : ∀ k, k ≠ 0 → let s : State := { groomUp {} with gctx := [(0, { draining := true, held := some goNext })] }
    (s.ctxOf k).pend = none ∧ (s.ctxOf k).held = none ∧ (s.ctxOf k).draining = false := fun k => ctx_alone _ _ rfl k
theorem wit_groom_complete_pending : let s := { groomState { run := some { seq0 with ended := true } } with gctx := [(0, { pend := some goNext })] }
    s.awake ∧ s.hostOf 0 = some 0 ∧ (s.groom 0).run = some { seq0 with ended := true } ∧ s.flitsOf 0 = [] ∧ (s.ctxOf 0).pend = some goNext
      ∧ (s.ctxOf 0).held = none ∧ (s.ctxOf 0).draining = false := by unfold State.awake; decide +kernel
theorem wit_groom_pending_alone : ∀ k, k ≠ 0 → let s : State := { groomState { run := some { seq0 with ended := true } } with gctx := [(0, { pend := some goNext })] }
    (s.ctxOf k).pend = none ∧ (s.ctxOf k).held = none ∧ (s.ctxOf k).draining = false := fun k => ctx_alone _ _ rfl k
/-- The eighth postponed refresh begins the pause of a running groom. -/
theorem wit_refresh_pause : let s := (runs0 []).setFld Reg.CH_STATUS_OWED 7
    s.awake ∧ s.chanUp 0 = true ∧ s.runningOf 0 = [0] ∧ s.fld Reg.CH_STATUS_OWED 0 0 = 7 := by unfold State.awake; decide +kernel
/-- A read that does not lead its channel's reads to memory; a line of the tier whose checks were made for another number of channels. -/
theorem wit_read_turn : let r := rd0 (.dram 0 0) (.dram 0 64)
    let s := { chanState 0 r with dma := [(0, { flights := [⟨.dram 0 128, .dram 0 192, none, 0, 0, 0, 0⟩, r.flight] })] }
    s.awake ∧ (s.chanOf 0).queue = [r] ∧ s.readTurn r = false := by unfold State.awake; decide +kernel
theorem wit_tier_was : let s := { tierState 0 (rd0 (.tier 63 0) (.stb 15 0)) with tierWas := some (0, 32) }
    s.lpBaseIndex 63 0 ≠ s.lpLineIndex 63 0 := by decide +kernel

theorem wit_page_completion : let s := { State.reset with pageReqs := [req0], fns := [(1, { cpl := some ⟨0, 0, 5, []⟩, cplPage := some 0x7000 })] }
    s.awake ∧ s.pageReqs = [req0] ∧ (s.fnOf 1).cplPage = some req0.page := by unfold State.awake; decide +kernel
/-- The first 60 ms of the boot, and what follows them; cold reset; a function that does not exist. -/
theorem wit_configuration : let s := State.reset
    let late := { s with tb := 60000000 }
    s.awake ∧ s.board.bootDue = true ∧ ({ s with tb := 59999999 } : State).tb.toNat < bootAnswers ∧ bootAnswers ≤ late.tb.toNat ∧ late.awake
      ∧ late.fnExists 256 = false ∧ late.fnExists 0 = true ∧ (late.fnOf 0).flr = false ∧ late.flag Reg.HIF_NUMVF_VF_EN = false
      ∧ late.flag Reg.HIF_NUMVF_DRAINING = false ∧ (256 : BitVec 16).toNat ≤ 256 ∧ ({ s with board := { s.board with cold := true } } : State).board.cold = true := by
  unfold State.awake; decide +kernel

/-- The entries and the charges of a plan, each once; a replay due. -/
theorem wit_commit_once : (plan5.entries.map fun x => x.1).Nodup ∧ (plan5.charges.map fun x => x.1).Nodup ∧ (∀ x ∈ plan5.charges, x.1 < 256)
    ∧ 5 ∈ queued5.slice 0 ∧ 9 ∉ queued5.slice 0 ∧ (∀ x ∈ plan5.entries, x.1 ≠ 9) ∧ queued5.pdkStalls 0 = [0] := by decide +kernel
theorem wit_plan_replay : let s := queued5.putPdk 0 { running := true, replay := true, abandon := true, step := [⟨5, 1, true, 0⟩] }
    s.awake ∧ s.follower 0 = false ∧ s.hingeMay 0 = true ∧ s.hingeWaits 0 = false ∧ (s.pdkOf 0).stop = 0 := by unfold State.awake; decide +kernel

/-- A stall whose rounds from 0 on are abandoned opens one. -/
theorem wit_round_abandoned : let s := ((grouped 1 []).putPdk 0 { running := true, abandonAt := some 0 }).putBytes (stbKey 0 0) coll0 |>.setLatch 0 1 true
    s.awake ∧ s.paddockOf 0 = some 0 ∧ 2 ≤ s.groupSize 0 ∧ s.groupRank 0 < s.groupSize 0 ∧ (s.pdkOf 0).running = true ∧ s.stbRead 0 0 64 = coll0
      ∧ collOk (s.groupSize 0) coll0 = true ∧ tableGoesOn (s.groupSize 0) (s.collBase 0 0) 0 coll0 ((s.pdkOf 0).rounds.filter fun y => y.st == 0) = true
      ∧ s.latch 0 (parseColl coll0).trig = true ∧ (s.pdkOf 0).abandonAt = some 0 ∧ 0 ≤ ((s.pdkOf 0).rounds.filter fun y => y.st == 0).length := by
  unfold State.awake; decide +kernel
/-- A decision of an epoch to come; one for a round not opened, commit or abort. -/
theorem wit_coll_decide_other : let a := flitOf tCollDecide 0 [0, 0, 0, 0, 1] []
    let u (d : Byte) := flitOf tCollDecide 0 [0, 0, 0, 0, 0, 0, 0, 0, d] []
    let s (f : List Byte) := arrived f (grouped 1 [])
    (s a).awake ∧ (s a).pdkOfGroup (leAt a 16 2) = some 0 ∧ (s a).ahead 0 a = true ∧ (s (u 0)).pdkOfGroup (leAt (u 0) 16 2) = some 0
      ∧ collEpoch (u 0) = (s (u 0)).epochOf 0 ∧ (s (u 0)).late 0 (u 0) = false ∧ (s (u 0)).openRound 0 (collRound (u 0)) = none
      ∧ byteAt (u 0) 24 = 0 ∧ byteAt (u 1) 24 ≠ 0 ∧ (s (u 1)).late 0 (u 1) = false ∧ fType a = tCollDecide := by unfold State.awake; decide +kernel
theorem wit_part_missing : let s := (grouped 1 []).putPdk 0 { parts := [(0, [1])], partsTb := 5 }
    s.partsWait 0 = false ∧ (arrived (flitPlan 2) s).partsWait 0 = false ∧ (arrived (flitPlan 1) s).partsWait 0 = true := by decide +kernel
theorem wit_resend_primary : (exporting true 7).routePrimary (fDst (write0 7).body) = some 7 := by decide +kernel

/-- VDD_AUX low holds the boot; the boot ROM alone takes no device reset. -/
theorem wit_boot_low : (low State.reset).flag Reg.SAG_STATUS_AUX_LOW = true ∧ State.reset.flag Reg.SAG_STATUS_AUX_LOW = false ∧ up.board.romOnly = false
    ∧ romAlone.booted = true ∧ romAlone.board.downTb = none ∧ romAlone.board.romOnly = true := by decide
/-- The stage lies in a channel that retrains: nothing is read, and nothing written. -/
theorem wit_stage_waits : let s := { served with chans := [(0, { retrain := 1 })] }.setFld Reg.TACK_STAGE_LEN_LEN 64
    s.stageReady false = false ∧ s.stageReady true = false ∧ served.stageReady false = true ∧ served.stageReady true = true
      ∧ (stage 64 served).stageReady false = true ∧ (stage 64 served).stageReady true = true := by decide +kernel
theorem wit_tack_causes : let b := { withEntry (entry5 stQueued) (pdk0 []) with board := up.board }
    b.startup = false ∧ b.pdkOn 0 = true ∧ b.allFree 0 = false ∧ (b.pdkOf 0).resetTb = none ∧ b.fld Reg.TACK_CMD_PADDOCK = 0
      ∧ (mended.setFld Reg.TACK_STATUS_MAINT_CAUSE 1).fld Reg.TACK_STATUS_MAINT_CAUSE = 1 ∧ (mended.setFld Reg.TACK_STATUS_MAINT_CAUSE 6).maintenance = true
      ∧ (low (stage 64 served)).flag Reg.SAG_STATUS_AUX_LOW = true ∧ (stage 64 served).flag Reg.SAG_STATUS_AUX_LOW = false ∧ served.booted = true := by decide +kernel
/-- FLASH_WRITE of nothing. -/
theorem wit_flash_nothing : (stage 0 served).staged = some (stage 0 served, []) ∧ (stage 0 served).booted = true ∧ (stage 0 served).stageReady false = true := by
  refine ⟨?_, by decide +kernel, by decide +kernel⟩; rfl

/-- The address of the straps, and another one; before 0.4 ms neither. TRST# is an operand of a scan and a level of the part. -/
theorem wit_smbus : let s := { served with tb := 400000, board := { served.board with smbAddr := 0x5F } }
    s.smbFor 0x5F = true ∧ s.smbFor 0x58 = false ∧ served.smbFor 0x58 = false ∧ s.booted = true ∧ s.board.downTb = none
      ∧ ({ addr := 0x5F, data := 0xA5 } : SmbWrite).code = 0x30 ∧ ({ addr := 0x5F, code := 0x31, data := 0xA5 } : SmbWrite).code ≠ 0x30
      ∧ s.board.trst = false ∧ ({ data := 5 } : TapScan).trst = false ∧ ({ trst := true, data := 5 } : TapScan).trst = true := by decide
/-- One entry waits: 1 ms after THERMTRIP_N fell, and just before; seven are left of a page. -/
theorem wit_trip_page : let s := { State.reset with board := { State.reset.board with persist := [List.replicate 32 7], persistTb := 5, tripLow := true, tripTb := 7 } }.wr Reg.FLT_PERSIST_CNT 1
    s.awake ∧ s.sagNow = false ∧ s.board.persist ≠ [] ∧ s.board.tripTb.toNat + 1000000 ≤ (1000007 : Dword).toNat
      ∧ ¬(8 - s.fld Reg.FLT_PERSIST_CNT_COUNT % 8 ≤ s.board.persist.length ∨ s.board.persistTb.toNat + 100000000 ≤ (1000006 : Dword).toNat
          ∨ (s.board.tripLow = true ∧ s.board.tripTb.toNat + 1000000 ≤ (1000006 : Dword).toNat)) := by unfold State.awake; decide +kernel

/-! ### A signed paddock section -/

/-- A PADDOCK section of one stall and no slot, signed by a key whose check is short: its S equals its R, three times which is the hash. -/
def sectSigned : List Byte := [3, 0, 0, 0, 128, 2] ++ List.replicate 59 0 ++ [1, 1, 0, 4, 0, 2] ++ List.replicate 28 0 ++ [15, 64, 0, 0, 0, 0, 0, 0, 0, 1, 0, 0, 0, 3] ++ List.replicate 79 0 ++ [1, 0, 1, 1] ++ List.replicate 12 0 ++ [8] ++ List.replicate 495 0
def key0 : List Byte := [190, 241, 36, 195, 87, 42, 180, 230, 39, 11, 229, 202, 101, 56, 83, 164, 2, 1, 46, 35, 182, 124, 153, 157, 255, 152, 211, 5, 220, 107, 59, 169, 218, 97, 193, 214, 95, 77, 103, 61, 57, 192, 226, 129, 41, 120, 67, 42] ++
  [255, 10, 251, 196, 24, 77, 99, 80, 198, 98, 72, 88, 255, 148, 47, 17, 236, 78, 40, 179, 170, 36, 78, 201, 10, 147, 209, 73, 187, 191, 131, 90, 152, 145, 235, 64, 155, 6, 74, 173, 60, 126, 111, 92, 108, 213, 199, 24]
def sigR : List Byte := [136, 96, 65, 237, 44, 53, 0, 223, 243, 231, 112, 22, 41, 114, 11, 129, 127, 90, 46, 175, 25, 76, 94, 42, 251, 145, 122, 155, 255, 90, 104, 121, 166, 62, 185, 110, 132, 34, 29, 158, 173, 242, 240, 96, 234, 205, 85, 130]
def sig0 : List Byte := sigR ++ sigR
def hash0 : List Byte := [81, 188, 201, 212, 205, 4, 169, 143, 115, 54, 76, 39, 137, 176, 81, 244, 255, 141, 82, 180, 97, 151, 176, 105, 146, 11, 197, 118, 51, 146, 61, 226, 129, 55, 123, 239, 11, 222, 59, 87, 128, 165, 229, 78, 159, 159, 235, 42]
def sect0 : TackSect := ⟨3, 0, 0, 0, sectSigned, sectSigned.drop 64, key0, sig0⟩
theorem sect0_parse : parseSect (sectSigned ++ key0 ++ sig0) = some (sect0, []) := by decide +kernel
/-- The hash of the key, and the signature (FIPS 180-4 and 186-5 by another program). -/
theorem test_key_hash : sha384 key0 = hash0 := by decide +kernel
theorem test_signature : ecdsaValid key0 sig0 sectSigned = true := by decide +kernel
/-- The section staged, on a part in service with that key and a table of tested combinations. -/
def signed : State :=
  { stage 896 served with board := { up.board with keyHash := hash0 }, fwTable := [(0, 0, 0, 65535)] }.putBytes (stbKey 15 0) (sectSigned ++ key0 ++ sig0)
theorem sect0_authentic : sect0.authentic hash0 = true := by
  have h : allZero hash0 = false := by decide +kernel
  have e : (sha384 key0 == hash0) = true := by rw [test_key_hash]; exact beq_self_eq_true _
  have aux : ∀ a b c : Bool, a = false → b = true → c = true → (!a && b && c) = true := by decide
  exact aux _ _ _ h e test_signature
theorem wit_load_paddock : signed.staged = some (signed, sectSigned ++ key0 ++ sig0) ∧ signed.startup = false
    ∧ signed.pdkOn (signed.fld Reg.TACK_CMD_PADDOCK) = false ∧ signed.booted = true ∧ sect0.kind = 3 := by
  refine ⟨?_, by decide +kernel⟩
  have l : signed.stageLen = (sectSigned ++ key0 ++ sig0).length := by decide +kernel
  rw [State.staged_stb signed 15 0 (by decide +kernel) (by decide) (by decide +kernel) (by decide +kernel) (by rw [l]; decide +kernel), l]
  have b : signed.bytes (stbKey 15 0) (sectSigned ++ key0 ++ sig0).length = sectSigned ++ key0 ++ sig0 := State.bytes_putBytes _ _ _
  rw [b]
theorem wit_load_paddock_good : let t := signed.coverSect sect0
    t.sectCause sect0 = 0 ∧ (t.shrunk sect0.body).map (fun x => (x.1, x.2.length)) = some ([0], 0) := by
  refine ⟨?_, by decide +kernel⟩
  unfold State.sectCause
  rw [show (signed.coverSect sect0).board.keyHash = hash0 by decide +kernel, sect0_authentic]
  decide +kernel
/-- The same section where no key is programmed. -/
theorem wit_load_paddock_bad : (State.coverSect { signed with board := up.board } sect0).sectCause sect0 = 1 := by
  have h : allZero (State.coverSect { signed with board := up.board } sect0).board.keyHash = true := by decide +kernel
  unfold State.sectCause TackSect.authentic; rw [h]; rfl
/-- What LOAD_IMAGE asks of an image beside the signatures of its sections: its SKU, its ranges and the minimum service set. -/
theorem wit_load_image : let d : TackSect := ⟨1, 0, 0, 0, [], [1], key0, sig0⟩
    let c : TackSect := ⟨2, 0, 0, 0, [], [], key0, sig0⟩
    signed.deviceStage ⟨d, c, []⟩ = 0 ∧ signed.minSet d.body = true ∧ State.deviceStage { signed with fwTable := [] } ⟨d, c, []⟩ = 5
      ∧ (signed.board.romOnly || !signed.ledger.isEmpty) = false := by decide +kernel

/-! ### Ill-formed terms: one for each check, refused -/

theorem test_wf_reg_write : (Instr.regWrite .ostler 0 3 0).wf = false := by decide
theorem test_wf_reg_read : (Instr.regRead .ostler 0 0).wf = false := by decide
theorem test_wf_gport_write : (Instr.gportWindowWrite 0 2 4 0).wf = false := by decide
theorem test_wf_gport_size : (Instr.gportWindowWrite 0 0 16 0).wf = false := by decide
theorem test_wf_loop_far : (Instr.loop 0 0 1 16388).wf = false := by decide
theorem test_wf_loop_word : (Instr.loop 0 0 1 2).wf = false := by decide
theorem test_wf_callr : (Instr.callr 0 3 3).wf = false := by decide
theorem test_wf_bsum : (Instr.bsum 0 0 64 0).wf = false := by decide
theorem test_wf_groom_cond : (Instr.groomBranchOp 0 (.cond .eq 1 2 2)).wf = false := by decide
theorem test_wf_groom_jump : (Instr.groomBranchOp 0 (.jump 6)).wf = false := by decide
theorem test_wf_groom_call : (Instr.groomBranchOp 0 (.call 1 9)).wf = false := by decide
theorem test_wf_stack_temp : (Instr.stackTempSample 0 [1, 2, 3, 4]).wf = false := by decide
theorem test_wf_channel_symbol : (Instr.channelRequestServe 0 [(72, 1)]).wf = false := by decide
theorem test_wf_tier_symbol : (Instr.lpRequestServe 0 [(68, 1)]).wf = false := by decide
theorem test_wf_scrub_zero : (Instr.scrubRead false 0 [(0, 0)]).wf = false := by decide
theorem test_wf_scrub_twice : (Instr.scrubRead true 0 [(3, 1), (3, 2)]).wf = false := by decide
theorem test_wf_aperture_write : (Instr.apertureWrite 0 (List.replicate 513 0)).wf = false := by decide +kernel
theorem test_wf_aperture_read : (Instr.apertureRead 0 4097).wf = false := by decide
theorem test_wf_coal_timer : (Instr.coalTimer 0 3 0).wf = false := by decide
theorem test_wf_flit : (Instr.flitReceive 0 (List.replicate 255 0) true 0).wf = false := by decide +kernel
theorem test_wf_boot_range : (Instr.coldBoot ⟨none, [], [], [256], [], [], []⟩).wf = false := by decide
theorem test_wf_boot_twice : (Instr.coldBoot ⟨none, [], [], [], [7, 7], [], []⟩).wf = false := by decide
theorem test_wf_alert : (Instr.pmbAlert [some 1]).wf = false := by decide
theorem test_wf_reset_cause : (Instr.deviceReset 4).wf = false := by decide
theorem test_wf_good : (Instr.loop 0 0 1 16384).wf = true ∧ (Instr.regRead .ostler 0 8).wf = true ∧ (Instr.deviceReset 7).wf = true := by decide

/-! ### The manual's examples -/

/-- 00_scope.md and 07_placement_and_toolchain.md: 0x1_2340 is in stack 1, channel 2, at C = 0x140; the next line at the same C of channel 5. -/
theorem test_host_linear : hostLinear true 0x12340 = (32 + 2, 0x140) ∧ hostLinear true 0x12440 = (32 + 5, 0x140) := by decide
theorem test_host_linear_inverse : toHostLinear true 34 0x140 = 0x12340 ∧ toHostLinear false (hostLinear false 0x12340).1 (hostLinear false 0x12340).2 = 0x12340 := by
  decide
/-- 08_memory_system.md: the tier address 0x0080_0001_2340 on an X8 and on an S4. -/
theorem test_tier_map : let x := State.reset.setFld Reg.MEM_LP_CFG_NCH 64
    let y := { State.reset with part := { x8 := false } }.setFld Reg.MEM_LP_CFG_NCH 32
    x.lpMap 0x8000012340 = (13, 0x680) ∧ x.lpCheck 0x8000012340 = 0x7E8 ∧ y.lpMap 0x8000012340 = (13, 0xA80) := by decide +kernel
/-- The generators of R201 and R218, as another program multiplies them out. -/
theorem test_rs_generator : rsGenerator 8 = [1, 255, 11, 81, 54, 239, 173, 200, 24] ∧ rsGenerator 4 = [1, 15, 54, 120, 64] := by decide +kernel
/-- Two symbols of a codeword in error are found and corrected. -/
theorem test_rs_two : let m := List.range 68
    let w := m ++ rsChecks 8 m
    rsDecode 8 2 w = .clean ∧ rsDecode 8 2 ((w.set 3 200).set 75 (w.getD 75 0 ^^^ 9)) = .fix [(75, 9), (3, 203)] := by decide +kernel
/-- 02_numerics.md: two expansions. -/
theorem test_expand : (expandEX16 5 (some 200) (some 0x3C00) 3).v = 0xBFC50000 ∧ (expandEX16 0 none (some 0x3F81) 3).v = 0x3FC20000 := by decide +kernel
/-- 02_numerics.md: one FP32 value narrowed on the main path and in a groom. -/
theorem test_narrow : (narrow false 0 none (f32Dec 0x40200000), narrow true 0 none (f32Dec 0x40200000)) = (⟨4, false, false⟩, ⟨5, false, false⟩)
    ∧ (narrow false 0 none (f32Dec 0x40A00000), narrow true 0 none (f32Dec 0x40A00000)) = (⟨6, false, false⟩, ⟨7, false, false⟩)
    ∧ narrow false 0 none (f32Dec 0x40E00000) = ⟨7, true, false⟩ ∧ narrow false 0 none (f32Dec 0x40DCCCCD) = ⟨7, false, false⟩
    ∧ (narrow false 2 none (f32Dec 0x43E80000), narrow true 2 none (f32Dec 0x43E80000)) = (⟨0x7E, false, false⟩, ⟨0x7E, true, false⟩)
    ∧ narrow true 2 none (f32Dec 0x43E60000) = ⟨0x7E, false, false⟩ ∧ narrow false 2 none (f32Dec 0x43EB0000) = ⟨0x7E, true, false⟩ := by decide +kernel
/-- 02_numerics.md: the canonical sum of K = 256, unsplit and in four parts. -/
def prod0 (i : Nat) : FAcc := ⟨if i = 0 then 0x4B800000 else if i = 128 || i = 192 then 0x3F800000 else 0, false, false⟩
theorem test_canonical_sum : (partDot prod0 256 1 0).v = 0x4B800001 := by decide +kernel
theorem test_canonical_parts : (partDot prod0 256 4 0).v = 0x4B800000 ∧ (partDot prod0 256 4 1).v = 0 ∧ (partDot prod0 256 4 2).v = 0x3F800000
    ∧ (partDot prod0 256 4 3).v = 0x3F800000 := by decide +kernel
/-- 04_matrix_engine.md R106: K_TOTAL = 300 in four parts. -/
theorem test_parts : (List.range 4).map (fun p => (partStart 300 4 p, partLen 300 4 p)) = [(0, 128), (128, 128), (256, 44), (384, 0)] := by decide
/-- 03_weight_compression.md: the table image and the first codes of a sub-stream. -/
def table0 : List Byte := [0x2B, 0x00, 0x05] ++ List.replicate 13 0 ++ [0x22, 0x03, 0x00, 0x50, 0x20, 0x04, 0x00, 0x50] ++ List.replicate 40 0
theorem test_code_table : (parseTable table0).map (fun t => (t.fmt, t.maxLen, t.count 2, t.count 3, t.count 4, t.count 5)) = some (0, 5, 3, 1, 1, 2) ∧ tableImageId table0 = 0x2B := by
  decide +kernel
theorem test_decode_codes : (parseTable table0).bind (fun t => (decodeMany (t.rows 12 1 0) 9 (streamBits [0x27, 0x1E, 0xE4])).map fun x => (x.1, x.2.length))
    = some ([0, 9, 1, 2, 0, 7, 0xA, 1, 0], 0) := by decide +kernel
/-- 14_host_interface.md: bytes 4 to 7 of the completion record. -/
theorem test_completion : ((cplBytes 0 0 true 0x906 cmdSubmit).drop 4).take 4 = [0x10, 0x01, 0x06, 0x09] := by decide +kernel
/-- 12_sampler_and_output.md: the row of eight tokens: its NaN, its weights and their sum, its list, the token drawn, its LOGPROB and its record. -/
def params0 : Params := ⟨0, 0x3F000000, 4, 0, 0x3F333333, 0x3DCCCCCD, true, false, 0, [], [(5, 0x40000000)]⟩
def cands0 : List Cand × Nat := candidates params0 [0x7F] [0x3F800000, 0x40400000, 0x40200000, 0x40400000, 0xBF800000, 0x3F000000, 0x7FC00000, 0x40000000]
theorem test_candidates : cands0.1.map (fun c => (c.t, c.z)) = [(0, 0x40000000), (1, 0x40C00000), (2, 0x40A00000), (3, 0x40C00000), (4, 0xC0000000), (5, 0x40A00000)]
    ∧ cands0.2 = 1 := by decide +kernel
/-- Its node: m is 6.0 and l is 2.753021240234375. -/
def node0 : Node := { m := 0x40C00000, l := 0x40303180, o := [], empty := false }
theorem test_row_weights : [0x40000000, 0x40A00000, 0x40C00000].map (weight node0) = [0x3C960000, 0x3EBC0000, 0x3F800000] := by decide +kernel
theorem test_row_list : (sampleList params0 node0 cands0.1).map (·.t) = [1, 3] := by decide +kernel
theorem test_row_draw : (draw node0 0xA0000000 [⟨1, 0x40400000, 0x40C00000⟩, ⟨3, 0x40400000, 0x40C00000⟩]).map (·.t) = some 3
    ∧ logProb node0 ⟨3, 0x40400000, 0x40C00000⟩ = 0xBC0D := by decide +kernel
theorem test_token_record : recBytes { kind := 0, token := 3, pos := 2113, logprob := 0xBC0D } 37 6 0x0D2F7A10
    = [0x03, 0x00, 0x00, 0x08, 0x0D, 0xBC, 0x25, 0x00, 0x41, 0x08, 0x00, 0x00, 0x10, 0x7A, 0x2F, 0x0D] := by decide +kernel

end Sys2Proof.Tests
end

section
/-! SUPPORT. Packed rows of codes of whole bytes (R36): what each byte of the cells of such a row holds. -/
namespace Sys2Proof.Machine

theorem leBytes_length (v n : Nat) : (leBytes v n).length = n := by
  induction n generalizing v with
  | zero => rfl
  | succ n ih => simp [leBytes, ih]

/-- Byte `i` of a number written low byte first. -/
theorem leBytes_getD (v n i : Nat) (h : i < n) : (leBytes v n).getD i 0 = BitVec.ofNat 8 (v / 2 ^ (8 * i)) := by
  induction n generalizing v i with
  | zero => omega
  | succ n ih =>
    cases i with
    | zero => simp [leBytes]
    | succ i =>
      have e : v / 256 / 2 ^ (8 * i) = v / 2 ^ (8 * (i + 1)) := by
        rw [Nat.div_div_eq_div_mul, show 256 = 2 ^ 8 from rfl, ← Nat.pow_add, Nat.mul_succ, Nat.add_comm 8]
      rw [leBytes, List.getD_cons_succ, ih (v / 256) i (by omega), e]

/-- Byte `i` of a number is not changed where the bits above byte `B` are cut. -/
theorem byteOf_mod (v B i : Nat) (h : i < B) : BitVec.ofNat 8 (v % 2 ^ (8 * B) / 2 ^ (8 * i)) = BitVec.ofNat 8 (v / 2 ^ (8 * i)) := by
  have e := bits_mod v (8 * i + 7) (8 * i) (8 * B) (by omega)
  unfold bits at e
  rw [show 8 * i + 7 + 1 - 8 * i = 8 by omega] at e
  exact BitVec.eq_of_toNat_eq (by simpa using e)

/-- Every byte of the mask of a code of `B` bytes is full. -/
theorem byteOf_ones (B i : Nat) (h : i < B) : BitVec.ofNat 8 ((2 ^ (8 * B) - 1) / 2 ^ (8 * i)) = 0xFF#8 := by
  have e : (2 ^ (8 * B) - 1) / 2 ^ (8 * i) % 2 ^ 8 = 2 ^ 8 - 1 := by
    refine Nat.eq_of_testBit_eq fun j => ?_
    rw [Nat.testBit_mod_two_pow, Nat.testBit_div_two_pow, Nat.testBit_two_pow_sub_one, Nat.testBit_two_pow_sub_one]
    by_cases hj : j < 8
    · have : j + 8 * i < 8 * B := by omega
      simp [hj, this]
    · simp [hj]
  exact BitVec.eq_of_toNat_eq (by simpa using e)

/-- Putting a code of `B` bytes replaces the `B` bytes at its place. -/
theorem putCode_whole (l : List Byte) (B i c : Nat) (hB : 0 < B) :
    ∃ v, (∀ j, j < B → BitVec.ofNat 8 (v / 2 ^ (8 * j)) = BitVec.ofNat 8 (c / 2 ^ (8 * j)))
      ∧ putCode l (8 * B) i c = l.take (B * i) ++ leBytes v B ++ l.drop (B * i + B) := by
  have h0 : 8 * B * i / 8 = B * i := by rw [Nat.mul_assoc, Nat.mul_div_cancel_left _ (by decide)]
  have h1 : 8 * B * i % 8 = 0 := by rw [Nat.mul_assoc, Nat.mul_mod_right]
  have h2 : (0 + 8 * B + 7) / 8 = B := by omega
  refine ⟨putBits (leAt l (B * i) B) (8 * B - 1) 0 c, fun j hj => ?_, ?_⟩
  · have e := bits_putBits_same (leAt l (B * i) B) (8 * B - 1) 0 c
    unfold bits at e
    rw [Nat.pow_zero, Nat.div_one, show 8 * B - 1 + 1 - 0 = 8 * B by omega] at e
    rw [← byteOf_mod _ B j hj, e, byteOf_mod _ B j hj]
  · unfold putCode
    simp only [h0, h1]
    rw [h2, Nat.zero_add]

theorem putCode_whole_length (l : List Byte) (B i c : Nat) (hB : 0 < B) (h : B * i + B ≤ l.length) :
    (putCode l (8 * B) i c).length = l.length := by
  obtain ⟨v, _, e⟩ := putCode_whole l B i c hB
  rw [e]
  simp only [List.length_append, List.length_take, List.length_drop, leBytes_length]
  omega

/-- A byte of the code put, and a byte beside it. -/
theorem putCode_whole_getD (l : List Byte) (B i c j : Nat) (hB : 0 < B) (h : B * i + B ≤ l.length) :
    (putCode l (8 * B) i c).getD j 0
      = if B * i ≤ j ∧ j < B * i + B then BitVec.ofNat 8 (c / 2 ^ (8 * (j - B * i))) else l.getD j 0 := by
  obtain ⟨v, hv, e⟩ := putCode_whole l B i c hB
  have ht : (l.take (B * i)).length = B * i := by rw [List.length_take]; omega
  have hv' : (leBytes v B).length = B := leBytes_length v B
  rw [e, List.append_assoc, List.getD_eq_getElem?_getD]
  by_cases h1 : j < B * i
  · rw [if_neg (by omega), List.getElem?_append_left (by omega), List.getElem?_take_of_lt h1, ← List.getD_eq_getElem?_getD]
  · rw [List.getElem?_append_right (by omega), ht]
    by_cases h2 : j < B * i + B
    · rw [if_pos (by omega), List.getElem?_append_left (by omega), ← List.getD_eq_getElem?_getD, leBytes_getD _ _ _ (by omega), hv _ (by omega)]
    · rw [if_neg (by omega), List.getElem?_append_right (by omega), List.getElem?_drop, hv', Nat.sub_sub, Nat.add_sub_of_le (by omega),
        ← List.getD_eq_getElem?_getD]

/-- The `n` bytes of a row into which `f` of each of its first `m` codes has been packed: `rowCells` builds the codes and their mask so. -/
def packCodes (n w : Nat) (codes : List (Option Nat)) (f : Nat → Nat) (m : Nat) : List Byte :=
  (List.range m).foldl (fun l i => match codes.getD i none with | some c => putCode l w i (f c) | none => l) (List.replicate n 0)

theorem rowCells_eq (n w : Nat) (codes : List (Option Nat)) :
    rowCells n w codes = (List.range n).map fun b =>
      if (packCodes n w codes (fun _ => 2 ^ w - 1) codes.length).getD b 0 = 0 then none
      else some ((packCodes n w codes id codes.length).getD b 0, (packCodes n w codes (fun _ => 2 ^ w - 1) codes.length).getD b 0) := rfl

theorem packCodes_succ (n w : Nat) (codes : List Nat) (f : Nat → Nat) (m : Nat) (h : m < codes.length) :
    packCodes n w (codes.map some) f (m + 1) = putCode (packCodes n w (codes.map some) f m) w m (f (codes.getD m 0)) := by
  have e : (codes.map some).getD m none = some (codes.getD m 0) := by simp [h]
  unfold packCodes
  rw [List.range_succ, List.foldl_append, List.foldl_cons, List.foldl_nil, e]

/-- Each byte of a packed row is a byte of its own code. -/
theorem packCodes_whole (B : Nat) (codes : List Nat) (f : Nat → Nat) (hB : 0 < B) (m : Nat) (hm : m ≤ codes.length) :
    (packCodes (B * codes.length) (8 * B) (codes.map some) f m).length = B * codes.length
      ∧ ∀ j, j < B * m → (packCodes (B * codes.length) (8 * B) (codes.map some) f m).getD j 0
          = BitVec.ofNat 8 (f (codes.getD (j / B) 0) / 2 ^ (8 * (j % B))) := by
  induction m with
  | zero => exact ⟨by simp [packCodes], fun j hj => by omega⟩
  | succ m ih =>
    obtain ⟨hl, hb⟩ := ih (by omega)
    have hfit : B * m + B ≤ B * codes.length := by rw [← Nat.mul_succ]; exact Nat.mul_le_mul_left B hm
    rw [packCodes_succ _ _ _ _ _ (by omega)]
    refine ⟨(putCode_whole_length _ _ _ _ hB (by omega)).trans hl, fun j hj => ?_⟩
    rw [putCode_whole_getD _ _ _ _ _ hB (by omega)]
    rw [Nat.mul_succ] at hj
    by_cases h1 : j < B * m
    · rw [if_neg (by omega), hb j h1]
    · obtain ⟨i, rfl⟩ : ∃ i, j = B * m + i := ⟨j - B * m, by omega⟩
      have hi : i < B := by omega
      rw [if_pos (by omega), Nat.mul_add_div hB, Nat.div_eq_of_lt hi, Nat.mul_add_mod, Nat.mod_eq_of_lt hi, Nat.add_sub_cancel_left,
        Nat.add_zero]

@[simp] theorem rowCells_length (n w : Nat) (codes : List (Option Nat)) : (rowCells n w codes).length = n := by
  simp [rowCells_eq]

/-- Each cell of a row of codes of `B` bytes stores one whole byte of its code. -/
theorem rowCells_whole (B : Nat) (codes : List Nat) (hB : 0 < B) (j : Nat) (hj : j < B * codes.length) :
    (rowCells (B * codes.length) (8 * B) (codes.map some)).getD j none
      = some (BitVec.ofNat 8 (codes.getD (j / B) 0 / 2 ^ (8 * (j % B))), 0xFF#8) := by
  have bytes := (packCodes_whole B codes id hB codes.length (Nat.le_refl _)).2 j hj
  have mask := (packCodes_whole B codes (fun _ => 2 ^ (8 * B) - 1) hB codes.length (Nat.le_refl _)).2 j hj
  rw [byteOf_ones B (j % B) (Nat.mod_lt _ hB)] at mask
  rw [rowCells_eq, List.length_map, List.getD_eq_getElem?_getD, List.getElem?_map, List.getElem?_range hj, Option.map_some, Option.getD_some,
    bytes, mask]
  rfl

theorem padCodes_whole (fmt : Nat) (l : List (Option Nat)) (h : fmtBits fmt % 8 = 0) : padCodes fmt l = l := by
  unfold padCodes
  rw [if_neg (by omega)]

theorem rowBytes_whole (fmt cols : Nat) (h : fmtBits fmt % 8 = 0) : rowBytes fmt cols = fmtBits fmt / 8 * cols := by
  obtain ⟨B, hB⟩ : ∃ B, fmtBits fmt = 8 * B := ⟨fmtBits fmt / 8, by omega⟩
  unfold rowBytes
  rw [if_neg (by omega), hB, Nat.mul_div_cancel_left _ (by decide), Nat.mul_assoc, Nat.mul_add_div (by decide)]
  rfl

end Sys2Proof.Machine
end

section
/-! SUPPORT. Stores into the stall buffer: the byte that each cell leaves, and rows stored one after another where no two share a byte. -/
namespace Sys2Proof.Machine

/-- What every step of a fold keeps, the fold keeps. -/
theorem foldl_keeps {α σ β : Type} (g : σ → β) (f : σ → α → σ) (h : ∀ u a, g (f u a) = g u) (l : List α) (s : σ) :
    g (l.foldl f s) = g s := by
  induction l generalizing s with
  | nil => rfl
  | cons a l ih => exact (ih _).trans (h s a)

/-- Two folds whose steps agree on the members of the list agree. -/
theorem foldl_congr_mem {α σ : Type} (f g : σ → α → σ) (l : List α) (h : ∀ u, ∀ a ∈ l, f u a = g u a) (s : σ) :
    l.foldl f s = l.foldl g s := by
  induction l generalizing s with
  | nil => rfl
  | cons a l ih =>
    rw [List.foldl_cons, List.foldl_cons, h s a List.mem_cons_self]
    exact ih (fun u b hb => h u b (List.mem_cons_of_mem a hb)) _

/-- The byte that a cell leaves where `old` stood. -/
def cellByte (old : Byte) : Option (Byte × Byte) → Byte
  | none => old
  | some (b, m) => mergeByte old b m

/-- The store of one cell at a key. -/
def State.putCell (s : State) (st off : Nat) : Option (Byte × Byte) → State
  | none => s
  | some (b, m) => s.stbWrite st off [mergeByte (s.byte (stbKey st off)) b m]

theorem State.byte_putCell (s : State) (st off k : Nat) (c : Option (Byte × Byte)) :
    (s.putCell st off c).byte k = if k = stbKey st off then cellByte (s.byte k) c else s.byte k := by
  match c with
  | none => simp [State.putCell, cellByte]
  | some (b, m) =>
    by_cases h : k = stbKey st off
    · subst h
      rw [if_pos rfl]
      exact Memory.read_write_eq _ _ _
    · rw [if_neg h]
      exact Memory.read_write_ne _ _ h

/-- The bytes of a store's first `m` cells. -/
theorem State.byte_putCells (s : State) (st off : Nat) (cells : Cells) (m k : Nat) :
    ((List.range m).foldl (fun u i => u.putCell st (off + i) (cells.getD i none)) s).byte k
      = if stbKey st off ≤ k ∧ k < stbKey st off + m then cellByte (s.byte k) (cells.getD (k - stbKey st off) none) else s.byte k := by
  induction m with
  | zero => rw [if_neg (by omega)]; rfl
  | succ m ih =>
    rw [List.range_succ, List.foldl_append, List.foldl_cons, List.foldl_nil, State.byte_putCell, ih, ← stbKey_add]
    by_cases h : k = stbKey st off + m
    · subst h
      rw [if_pos rfl, if_neg (by omega), if_pos (by omega), Nat.add_sub_cancel_left]
    · rw [if_neg h]
      by_cases h1 : stbKey st off ≤ k ∧ k < stbKey st off + m
      · rw [if_pos h1, if_pos (by omega)]
      · rw [if_neg h1, if_neg (by omega)]

/-- A store changes the memories as its cells do: its POISON bits are registers (R139). -/
theorem State.stbStore_mem (s : State) (st off : Nat) (cells : Cells) (p : Bool) :
    (s.stbStore st off cells p).mem
      = ((List.range cells.length).foldl (fun u i => u.putCell st (off + i) (cells.getD i none)) s).mem := by
  have cell : (fun (u : State) i => u.putCell st (off + i) (cells.getD i none)) = fun u i => match cells.getD i none with
      | some (b, m) => u.stbWrite st (off + i) [mergeByte (u.byte (stbKey st (off + i))) b m]
      | none => u := by
    funext u i
    cases cells.getD i none <;> rfl
  rw [cell]
  unfold State.stbStore
  split
  · rfl
  · refine foldl_keeps State.mem _ (fun u i => ?_) _ _
    dsimp only
    split
    · split
      · rfl
      · split <;> rfl
    · rfl

/-- A byte after a store: its cell's. -/
theorem State.byte_stbStore (s : State) (st off : Nat) (cells : Cells) (p : Bool) (k : Nat) :
    (s.stbStore st off cells p).byte k
      = if stbKey st off ≤ k ∧ k < stbKey st off + cells.length then cellByte (s.byte k) (cells.getD (k - stbKey st off) none) else s.byte k := by
  rw [← State.byte_putCells s st off cells cells.length k]
  exact congrArg (Memory.read · k) (State.stbStore_mem s st off cells p)

/-- A byte beside a store reads as before. -/
theorem State.byte_stbStore_ne (s : State) (st off : Nat) (cells : Cells) (p : Bool) (k : Nat)
    (h : k < stbKey st off ∨ stbKey st off + cells.length ≤ k) : (s.stbStore st off cells p).byte k = s.byte k := by
  rw [State.byte_stbStore, if_neg (by omega)]

/-- A row of codes of `B` bytes stored: each byte in its span is a byte of its code, low byte first. -/
theorem State.byte_stbStore_row (s : State) (st off B : Nat) (codes : List Nat) (p : Bool) (hB : 0 < B) (j : Nat)
    (hj : j < B * codes.length) :
    (s.stbStore st off (rowCells (B * codes.length) (8 * B) (codes.map some)) p).byte (stbKey st off + j)
      = BitVec.ofNat 8 (codes.getD (j / B) 0 / 2 ^ (8 * (j % B))) := by
  rw [State.byte_stbStore, if_pos ⟨by omega, by rw [rowCells_length]; omega⟩, Nat.add_sub_cancel_left, rowCells_whole B codes hB j hj]
  rfl

/-- Steps that each write one row of `n` bytes at stride `stride` of the stall buffer and nothing else. `val r` is what row `r` takes, and a step may
rest on its own row's bytes as they were at the start: the rows share no byte, so each row ends with its own step's bytes. -/
theorem rows_written (s : State) (step : State → Nat → State) (st loc stride n rows : Nat) (val : Nat → Nat → Byte)
    (hd : rows = 1 ∨ n ≤ stride)
    (frame : ∀ u r k, (k < stbKey st (loc + r * stride) ∨ stbKey st (loc + r * stride) + n ≤ k) → (step u r).byte k = u.byte k)
    (write : ∀ u r, r < rows → (∀ j, j < n → u.byte (stbKey st (loc + r * stride) + j) = s.byte (stbKey st (loc + r * stride) + j)) →
      ∀ j, j < n → (step u r).byte (stbKey st (loc + r * stride) + j) = val r j)
    (m : Nat) (hm : m ≤ rows) :
    (∀ r j, r < m → j < n → ((List.range m).foldl step s).byte (stbKey st (loc + r * stride) + j) = val r j)
      ∧ ∀ r j, m ≤ r → r < rows → j < n →
          ((List.range m).foldl step s).byte (stbKey st (loc + r * stride) + j) = s.byte (stbKey st (loc + r * stride) + j) := by
  have apart : ∀ a b, a < b → b < rows → loc + a * stride + n ≤ loc + b * stride := by
    intro a b hab hb
    have : (a + 1) * stride ≤ b * stride := Nat.mul_le_mul_right _ hab
    rw [Nat.succ_mul] at this
    omega
  induction m with
  | zero => exact ⟨fun r j hr _ => by omega, fun r j _ _ _ => rfl⟩
  | succ m ih =>
    obtain ⟨done, rest⟩ := ih (by omega)
    rw [List.range_succ, List.foldl_append, List.foldl_cons, List.foldl_nil]
    refine ⟨fun r j hr hj => ?_, fun r j hr hr' hj => ?_⟩
    · by_cases h : r = m
      · subst h
        exact write _ r (by omega) (fun j hj => rest r j (Nat.le_refl _) (by omega) hj) j hj
      · have := apart r m (by omega) (by omega)
        rw [frame _ _ _ (by unfold stbKey; omega), done r j (by omega) hj]
    · have := apart m r (by omega) hr'
      rw [frame _ _ _ (by unfold stbKey; omega), rest r j (by omega) hr' hj]

end Sys2Proof.Machine
end

section
/-! SUPPORT. The course of an engine command that passes its checks and has its operands in the stall buffer, its completion, and the codes
that it reads. -/
namespace Sys2Proof.Machine

theorem Verdict.eq_run {v : Verdict} (h : v matches .run) : v = .run := by
  cases v with
  | run => rfl
  | rejected t => exact Bool.noConfusion h
  | zero => exact Bool.noConfusion h

@[simp] theorem State.finish_mem (s : State) (st : Nat) (w : WinCmd) : (s.finish st w).mem = s.mem := by
  unfold State.finish
  dsimp only
  split <;> rfl

/-- A command without a summary slot completes with a change of its dispatcher only. -/
theorem State.finish_eq (s : State) (st : Nat) (w : WinCmd) (h : w.summ = none) :
    s.finish st w = { s with dsp := (s.finish st w).dsp } := by
  unfold State.finish
  rw [h]
  rfl

/-- Sources in the stall buffer need no ring slot. -/
theorem State.ringFeedAll_buffered (s : State) (st : Nat) (w : WinCmd) (turn : Nat → Bool) (l : List Desc) (h : ∀ d ∈ l, d.kind ≠ 3) :
    s.ringFeedAll st w turn l = (s, w, true) := by
  induction l with
  | nil => rfl
  | cons d r ih =>
    have hd : s.ringFeed st w d (turn d.chan) = (s, w, true) := by
      unfold State.ringFeed
      rw [if_pos (h d (by simp))]
    simp only [State.ringFeedAll, hd, ih fun x hx => h x (by simp [hx]), Bool.and_self]

theorem State.engineGo_buffered (s : State) (st : Nat) (w : WinCmd) (srcs : WinCmd → List Desc) (zero body : State → WinCmd → State)
    (h : ∀ d ∈ srcs w, d.kind ≠ 3) : s.engineGo st w srcs zero body = body s w := by
  have none3 : (srcs w).any (fun d => d.kind == 3 && d.slots == 0) = false := by
    rw [List.any_eq_false]
    intro d hd
    simp [h d hd]
  unfold State.engineGo
  rw [none3, State.ringFeedAll_buffered s st w _ _ h]
  rfl

/-- A command whose one source lies in the stall buffer, taken unless a count is zero, names no ring. -/
theorem buffered_source (p : Bool) (x : Desc) (h : x.kind = 0) : ∀ d ∈ (if p then [] else [x]), d.kind ≠ 3 := by
  intro d hd
  cases p with
  | true => simp at hd
  | false => rw [List.mem_singleton.mp hd, h]; decide

/-- A command that has not issued, passes its checks and takes its operands from the stall buffer is carried out at once. -/
theorem State.engine_runs {s : State} {st : Nat} {seq : Word} {op : Nat} {w : WinCmd} (h : s.engineHas st seq op w)
    {check : State → WinCmd → Verdict} (hc : check s w = .run) (srcs : WinCmd → List Desc) (body : State → WinCmd → State)
    (snap : State → WinCmd → List Nat) (zero : State → WinCmd → State)
    (hk : ∀ d ∈ srcs { w with issued := true, snap := snap s w }, d.kind ≠ 3) :
    s.engine st seq op check srcs body snap zero = body s { w with issued := true, snap := snap s w } := by
  obtain ⟨hi, ho, _⟩ := h.fresh
  unfold State.engine
  rw [h.cmd]
  dsimp only
  split
  · next o e => rw [ho] at e; cases e
  · rw [hi, hc]
    exact State.engineGo_buffered s st _ srcs zero body hk

/-- The codes of row `r` of a tensor in the stall buffer. -/
def State.rowCodes (s : State) (st : Nat) (d : Desc) (fmt cols r : Nat) : List Nat :=
  (List.range cols).map fun k => packedCode (s.stbRead st (d.loc + r * d.stride) (rowBytes fmt cols)) (fmtBits fmt) k

/-- The image of an operand in the stall buffer gives the codes that its rows hold there. -/
theorem State.img_row (s : State) (st : Nat) (w : WinCmd) (d : Desc) (fmt rows cols r : Nat) (h : d.kind = 0) (hr : r < rows) :
    (s.img st w d (spanBytes fmt d.stride rows cols)).row fmt d.stride cols r = s.rowCodes st d fmt cols r := by
  unfold Img.row State.rowCodes
  by_cases hc : cols = 0
  · subst hc; rfl
  · have span : spanBytes fmt d.stride rows cols = (rows - 1) * d.stride + rowBytes fmt cols := by
      unfold spanBytes
      rw [if_neg (by simp; omega)]
    have fits : r * d.stride ≤ (rows - 1) * d.stride := Nat.mul_le_mul_right _ (by omega)
    have data : ((s.img st w d (spanBytes fmt d.stride rows cols)).data.drop (r * d.stride)).take (rowBytes fmt cols)
        = s.stbRead st (d.loc + r * d.stride) (rowBytes fmt cols) := by
      unfold State.img
      rw [if_neg (by omega)]
      unfold State.stbRead State.bytes
      rw [Memory.readList_part _ _ _ _ _ (by omega), stbKey_add]
    dsimp only
    rw [data]

/-- Where its bytes read the same, a span reads the same. -/
theorem Memory.readList_congr (m l : List Host.Cell) (k n : Nat) (h : ∀ j, j < n → Memory.read l (k + j) = Memory.read m (k + j)) :
    Memory.readList l k n = Memory.readList m k n := by
  induction n generalizing k with
  | zero => rfl
  | succ n ih =>
    have head : Memory.read l k = Memory.read m k := h 0 (Nat.succ_pos n)
    rw [Memory.readList, Memory.readList, head, ih (k + 1) fun j hj => by rw [Nat.add_assoc]; exact h (1 + j) (by omega)]

theorem State.stbRead_congr (s u : State) (st off n : Nat) (h : ∀ j, j < n → u.byte (stbKey st off + j) = s.byte (stbKey st off + j)) :
    u.stbRead st off n = s.stbRead st off n := Memory.readList_congr s.mem u.mem (stbKey st off) n h

end Sys2Proof.Machine
end

section
/-! PROOF. CVT in the stall buffer (R64, R65): what its rows hold afterwards, both for an identical in-place conversion, whose rows are read
one after another, and for one whose source is read before the first store. -/
namespace Sys2Proof.Machine

@[simp] theorem State.countNarrow_mem (s : State) (st : Nat) (l : List Narrowed) : (s.countNarrow st l).mem = s.mem := by
  unfold State.countNarrow State.countNan State.countSat
  split <;> split <;> rfl

theorem State.byte_countNarrow (s : State) (st : Nat) (l : List Narrowed) (k : Nat) : (s.countNarrow st l).byte k = s.byte k :=
  congrArg (Memory.read · k) (State.countNarrow_mem s st l)

/-- The converted codes of row `r` of a source in the stall buffer. -/
def State.cvtCodes (s : State) (st : Nat) (c : Cvt) (r : Nat) : List Nat :=
  (s.rowCodes st c.src c.srcFmt c.cols r).map fun x => (cvtElem c x).code

@[simp] theorem State.cvtCodes_length (s : State) (st : Nat) (c : Cvt) (r : Nat) : (s.cvtCodes st c r).length = c.cols := by
  simp [State.cvtCodes, State.rowCodes]

theorem State.cvtCodes_getD (s : State) (st : Nat) (c : Cvt) (r k : Nat) (h : k < c.cols) :
    (s.cvtCodes st c r).getD k 0
      = (cvtElem c (packedCode (s.stbRead st (c.src.loc + r * c.src.stride) (rowBytes c.srcFmt c.cols)) (fmtBits c.srcFmt) k)).code := by
  simp [State.cvtCodes, State.rowCodes, h]

/-- Byte `j` of a row of codes of the destination's format, which has whole bytes. -/
def Cvt.rowByte (c : Cvt) (codes : List Nat) (j : Nat) : Byte :=
  BitVec.ofNat 8 (codes.getD (j / (fmtBits c.dstFmt / 8)) 0 / 2 ^ (8 * (j % (fmtBits c.dstFmt / 8))))

/-- Byte `i` of element `k` of a row. -/
theorem Cvt.rowByte_elem (c : Cvt) (codes : List Nat) (k i : Nat) (h : i < fmtBits c.dstFmt / 8) :
    c.rowByte codes (k * (fmtBits c.dstFmt / 8) + i) = BitVec.ofNat 8 (codes.getD k 0 / 2 ^ (8 * i)) := by
  unfold Cvt.rowByte
  rw [Nat.mul_comm k, Nat.mul_add_div (Nat.zero_lt_of_lt h), Nat.div_eq_of_lt h, Nat.mul_add_mod, Nat.mod_eq_of_lt h, Nat.add_zero]

/-- The store of one row of converted codes at its place in the destination. -/
def cvtStore (st : Nat) (c : Cvt) (codes : Nat → List Nat) (bad : Nat → Bool) (u : State) (r : Nat) : State :=
  u.stbStore st (c.dst.loc + r * c.dst.stride)
    (rowCells (rowBytes c.dstFmt c.cols) (fmtBits c.dstFmt) (padCodes c.dstFmt ((codes r).map some))) (bad r)

theorem byte_cvtStore_ne (st : Nat) (c : Cvt) (codes : Nat → List Nat) (bad : Nat → Bool) (u : State) (r k : Nat)
    (h : k < stbKey st (c.dst.loc + r * c.dst.stride) ∨ stbKey st (c.dst.loc + r * c.dst.stride) + rowBytes c.dstFmt c.cols ≤ k) :
    (cvtStore st c codes bad u r).byte k = u.byte k :=
  State.byte_stbStore_ne _ _ _ _ _ _ (by rwa [rowCells_length])

/-- A byte of a row stored in a format of whole bytes is the byte of its code. -/
theorem byte_cvtStore (st : Nat) (c : Cvt) (codes : Nat → List Nat) (bad : Nat → Bool) (u : State) (r j : Nat)
    (hw : fmtBits c.dstFmt % 8 = 0) (hl : (codes r).length = c.cols) (hj : j < rowBytes c.dstFmt c.cols) :
    (cvtStore st c codes bad u r).byte (stbKey st (c.dst.loc + r * c.dst.stride) + j) = c.rowByte (codes r) j := by
  rw [rowBytes_whole _ _ hw] at hj
  have hB : 0 < fmtBits c.dstFmt / 8 := Nat.pos_of_mul_pos_right (Nat.zero_lt_of_lt hj)
  have h8 : fmtBits c.dstFmt = 8 * (fmtBits c.dstFmt / 8) := by omega
  unfold cvtStore Cvt.rowByte
  rw [padCodes_whole _ _ hw, rowBytes_whole _ _ hw]
  generalize fmtBits c.dstFmt / 8 = B at *
  rw [h8, ← hl]
  exact State.byte_stbStore_row u st _ B (codes r) (bad r) hB j (by rwa [hl])

/-- A record whose conversion `c` takes its source from the stall buffer, stores whole bytes there in rows that share none, and has a stated
result: in place, both formats have one width (R65). -/
structure CvtWhole (rec : List Byte) (c : Cvt) : Prop where
  parse : parseCvt rec = c
  src : c.src.kind = 0
  dst : c.dst.kind = 0
  whole : fmtBits c.dstFmt % 8 = 0
  inPlace : cvtInPlace rec = true → fmtBits c.srcFmt = fmtBits c.dstFmt
  rows : c.rows = 1 ∨ rowBytes c.dstFmt c.cols ≤ c.dst.stride

/-- In place, a row of the source is the row of the destination. -/
theorem CvtWhole.same_place {rec : List Byte} {c : Cvt} (h : CvtWhole rec c) (hp : cvtInPlace rec = true) :
    c.src.loc = c.dst.loc ∧ c.src.stride = c.dst.stride ∧ rowBytes c.srcFmt c.cols = rowBytes c.dstFmt c.cols := by
  have same : { recDesc rec cvtLayout 8 with place := 0 } = { recDesc rec cvtLayout 9 with place := 0 } := of_decide_eq_true hp
  have hloc : (recDesc rec cvtLayout 8).loc = (recDesc rec cvtLayout 9).loc := (Desc.mk.inj same).2.1
  have hstride : (recDesc rec cvtLayout 8).stride = (recDesc rec cvtLayout 9).stride := by injection same
  refine ⟨?_, ?_, ?_⟩
  · rw [← h.parse]; exact hloc
  · rw [← h.parse]; exact hstride
  · unfold rowBytes; rw [h.inPlace hp]

/-- A conversion that is not in place reads every row before it stores the first. -/
theorem cvtBody_apart (st : Nat) (s : State) {w : WinCmd} {c : Cvt} (h : CvtWhole w.record c) (hp : cvtInPlace w.record = false) :
    ∃ bad l, (cvtBody st s w).mem
      = ((List.range c.rows).foldl (cvtStore st c (s.cvtCodes st c) bad) (s.countNarrow st l)).mem := by
  let m := s.img st w c.src (spanBytes c.srcFmt c.src.stride c.rows c.cols)
  let rows := (List.range c.rows).map fun r => (m.row c.srcFmt c.src.stride c.cols r).map (cvtElem c)
  refine ⟨fun r => m.bad (r * c.src.stride) (rowBytes c.srcFmt c.cols), rows.flatten, ?_⟩
  have kind : c.dst.kind ≠ 3 := by rw [h.dst]; decide
  unfold cvtBody State.deliver
  simp only [h.parse, hp, kind, Bool.false_and, Bool.false_eq_true, if_false, State.finish_mem, List.foldl_map]
  refine congrArg State.mem (foldl_congr_mem _ _ _ (fun u r hr => ?_) _)
  have hr : r < c.rows := List.mem_range.mp hr
  have row : rows.getD r [] = (s.rowCodes st c.src c.srcFmt c.cols r).map (cvtElem c) := by
    rw [← State.img_row s st w c.src c.srcFmt c.rows c.cols r h.src hr]
    simp [rows, hr, m]
  have codes : (rows.getD r []).map (fun x => some x.code) = (s.cvtCodes st c r).map some := by
    rw [row]
    simp [State.cvtCodes]
  unfold cvtStore
  rw [← codes]

/-- An identical in-place conversion stores each row from what stands there when its turn comes. -/
theorem cvtBody_inPlace (st : Nat) (s : State) {w : WinCmd} {c : Cvt} (h : CvtWhole w.record c) (hp : cvtInPlace w.record = true) :
    ∃ (bad : State → Nat → Bool) (l : State → Nat → List Narrowed), (cvtBody st s w).mem
      = ((List.range c.rows).foldl (fun u r => (cvtStore st c (u.cvtCodes st c) (bad u) u r).countNarrow st (l u r)) s).mem := by
  obtain ⟨hloc, hstride, hbytes⟩ := h.same_place hp
  refine ⟨fun u r => u.spanPoison st (c.src.loc + r * c.src.stride) (rowBytes c.srcFmt c.cols),
    fun u r => (u.rowCodes st c.src c.srcFmt c.cols r).map (cvtElem c), ?_⟩
  have body : cvtBody st s w = cvtInOrder st s w c := by
    unfold cvtBody
    simp only [h.parse, hp, h.src, h.inPlace hp, beq_self_eq_true, Bool.and_self, if_true]
  rw [body]
  unfold cvtInOrder
  rw [State.finish_mem]
  refine congrArg State.mem (foldl_congr_mem _ _ _ (fun u r _ => ?_) _)
  simp only [cvtStore, State.cvtCodes, State.rowCodes, List.map_map, ← hloc, ← hstride, ← hbytes, h.inPlace hp]
  rfl

/-- After the conversion every byte of a row is the byte of its element's code, the element as it stood at the start. -/
theorem cvtBody_byte (st : Nat) (s : State) {w : WinCmd} {c : Cvt} (h : CvtWhole w.record c) (r j : Nat) (hr : r < c.rows)
    (hj : j < rowBytes c.dstFmt c.cols) :
    (cvtBody st s w).byte (stbKey st (c.dst.loc + r * c.dst.stride) + j) = c.rowByte (s.cvtCodes st c r) j := by
  unfold State.byte
  cases hp : cvtInPlace w.record with
  | false =>
    obtain ⟨bad, l, e⟩ := cvtBody_apart st s h hp
    rw [e]
    exact (rows_written (s.countNarrow st l) _ st c.dst.loc c.dst.stride _ c.rows (fun r => c.rowByte (s.cvtCodes st c r)) h.rows
      (fun u r k hk => byte_cvtStore_ne st c _ bad u r k hk)
      (fun u r _ _ j hj => byte_cvtStore st c _ bad u r j h.whole (State.cvtCodes_length s st c r) hj)
      c.rows (Nat.le_refl _)).1 r j hr hj
  | true =>
    obtain ⟨bad, l, e⟩ := cvtBody_inPlace st s h hp
    obtain ⟨hloc, hstride, hbytes⟩ := h.same_place hp
    rw [e]
    refine (rows_written s _ st c.dst.loc c.dst.stride _ c.rows (fun r => c.rowByte (s.cvtCodes st c r)) h.rows
      (fun u r k hk => ?_) (fun u r _ hu j hj => ?_) c.rows (Nat.le_refl _)).1 r j hr hj
    · rw [State.byte_countNarrow, byte_cvtStore_ne _ _ _ _ _ _ _ hk]
    · have codes : u.cvtCodes st c r = s.cvtCodes st c r := by
        unfold State.cvtCodes State.rowCodes
        rw [hloc, hstride, hbytes, State.stbRead_congr s u st _ _ hu]
      rw [State.byte_countNarrow, byte_cvtStore st c _ _ u r j h.whole (State.cvtCodes_length u st c r) hj, codes]

/-- CVT in the stall buffer to a format of whole bytes (R64, R65). -/
theorem exec_cvt_holdsAt {s : State} {st : Stall} {seq : Word} {w : WinCmd} {c : Cvt} (h : s.engineHas st seq opCvt w)
    (hc : checkCvt st s w = .run) (hw : CvtWhole w.record c) :
    Ends (.cvt st seq) s fun t => ∀ r k, r < c.rows → k < c.cols →
      t.holdsAt (stbKey st (c.dst.loc + r * c.dst.stride + k * (fmtBits c.dstFmt / 8))) (fmtBits c.dstFmt / 8)
        (cvtElem c (packedCode (s.stbRead st (c.src.loc + r * c.src.stride) (rowBytes c.srcFmt c.cols)) (fmtBits c.srcFmt) k)).code := by
  have run := State.engine_runs h hc (fun w => let c := parseCvt w.record; if c.rows = 0 || c.cols = 0 then [] else [c.src])
    (cvtBody st) (fun _ _ => []) (fun s w => s.finish st w) (buffered_source _ _ (by rw [hw.parse]; exact hw.src))
  refine ⟨_, done_awake h.awake _, fun r k hr hk i hi => ?_⟩
  have inRow : k * (fmtBits c.dstFmt / 8) + i < rowBytes c.dstFmt c.cols := by
    have := Nat.mul_le_mul_right (fmtBits c.dstFmt / 8) (Nat.succ_le_of_lt hk)
    rw [Nat.succ_mul] at this
    rw [rowBytes_whole _ _ hw.whole, Nat.mul_comm (fmtBits c.dstFmt / 8)]
    omega
  have e := cvtBody_byte st s (w := { w with issued := true, snap := [] }) hw r _ hr inRow
  rw [Cvt.rowByte_elem c _ k i hi, State.cvtCodes_getD s st c r k hk, ← Nat.add_assoc, stbKey_add] at e
  rw [run, ← e]
  exact congrArg (Memory.read · _) (conclude_mem _ _)

end Sys2Proof.Machine
end

section
/-! PROOF. HIST of a source in the stall buffer and HGU_CLEAR (R66 to R68): the bins and the NaN count of the stall. -/
namespace Sys2Proof.Machine

/-- The bins of a stall and its NaN count are registers of their own. -/
theorem hguBin_key_inj {st b j : Nat} (h : Reg.HGU_BIN.key st b = Reg.HGU_BIN.key st j) : b = j := by
  simp only [Loc.key, Reg.HGU_BIN] at h; omega
theorem hguBin_ne_nanCnt (st b : Nat) : Reg.HGU_BIN.key st b ≠ Reg.HGU_NAN_CNT.key st 0 := by
  simp only [Loc.key, Reg.HGU_BIN, Reg.HGU_NAN_CNT]; omega
theorem hguBin_ne_status (st b : Nat) : Reg.HGU_BIN.key st b ≠ Reg.HGU_STATUS.key st 0 := by
  simp only [Loc.key, Reg.HGU_BIN, Reg.HGU_STATUS]; omega
theorem hguNanCnt_ne_status (st : Nat) : Reg.HGU_NAN_CNT.key st 0 ≠ Reg.HGU_STATUS.key st 0 := by
  simp only [Loc.key, Reg.HGU_NAN_CNT, Reg.HGU_STATUS]; omega

/-! ### Counters that hold at their largest value (R461) -/

theorem State.fld_lt (s : State) (f : Fld) (u i : Nat) : s.fld f u i < 2 ^ (f.hi + 1 - f.lo) := Nat.mod_lt _ (Nat.two_pow_pos _)

theorem State.fld_bump_eq (s : State) (f : Fld) (n u i : Nat) (hb : f.loc.bytes ≤ 8) (hh : f.hi < 8 * f.loc.bytes) :
    (s.bump f n u i).fld f u i = min (s.fld f u i + n) (2 ^ (f.hi + 1 - f.lo) - 1) := by
  unfold State.bump
  rw [State.fld_setFld_eq _ _ _ _ _ hb hh, Nat.mod_eq_of_lt]
  have := Nat.two_pow_pos (f.hi + 1 - f.lo)
  omega

theorem State.fld_bump_ne (s : State) (f g : Fld) (n u i v j : Nat) (h : g.loc.key v j ≠ f.loc.key u i) :
    (s.bump f n u i).fld g v j = s.fld g v j := State.fld_setFld_ne _ _ _ _ _ _ _ _ h

theorem State.fld_setIf_ne (s : State) (c : Bool) (f g : Fld) (u i v j : Nat) (h : g.loc.key v j ≠ f.loc.key u i) :
    (s.setIf c f u i).fld g v j = s.fld g v j := by
  cases c with
  | false => rfl
  | true => exact State.fld_setFld_ne _ _ _ _ _ _ _ _ h

/-! ### One element, and all of them -/

/-- Counting an element changes registers only. -/
theorem State.histAdd_eq (s : State) (st : Nat) (o : Option Nat) : s.histAdd st o = { s with regs := (s.histAdd st o).regs } := by
  cases o with
  | none => rfl
  | some b =>
    unfold State.histAdd State.setIf
    dsimp only
    split <;> rfl

theorem State.bin_histAdd (s : State) (st b : Nat) (o : Option Nat) :
    (s.histAdd st o).fld Reg.HGU_BIN_COUNT st b = min (s.fld Reg.HGU_BIN_COUNT st b + if o == some b then 1 else 0) (2 ^ 32 - 1) := by
  have top := State.fld_lt s Reg.HGU_BIN_COUNT st b
  simp only [Reg.HGU_BIN_COUNT] at top
  cases o with
  | none =>
    unfold State.histAdd
    rw [State.fld_bump_ne _ _ _ _ _ _ _ _ (hguBin_ne_nanCnt st b), if_neg (by simp)]
    simp only [Reg.HGU_BIN_COUNT]
    omega
  | some j =>
    unfold State.histAdd
    rw [State.fld_setIf_ne _ _ _ _ _ _ _ _ (hguBin_ne_status st b)]
    by_cases h : j = b
    · subst h
      rw [if_pos (by simp)]
      exact State.fld_bump_eq _ _ _ _ _ (by decide) (by decide)
    · rw [if_neg (by simpa using h), State.fld_bump_ne _ _ _ _ _ _ _ _ fun e => h (hguBin_key_inj e).symm]
      simp only [Reg.HGU_BIN_COUNT]
      omega

theorem State.nanCnt_histAdd (s : State) (st : Nat) (o : Option Nat) :
    (s.histAdd st o).fld Reg.HGU_NAN_CNT_COUNT st = min (s.fld Reg.HGU_NAN_CNT_COUNT st + if o.isNone then 1 else 0) (2 ^ 32 - 1) := by
  have top := State.fld_lt s Reg.HGU_NAN_CNT_COUNT st 0
  simp only [Reg.HGU_NAN_CNT_COUNT] at top
  cases o with
  | none => exact State.fld_bump_eq _ _ _ _ _ (by decide) (by decide)
  | some j =>
    unfold State.histAdd
    rw [State.fld_setIf_ne _ _ _ _ _ _ _ _ (hguNanCnt_ne_status st), if_neg (by simp),
      State.fld_bump_ne _ _ _ _ _ _ _ _ (hguBin_ne_nanCnt st j).symm]
    simp only [Reg.HGU_NAN_CNT_COUNT]
    omega

/-- A counter to which every step adds one where the element meets `p`, holding at its largest value, counts the elements that meet it. -/
theorem foldl_count {α : Type} (f : State → α → State) (p : α → Bool) (g : State → Nat) (top : Nat) (hs : ∀ u, g u ≤ top)
    (step : ∀ u a, g (f u a) = min (g u + if p a then 1 else 0) top) (l : List α) (s : State) :
    g (l.foldl f s) = min (g s + (l.filter p).length) top := by
  induction l generalizing s with
  | nil => exact (Nat.min_eq_left (hs s)).symm
  | cons a l ih =>
    rw [List.foldl_cons, ih, step]
    by_cases h : p a = true
    · rw [if_pos h, List.filter_cons_of_pos h, List.length_cons]; omega
    · rw [if_neg h, List.filter_cons_of_neg h]; omega

/-- The codes of a source in the stall buffer, row after row. -/
def State.tensorCodes (s : State) (st : Nat) (d : Desc) (rows cols : Nat) : List Nat :=
  (List.range rows).flatMap (s.rowCodes st d d.fmt cols)

/-- Every element of a HIST's source counted in its bin, in the mode and range of `snap`. -/
def State.histAll (s : State) (st : Nat) (snap : List Nat) (c : Hist) : State :=
  (s.tensorCodes st c.src c.rows c.cols).foldl (fun u x => u.histAdd st (s.histBin snap c.src x)) s

theorem State.histAll_fltSerial (s : State) (st : Nat) (snap : List Nat) (c : Hist) : (s.histAll st snap c).fltSerial = s.fltSerial :=
  foldl_keeps State.fltSerial _ (fun u x => by rw [State.histAdd_eq]) _ s
theorem State.histAll_ledger (s : State) (st : Nat) (snap : List Nat) (c : Hist) : (s.histAll st snap c).ledger = s.ledger :=
  foldl_keeps State.ledger _ (fun u x => by rw [State.histAdd_eq]) _ s

/-- A HIST of a source in the stall buffer counts its elements and completes. -/
theorem histBody_eq (st : Nat) (s : State) (w : WinCmd) (hk : (parseHist w.record).src.kind = 0) (hsumm : w.summ = none) :
    ∃ d, histBody st s w = { s.histAll st w.snap (parseHist w.record) with dsp := d } := by
  have all : histBody st s w = (s.histAll st w.snap (parseHist w.record)).finish st w := by
    unfold histBody State.histAll State.tensorCodes
    rw [List.foldl_flatMap]
    refine congrArg (State.finish · st w) (foldl_congr_mem _ _ _ (fun u r hr => ?_) _)
    rw [State.img_row s st w _ _ _ _ r hk (List.mem_range.mp hr)]
  exact ⟨_, all.trans (State.finish_eq _ st w hsumm)⟩

/-- The registers after a HIST are those of its counts: it raises no event and changes no ledger entry. -/
theorem exec_hist_regs {s : State} {st : Stall} {seq : Word} {w : WinCmd} (h : s.engineHas st seq opHist w)
    (hc : checkHist st s w = .run) (hk : (parseHist w.record).src.kind = 0) :
    Ends (.hist st seq) s fun t => t.regs = (s.histAll st (histSnap st s w) (parseHist w.record)).regs := by
  obtain ⟨_, _, hsumm, _⟩ := h.fresh
  have run := State.engine_runs h hc (fun w => let c := parseHist w.record; if c.rows = 0 || c.cols = 0 then [] else [c.src])
    (histBody st) (histSnap st) (fun s w => s.finish st w) (buffered_source _ _ hk)
  obtain ⟨d, body⟩ := histBody_eq st s { w with issued := true, snap := histSnap st s w } hk hsumm
  refine ⟨_, done_awake h.awake _, ?_⟩
  rw [run, body, conclude_plain]
  · exact settle_regs s _
  · exact State.histAll_fltSerial s st _ _
  · exact State.histAll_ledger s st _ _

theorem State.fld_congr {s t : State} (h : t.regs = s.regs) (f : Fld) (u i : Nat) : t.fld f u i = s.fld f u i := by
  unfold State.fld State.rd
  rw [h]

/-- HIST of a source in the stall buffer (R66, R67). -/
theorem exec_hist_counts {s : State} {st : Stall} {seq : Word} {w : WinCmd} (h : s.engineHas st seq opHist w)
    (hc : checkHist st s w = .run) (hk : (parseHist w.record).src.kind = 0) :
    let codes := s.tensorCodes st (parseHist w.record).src (parseHist w.record).rows (parseHist w.record).cols
    let bin := s.histBin (histSnap st s w) (parseHist w.record).src
    Ends (.hist st seq) s fun t =>
      (∀ b, t.fld Reg.HGU_BIN_COUNT st b
          = min (s.fld Reg.HGU_BIN_COUNT st b + (codes.filter fun x => bin x == some b).length) (2 ^ 32 - 1))
        ∧ t.fld Reg.HGU_NAN_CNT_COUNT st
          = min (s.fld Reg.HGU_NAN_CNT_COUNT st + (codes.filter fun x => (bin x).isNone).length) (2 ^ 32 - 1) := by
  intro codes bin
  obtain ⟨t, ht, regs⟩ := exec_hist_regs h hc hk
  refine ⟨t, ht, fun b => ?_, ?_⟩
  · rw [State.fld_congr regs]
    exact foldl_count _ (fun x => bin x == some b) (fun u => u.fld Reg.HGU_BIN_COUNT st b) _
      (fun u => Nat.le_sub_one_of_lt (State.fld_lt u Reg.HGU_BIN_COUNT st b)) (fun u x => State.bin_histAdd u st b (bin x)) codes s
  · rw [State.fld_congr regs]
    exact foldl_count _ (fun x => (bin x).isNone) (fun u => u.fld Reg.HGU_NAN_CNT_COUNT st) _
      (fun u => Nat.le_sub_one_of_lt (State.fld_lt u Reg.HGU_NAN_CNT_COUNT st 0)) (fun u x => State.nanCnt_histAdd u st (bin x)) codes s

/-! ### HGU_CLEAR -/

/-- The bins 0 to `m − 1` of a stall written to zero. -/
def State.clearBins (s : State) (st m : Nat) : State := (List.range m).foldl (fun u b => u.wr Reg.HGU_BIN 0 st b) s

theorem State.clearBins_succ (s : State) (st m : Nat) : s.clearBins st (m + 1) = (s.clearBins st m).wr Reg.HGU_BIN 0 st m := by
  unfold State.clearBins
  rw [List.range_succ, List.foldl_append]
  rfl

theorem State.clearBins_eq (s : State) (st m : Nat) : s.clearBins st m = { s with regs := (s.clearBins st m).regs } := by
  induction m with
  | zero => rfl
  | succ m ih => rw [State.clearBins_succ, ih]; rfl

theorem State.rd_clearBins (s : State) (st m b : Nat) (h : b < m) : (s.clearBins st m).rd Reg.HGU_BIN st b = 0 := by
  induction m with
  | zero => omega
  | succ m ih =>
    rw [State.clearBins_succ]
    by_cases hb : b = m
    · subst hb
      exact State.rd_wr_eq _ _ _ _ _ (by decide)
    · rw [State.rd_wr_ne _ _ _ _ _ _ _ _ fun e => hb (hguBin_key_inj e), ih (by omega)]

theorem State.rd_clearBins_ne (s : State) (st m : Nat) (r : Loc) (u i : Nat) (h : ∀ b, b < m → r.key u i ≠ Reg.HGU_BIN.key st b) :
    (s.clearBins st m).rd r u i = s.rd r u i := by
  induction m with
  | zero => rfl
  | succ m ih =>
    rw [State.clearBins_succ, State.rd_wr_ne _ _ _ _ _ _ _ _ (h m (by omega)), ih fun b hb => h b (by omega)]

theorem State.hguClear_eq (s : State) (st : Nat) : s.hguClear st = (s.clearBins st 256).wr Reg.HGU_NAN_CNT 0 st := rfl

/-- HGU_CLEAR takes the bins and the NaN count of the stall to zero and leaves every other register and the memories (R68). -/
theorem exec_hguClear_zeroes {s : State} {st : Stall} (ha : s.awake) (hu : s.stallUp st = true) :
    Ends (.hguClear st) s fun t => (∀ b, b < 256 → t.rd Reg.HGU_BIN st b = 0) ∧ t.rd Reg.HGU_NAN_CNT st = 0 ∧ MemSame s t
      ∧ RegsKept s t (Reg.HGU_NAN_CNT.key st 0 :: (List.range 256).map fun b => Reg.HGU_BIN.key st b) := by
  have frame := State.clearBins_eq s st 256
  have run : exec (.hguClear st) s = .next (settle s (s.hguClear st)) := by
    have e : exec (.hguClear st) s = done s (s.hguClear st) := if_pos hu
    rw [e, done_awake ha, conclude_plain]
    · rw [State.hguClear_eq, frame, State.wr_fltSerial]
    · rw [State.hguClear_eq, frame, State.wr_ledger]
  refine ⟨_, run, fun b hb => ?_, ?_, fun j => ?_, fun r u i hr => ?_⟩
  · rw [rd_settle, State.hguClear_eq, State.rd_wr_ne _ _ _ _ _ _ _ _ (hguBin_ne_nanCnt st b), State.rd_clearBins s st 256 b hb]
  · rw [rd_settle, State.hguClear_eq, State.rd_wr_eq _ _ _ _ _ (by decide)]
    rfl
  · unfold State.byte
    rw [settle_mem, State.hguClear_eq, State.wr_mem, frame]
  · simp only [List.mem_cons, List.mem_map, List.mem_range, not_or, not_exists, not_and] at hr
    rw [rd_settle, State.hguClear_eq, State.rd_wr_ne _ _ _ _ _ _ _ _ hr.1,
      State.rd_clearBins_ne s st 256 r u i fun b hb e => hr.2 b hb e.symm]

/-! ### The obligation -/

/-- Settles O24: CVT writes its converted rows, HIST counts its elements in bins that hold at their largest value, HGU_CLEAR zeroes them. -/
theorem conversionAndHistogram : Obligations.ConversionAndHistogram := by
  intro s st seq w c h
  refine ⟨fun he hc hs hd hw hp hr => exec_cvt_holdsAt he (Verdict.eq_run hc) ⟨rfl, hs, hd, hw, hp, hr⟩, fun he hc hk => ?_,
    exec_hguClear_zeroes⟩
  obtain ⟨t, ht, bins, nans⟩ := exec_hist_counts he (Verdict.eq_run hc) hk
  exact ⟨t, ht, fun b _ => bins b, nans⟩

end Sys2Proof.Machine
end

section
/-! SUPPORT. A list of stores whose later members store parts of the first once more (R139, R140): such a member changes POISON bits and no byte. -/
namespace Sys2Proof.Machine

theorem cellByte_idem (old : Byte) (c : Option (Byte × Byte)) : cellByte (cellByte old c) c = cellByte old c := by
  match c with
  | none => rfl
  | some (b, m) =>
    unfold cellByte mergeByte
    dsimp only
    split
    · rfl
    · ext i hi
      simp only [BitVec.getElem_or, BitVec.getElem_and, BitVec.getElem_not]
      cases m[i] <;> simp

@[simp] theorem State.storeOuts_nil (s : State) (st loc : Nat) : s.storeOuts st loc [] = s := rfl
@[simp] theorem State.storeOuts_cons (s : State) (st loc : Nat) (o : Nat × Cells × Bool) (l : Outs) :
    s.storeOuts st loc (o :: l) = (s.stbStore st (loc + o.1) o.2.1 o.2.2).storeOuts st loc l := rfl

/-- A command whose destination is no ring stores at once. -/
theorem State.deliver_mem (s : State) (st : Nat) (w : WinCmd) (d : Desc) (outs : Outs) (h : d.kind ≠ 3) :
    (s.deliver st w d outs).mem = (s.storeOuts st d.loc outs).mem := by
  unfold State.deliver
  rw [if_neg h, State.finish_mem]
  rfl

/-- The bytes from `off` on are as a store of the cells there leaves them. -/
def State.holdsCells (s : State) (st off : Nat) (cells : Cells) : Prop :=
  ∀ j, j < cells.length → cellByte (s.byte (stbKey st off + j)) (cells.getD j none) = s.byte (stbKey st off + j)

theorem State.holdsCells_stbStore (s : State) (st off : Nat) (cells : Cells) (p : Bool) : (s.stbStore st off cells p).holdsCells st off cells := by
  intro j hj
  rw [State.byte_stbStore, if_pos (by omega), Nat.add_sub_cancel_left, cellByte_idem]

/-- Every member stores a part of the cells that begin at `base`, at its place. -/
def PartsOf (base : Nat) (cells : Cells) (l : Outs) : Prop :=
  ∀ o ∈ l, ∃ a n p, o = (base + a, (cells.drop a).take n, p)

/-- Where the cells stand, a store of a part of them changes no byte. -/
theorem State.byte_stbStore_part (s : State) (st off : Nat) (cells : Cells) (a n : Nat) (p : Bool) (h : s.holdsCells st off cells) (k : Nat) :
    (s.stbStore st (off + a) ((cells.drop a).take n) p).byte k = s.byte k := by
  rw [State.byte_stbStore]
  split
  · next hk =>
    rw [List.length_take, List.length_drop, ← stbKey_add] at hk
    obtain ⟨j, rfl⟩ : ∃ j, k = stbKey st off + (a + j) := ⟨k - stbKey st off - a, by omega⟩
    have cell : ((cells.drop a).take n).getD (stbKey st off + (a + j) - stbKey st (off + a)) none = cells.getD (a + j) none := by
      rw [← stbKey_add, ← Nat.add_assoc, Nat.add_sub_cancel_left, List.getD_eq_getElem?_getD, List.getElem?_take_of_lt (by omega),
        List.getElem?_drop, ← List.getD_eq_getElem?_getD]
    rw [cell]
    exact h (a + j) (by omega)
  · rfl

theorem State.byte_storeOuts_parts (s : State) (st loc base : Nat) (cells : Cells) (l : Outs) (hp : PartsOf base cells l)
    (h : s.holdsCells st (loc + base) cells) (k : Nat) : (s.storeOuts st loc l).byte k = s.byte k := by
  induction l generalizing s with
  | nil => rfl
  | cons o l ih =>
    obtain ⟨a, n, p, rfl⟩ := hp o List.mem_cons_self
    have same : ∀ k, (s.stbStore st (loc + (base + a)) ((cells.drop a).take n) p).byte k = s.byte k := fun k => by
      rw [← Nat.add_assoc]; exact State.byte_stbStore_part s st (loc + base) cells a n p h k
    rw [State.storeOuts_cons, ih _ (fun o ho => hp o (List.mem_cons_of_mem _ ho)) fun j hj => by rw [same]; exact h j hj, same]

/-- A store followed by stores of its parts leaves the bytes of the one store. -/
theorem State.byte_storeOuts_whole (s : State) (st loc base : Nat) (cells : Cells) (p : Bool) (l : Outs) (hp : PartsOf base cells l) (k : Nat) :
    (s.storeOuts st loc ((base, cells, p) :: l)).byte k = (s.stbStore st (loc + base) cells p).byte k :=
  State.byte_storeOuts_parts _ st loc base cells l hp (State.holdsCells_stbStore s st _ cells p) k

/-! ### Vectors of 32-bit words -/

/-- The bytes of item `i` of a list of items of `n` bytes each. -/
theorem flatMap_item {α : Type} (f : α → List Byte) (n : Nat) (hf : ∀ x, (f x).length = n) (l : List α) (i : Nat) (d : α) (h : i < l.length) :
    ((l.flatMap f).drop (n * i)).take n = f (l.getD i d) := by
  induction l generalizing i with
  | nil => exact absurd h (Nat.not_lt_zero i)
  | cons x l ih =>
    cases i with
    | zero => rw [List.flatMap_cons, Nat.mul_zero, List.drop_zero, List.take_left' (hf x)]; rfl
    | succ i =>
      have past : n * (i + 1) = (f x).length + n * i := by rw [hf, Nat.mul_succ, Nat.add_comm]
      rw [List.flatMap_cons, past, List.drop_length_add_append, ih i (Nat.lt_of_succ_lt_succ h)]
      rfl

/-- The bytes of a vector of words. -/
def wordBytes (l : List (Word × Bool)) : List Byte := l.flatMap fun x => leBytes x.1.toNat 4

theorem wordBytes_item (l : List (Word × Bool)) (i : Nat) (h : i < l.length) :
    ((wordBytes l).drop (4 * i)).take 4 = leBytes (l.getD i (0, false)).1.toNat 4 :=
  flatMap_item (fun x : Word × Bool => leBytes x.1.toNat 4) 4 (fun x => leBytes_length x.1.toNat 4) l i (0, false) h

theorem wordBytes_length (l : List (Word × Bool)) : (wordBytes l).length = 4 * l.length := by
  induction l with
  | nil => rfl
  | cons x l ih =>
    unfold wordBytes at ih ⊢
    rw [List.flatMap_cons, List.length_append, leBytes_length, ih, List.length_cons]
    omega

theorem wordOuts_eq (l : List (Word × Bool)) :
    ∃ parts, wordOuts l = (0, fullCells (wordBytes l), false) :: parts ∧ PartsOf 0 (fullCells (wordBytes l)) parts := by
  refine ⟨_, rfl, fun o ho => ?_⟩
  obtain ⟨i, hi, rfl⟩ := List.mem_map.mp ho
  have hi : i < l.length := List.mem_range.mp (List.mem_filter.mp hi).1
  refine ⟨4 * i, 4, true, ?_⟩
  rw [Nat.zero_add, ← wordBytes_item l i hi]
  simp [fullCells, List.map_take, List.map_drop]

theorem State.byte_storeOuts_words (s : State) (st loc : Nat) (l : List (Word × Bool)) (k : Nat) :
    (s.storeOuts st loc (wordOuts l)).byte k = (s.stbStore st loc (fullCells (wordBytes l)) false).byte k := by
  obtain ⟨parts, e, hp⟩ := wordOuts_eq l
  rw [e]
  exact State.byte_storeOuts_whole s st loc 0 _ false parts hp k

theorem fullCells_length (l : List Byte) : (fullCells l).length = l.length := List.length_map _

/-- A byte beside a stored vector of words reads as before. -/
theorem State.byte_storeOuts_words_ne (s : State) (st loc : Nat) (l : List (Word × Bool)) (k : Nat)
    (h : k < stbKey st loc ∨ stbKey st loc + 4 * l.length ≤ k) : (s.storeOuts st loc (wordOuts l)).byte k = s.byte k := by
  rw [State.byte_storeOuts_words, State.byte_stbStore_ne]
  rwa [fullCells_length, wordBytes_length]

/-- A stored vector of words holds its word `i`, low byte first. -/
theorem State.holdsAt_storeOuts_words (s : State) (st loc : Nat) (l : List (Word × Bool)) (i : Nat) (h : i < l.length) :
    (s.storeOuts st loc (wordOuts l)).holdsAt (stbKey st (loc + 4 * i)) 4 (l.getD i (0, false)).1.toNat := by
  intro j hj
  have cell : (fullCells (wordBytes l)).getD (4 * i + j) none = some ((leBytes (l.getD i (0, false)).1.toNat 4).getD j 0, 0xFF#8) := by
    have inside : 4 * i + j < (wordBytes l).length := by rw [wordBytes_length]; omega
    rw [← wordBytes_item l i h]
    simp [fullCells, inside, hj]
  rw [State.byte_storeOuts_words, State.byte_stbStore, ← stbKey_add, Nat.add_assoc, Nat.add_sub_cancel_left, cell, leBytes_getD _ _ _ hj,
    if_pos ⟨by omega, by rw [fullCells_length, wordBytes_length]; omega⟩]
  rfl

/-- What the bytes hold rests on the memories only. -/
theorem State.holdsAt_congr {s t : State} (h : t.mem = s.mem) (k n v : Nat) : t.holdsAt k n v ↔ s.holdsAt k n v := by
  unfold State.holdsAt State.byte
  rw [h]

end Sys2Proof.Machine
end

section
/-! PROOF. VCHAIN of a source in the stall buffer with immediate operands, stored there as FP32 (R117, R122, R126); MAX, MIN, CLAMP and the
comparisons (R125). -/
namespace Sys2Proof.Machine

/-- A record whose chain `v` takes its source from the stall buffer and its operands from the record, has no mask and no reduction, and stores
FP32 rows there that share no byte. -/
structure VchainPlain (rec : List Byte) (v : Vchain) : Prop where
  parse : parseVchain rec = v
  src : v.src.kind = 0
  stages : ∀ g ∈ v.stages, g.bsrc ≤ 1 ∧ g.csrc ≤ 1
  mask : v.mask.present = false
  red : v.hasRed = false
  present : v.store.present = true
  kind : v.store.kind = 0
  fmt : v.store.fmt = 8
  rows : v.rows = 1 ∨ 4 * v.cols ≤ v.store.stride

/-- A chain whose operands are immediate takes none from a tensor. -/
theorem VchainPlain.allOperands {rec : List Byte} {v : Vchain} (h : VchainPlain rec v) : v.allOperands = [] := by
  refine List.filter_eq_nil_iff.mpr fun x hx => ?_
  obtain ⟨g, hg, hx⟩ := List.mem_flatMap.mp hx
  obtain ⟨hb, hc⟩ := h.stages g hg
  simp only [Stage.operands, List.mem_cons, List.not_mem_nil, or_false] at hx
  rcases hx with rfl | rfl
  · exact fun big => absurd (of_decide_eq_true big) (Nat.not_le_of_lt (Nat.lt_succ_of_le hb))
  · exact fun big => absurd (of_decide_eq_true big) (Nat.not_le_of_lt (Nat.lt_succ_of_le hc))

/-- An operand code of 0 or 1 gives zero or the immediate. -/
theorem State.opndValue_imm (s : State) (st : Nat) (w : WinCmd) (v : Vchain) (code : Nat) (d : Desc) (imm : Word) (r c : Nat) (h : code ≤ 1) :
    s.opndValue st w v code d imm r c = if code = 0 then 0 else imm := by
  match code, h with
  | 0, _ => rfl
  | 1, _ => rfl

/-- The values of the chain at element (r, k) of a source in the stall buffer, its operands immediate. -/
def State.chainTaps (s : State) (st : Nat) (v : Vchain) (r k : Nat) : List StageOut :=
  chainRun (v.stages.map fun g => (g.op, if g.bsrc = 0 then 0 else g.immB, if g.csrc = 0 then 0 else g.immC))
    (widen32 v.src.fmt v.src.zpOpt (packedCode (s.stbRead st (v.src.loc + r * v.src.stride) (rowBytes v.src.fmt v.cols)) (fmtBits v.src.fmt) k))

/-- The FP32 code that the chain stores for element (r, k). -/
def State.chainCode (s : State) (st : Nat) (v : Vchain) (r k : Nat) : Nat :=
  (narrow false 8 v.store.zpOpt (f32Dec ((s.chainTaps st v r k).getD v.storeAt ⟨0, false, false, false⟩).v)).code

/-- An element of a source in the stall buffer is the code that its row holds there, widened (R118). -/
theorem State.elem_buffered (s : State) (st : Nat) (w : WinCmd) (d : Desc) (rows cols r k : Nat) (h : d.kind = 0) (hr : r < rows) (hk : k < cols) :
    s.elem st d (s.img st w d (spanBytes d.fmt d.stride rows cols)) cols r k
      = widen32 d.fmt d.zpOpt (packedCode (s.stbRead st (d.loc + r * d.stride) (rowBytes d.fmt cols)) (fmtBits d.fmt) k) := by
  have row := congrArg (fun l => l.getD k 0) (State.img_row s st w d d.fmt rows cols r h hr)
  simp only [Img.row, State.rowCodes, List.getD_eq_getElem?_getD, List.getElem?_map, List.getElem?_range hk, Option.map_some,
    Option.getD_some] at row
  unfold State.elem
  rw [if_neg (by omega), if_neg (by omega), row]

theorem State.chainElem_plain (s : State) (st : Nat) {w : WinCmd} {v : Vchain} (h : VchainPlain w.record v) (r k : Nat) (hr : r < v.rows)
    (hk : k < v.cols) : s.chainElem st w v r k = ⟨s.chainTaps st v r k, true⟩ := by
  have ops : v.stages.map (fun g => (g.op, s.opndValue st w v g.bsrc g.b g.immB r k, s.opndValue st w v g.csrc g.c g.immC r k))
      = v.stages.map fun g => (g.op, if g.bsrc = 0 then 0 else g.immB, if g.csrc = 0 then 0 else g.immC) :=
    List.map_congr_left fun g hg => by
      rw [State.opndValue_imm _ _ _ _ _ _ _ _ _ (h.stages g hg).1, State.opndValue_imm _ _ _ _ _ _ _ _ _ (h.stages g hg).2]
  unfold State.chainElem State.chainTaps maskBit
  rw [ops, State.elem_buffered s st w v.src v.rows v.cols r k h.src hr hk, h.mask]
  rfl

/-- The codes that a chain stores in row `r`. -/
def State.chainCodes (s : State) (st : Nat) (v : Vchain) (r : Nat) : List Nat := (List.range v.cols).map (s.chainCode st v r)

@[simp] theorem State.chainCodes_length (s : State) (st : Nat) (v : Vchain) (r : Nat) : (s.chainCodes st v r).length = v.cols := by
  simp [State.chainCodes]

/-- The tile rows of a row stored once more are parts of it. -/
theorem poisonedOuts_eq (base w : Nat) (cells : Cells) (bad : List Bool) :
    ∃ parts, poisonedOuts base w cells bad = (base, cells, false) :: parts ∧ PartsOf base cells parts := by
  refine ⟨_, rfl, fun o ho => ?_⟩
  obtain ⟨t, _, rfl⟩ := List.mem_map.mp ho
  exact ⟨8 * w * t, 8 * w, true, rfl⟩

/-- The store of one row of FP32 codes with its poisoned tile rows. -/
def vchainStore (st : Nat) (v : Vchain) (codes : Nat → List Nat) (bad : Nat → List Bool) (u : State) (r : Nat) : State :=
  u.storeOuts st v.store.loc (poisonedOuts (r * v.store.stride) 32 (rowCells (4 * v.cols) 32 ((codes r).map some)) (bad r))

theorem byte_vchainStore (st : Nat) (v : Vchain) (codes : Nat → List Nat) (bad : Nat → List Bool) (u : State) (r k : Nat) :
    (vchainStore st v codes bad u r).byte k
      = (u.stbStore st (v.store.loc + r * v.store.stride) (rowCells (4 * v.cols) 32 ((codes r).map some)) false).byte k := by
  obtain ⟨parts, e, hp⟩ := poisonedOuts_eq (r * v.store.stride) 32 (rowCells (4 * v.cols) 32 ((codes r).map some)) (bad r)
  unfold vchainStore
  rw [e]
  exact State.byte_storeOuts_whole u st v.store.loc _ _ false parts hp k

theorem rowBytes_fp32 (cols : Nat) : rowBytes 8 cols = 4 * cols := rowBytes_whole 8 cols rfl

/-- A plain chain computes every element from the state that it finds and stores row after row. -/
theorem vchainBody_plain (st : Nat) (s : State) {w : WinCmd} {v : Vchain} (h : VchainPlain w.record v) (rows : v.rows ≠ 0) (cols : v.cols ≠ 0) :
    ∃ u bad, (vchainBody st s w).mem = ((List.range v.rows).foldl (vchainStore st v (s.chainCodes st v) bad) u).mem := by
  have red : ∀ f es bad, v.reduce f es bad = ([], f) := fun f es bad => by unfold Vchain.reduce; rw [h.red]; rfl
  have writes : v.redWrites = false := by unfold Vchain.redWrites; rw [h.red]; rfl
  have kind : v.store.kind ≠ 3 := by rw [h.kind]; decide
  have kind2 : v.store.kind ≠ 2 := by rw [h.kind]; decide
  unfold vchainBody
  simp only [h.parse, rows, cols, h.present, kind2, red, writes, decide_false, Bool.or_self, Bool.false_and, Bool.not_true, Bool.false_eq_true,
    if_false, State.deliver_mem _ _ _ _ _ kind]
  simp only [State.storeOuts, List.foldl_flatMap, h.fmt]
  refine ⟨_, fun r => (List.range ((v.cols + 63) / 64)).map fun t => s.tileRowPoison st w v r t,
    congrArg State.mem (foldl_congr_mem _ _ _ (fun u r mem => ?_) _)⟩
  have hr : r < v.rows := List.mem_range.mp mem
  have codes : (List.range v.cols).map (fun k => (some (s.chainCode st v r k) : Option Nat)) = (s.chainCodes st v r).map some := by
    simp [State.chainCodes]
  have elems : (List.range v.cols).map (fun k => s.chainElem st w v r k) = (List.range v.cols).map fun k => ⟨s.chainTaps st v r k, true⟩ :=
    List.map_congr_left fun k hk => State.chainElem_plain s st h r k hr (List.mem_range.mp hk)
  unfold vchainStore
  rw [← codes, ← rowBytes_fp32]
  simp only [List.getD_eq_getElem?_getD, List.getElem?_map, List.getElem?_range hr, Option.map_some, Option.getD_some, elems, List.map_map]
  rfl

/-- After a plain chain every byte of a row is the byte of its element's code (R117, R122). -/
theorem vchainBody_byte (st : Nat) (s : State) {w : WinCmd} {v : Vchain} (h : VchainPlain w.record v) (r j : Nat) (hr : r < v.rows)
    (hj : j < 4 * v.cols) :
    (vchainBody st s w).byte (stbKey st (v.store.loc + r * v.store.stride) + j)
      = BitVec.ofNat 8 ((s.chainCodes st v r).getD (j / 4) 0 / 2 ^ (8 * (j % 4))) := by
  obtain ⟨u, bad, e⟩ := vchainBody_plain st s h (by omega) (by omega)
  unfold State.byte
  rw [e]
  refine (rows_written u _ st v.store.loc v.store.stride (4 * v.cols) v.rows
    (fun r j => BitVec.ofNat 8 ((s.chainCodes st v r).getD (j / 4) 0 / 2 ^ (8 * (j % 4)))) h.rows (fun u r k hk => ?_) (fun u r _ _ j hj => ?_)
    v.rows (Nat.le_refl _)).1 r j hr hj
  · rw [byte_vchainStore, State.byte_stbStore_ne _ _ _ _ _ _ (by rwa [rowCells_length])]
  · rw [byte_vchainStore]
    have row := State.byte_stbStore_row u st (v.store.loc + r * v.store.stride) 4 (s.chainCodes st v r) false (by decide) j
    rw [State.chainCodes_length] at row
    exact row hj

/-- VCHAIN of a source in the stall buffer with immediate operands, stored as FP32 (R117, R122). -/
theorem exec_vchain_holdsAt {s : State} {st : Stall} {seq : Word} {w : WinCmd} {v : Vchain} (h : s.engineHas st seq opVchain w)
    (hc : checkVchain st s w = .run) (hv : VchainPlain w.record v) :
    Ends (.vchain st seq) s fun t => ∀ r k, r < v.rows → k < v.cols →
      t.holdsAt (stbKey st (v.store.loc + r * v.store.stride + 4 * k)) 4 (s.chainCode st v r k) := by
  have buffered : ∀ d ∈ (if v.rows = 0 || v.cols = 0 then [] else v.src :: (v.allOperands.map (·.2))), d.kind ≠ 3 := by
    rw [hv.allOperands]
    exact buffered_source _ _ hv.src
  have run := State.engine_runs h hc
    (fun w => let v := parseVchain w.record; if v.rows = 0 || v.cols = 0 then [] else v.src :: (v.allOperands.map (·.2)))
    (vchainBody st) (fun _ _ => []) (vchainZero st) (by rw [hv.parse]; exact buffered)
  refine ⟨_, done_awake h.awake _, fun r k hr hk i hi => ?_⟩
  have e := vchainBody_byte st s (w := { w with issued := true, snap := [] }) hv r (4 * k + i) hr (by omega)
  have code : (s.chainCodes st v r).getD k 0 = s.chainCode st v r k := by simp [State.chainCodes, hk]
  rw [Nat.mul_add_div (by decide), Nat.div_eq_of_lt hi, Nat.mul_add_mod, Nat.mod_eq_of_lt hi, Nat.add_zero, code, ← Nat.add_assoc,
    stbKey_add] at e
  rw [run, ← e]
  exact congrArg (Memory.read · _) (conclude_mem _ _)

/-! ### NaN operands and zeros (R125) -/

theorem f32Max_of_nan {a b : Word} (h : f32IsNan a = true ∨ f32IsNan b = true) : f32Max a b = f32NaN := if_pos (by simpa using h)
theorem f32Min_of_nan {a b : Word} (h : f32IsNan a = true ∨ f32IsNan b = true) : f32Min a b = f32NaN := if_pos (by simpa using h)

theorem fvIsNan_iff (v : Fv) : fvIsNan v = true ↔ v = .nan := by
  cases v <;> simp [fvIsNan]

/-- Nothing is less than a NaN, and a NaN than nothing. -/
theorem f32Lt_of_nan {a b : Word} (h : f32IsNan a = true ∨ f32IsNan b = true) : f32Lt a b = false := by
  simp only [f32IsNan, fvIsNan_iff] at h
  unfold f32Lt
  rcases h with h | h
  · rw [h]; rfl
  · rw [h]; cases f32Dec a <;> rfl

theorem f32Eq_of_nan {a b : Word} (h : f32IsNan a = true ∨ f32IsNan b = true) : f32Eq a b = false := by
  unfold f32IsNan at h
  unfold f32Eq fvEq
  rcases h with h | h <;> simp [h]

theorem f32IsNan_f32NaN : f32IsNan f32NaN = true := by decide

/-- MAX and MIN of a NaN are the canonical NaN, and a comparison with one gives +0. -/
theorem stageRun_of_nan (a b c : Word) (h : f32IsNan a = true ∨ f32IsNan b = true) :
    (stageRun 0x07 a b c).v = f32NaN ∧ (stageRun 0x08 a b c).v = f32NaN ∧ (stageRun 0x0B a b c).v = 0 ∧ (stageRun 0x0C a b c).v = 0 := by
  refine ⟨f32Max_of_nan h, f32Min_of_nan h, if_neg ?_, if_neg ?_⟩
  · rw [f32Lt_of_nan h.symm]; decide
  · rw [f32Eq_of_nan h]; decide

/-- CLAMP of a NaN, or to a NaN bound, is the canonical NaN: a MAX that is one stays one in the MIN. -/
theorem stageRun_clamp_of_nan (a b c : Word) (h : f32IsNan a = true ∨ f32IsNan b = true ∨ f32IsNan c = true) :
    (stageRun 0x0E a b c).v = f32NaN := by
  show f32Min (f32Max a b) c = f32NaN
  rcases or_assoc.mpr h with hab | hc
  · rw [f32Max_of_nan hab, f32Min_of_nan (.inl f32IsNan_f32NaN)]
  · exact f32Min_of_nan (.inr hc)

theorem f32Max_zeros : f32Max 0 0x80000000#32 = 0 ∧ f32Max 0x80000000#32 0 = 0 := by decide
theorem f32Min_zeros : f32Min 0 0x80000000#32 = 0x80000000#32 ∧ f32Min 0x80000000#32 0 = 0x80000000#32 := by decide

/-- In either order MAX of the two zeros is +0 and MIN of them is −0. -/
theorem stageRun_zeros (c : Word) : ∀ x ∈ [((0 : Word), 0x80000000#32), (0x80000000#32, 0)],
    (stageRun 0x07 x.1 x.2 c).v = 0 ∧ (stageRun 0x08 x.1 x.2 c).v = 0x80000000#32 := by
  intro x hx
  simp only [List.mem_cons, List.not_mem_nil, or_false] at hx
  rcases hx with rfl | rfl
  · exact ⟨f32Max_zeros.1, f32Min_zeros.1⟩
  · exact ⟨f32Max_zeros.2, f32Min_zeros.2⟩

end Sys2Proof.Machine
end

section
/-! PROOF. COMBINE (R59, R63, R137): the vectors of values and of indices that it writes. -/
namespace Sys2Proof.Machine

/-- One word of each result of a COMBINE with the poison of the result, as it stores them. -/
def State.combineWords (s : State) (st : Nat) (c : Combine) (word : RedOut → Word) : List (Word × Bool) :=
  (List.range c.n).map fun i => (word (s.combineAt st c i), (s.combineAt st c i).poison)

@[simp] theorem State.combineWords_length (s : State) (st : Nat) (c : Combine) (word : RedOut → Word) :
    (s.combineWords st c word).length = c.n := by
  simp [State.combineWords]

theorem State.combineWords_getD (s : State) (st : Nat) (c : Combine) (word : RedOut → Word) (i : Nat) (h : i < c.n) :
    ((s.combineWords st c word).getD i (0, false)).1 = word (s.combineAt st c i) := by
  simp [State.combineWords, h]

/-- The store of one word of each result of a COMBINE, poisoned ones once more. -/
def State.combineOuts (s : State) (st : Nat) (c : Combine) (word : RedOut → Word) : Outs := wordOuts (s.combineWords st c word)

/-- A COMBINE stores its values, then, where it has an operation with a winner, the indices. -/
theorem combineBody_mem (st : Nat) (s : State) {w : WinCmd} {c : Combine} (h : parseCombine w.record = c) :
    ∃ u : State, (combineBody st s w).mem = (if c.op ≠ 0 then
        (u.storeOuts st c.dst.loc (s.combineOuts st c (·.value))).storeOuts st c.dstIdx.loc (s.combineOuts st c fun x => BitVec.ofNat 32 x.index)
      else u.storeOuts st c.dst.loc (s.combineOuts st c (·.value))).mem := by
  subst h
  have words (word : RedOut → Word) (c : Combine) : s.combineWords st c word = (List.range c.n).map fun i =>
      (word (((List.range c.n).map fun i => s.combineAt st c i).getD i ⟨0, 0, false, false, false, false⟩),
        (((List.range c.n).map fun i => s.combineAt st c i).getD i ⟨0, 0, false, false, false, false⟩).poison) :=
    List.map_congr_left fun i hi => by simp [List.mem_range.mp hi]
  unfold combineBody State.combineOuts
  rw [State.finish_mem, words, words]
  exact ⟨_, rfl⟩

/-- A number of 32 bits and its word hold the same four bytes. -/
theorem State.holdsAt_word (s : State) (k v : Nat) : s.holdsAt k 4 (BitVec.ofNat 32 v).toNat ↔ s.holdsAt k 4 v := by
  unfold State.holdsAt
  rw [BitVec.toNat_ofNat]
  exact forall₂_congr fun i hi => by rw [byteOf_mod v 4 i hi]

/-- A stored vector of results holds word `i` of them. -/
theorem State.holdsAt_combineOuts (u s : State) (st loc : Nat) (c : Combine) (word : RedOut → Word) (i : Nat) (h : i < c.n) :
    (u.storeOuts st loc (s.combineOuts st c word)).holdsAt (stbKey st (loc + 4 * i)) 4 (word (s.combineAt st c i)).toNat := by
  have held := State.holdsAt_storeOuts_words u st loc (s.combineWords st c word) i (by rwa [State.combineWords_length])
  rwa [State.combineWords_getD s st c word i h] at held

/-- What holds in a destination beside a vector of results stays when that vector is stored. -/
theorem State.holdsAt_combineOuts_apart (u s : State) (st loc off v : Nat) (c : Combine) (word : RedOut → Word) (i : Nat) (h : i < c.n)
    (apart : spansMeet off (4 * c.n) loc (4 * c.n) = false) (hu : u.holdsAt (stbKey st (off + 4 * i)) 4 v) :
    (u.storeOuts st loc (s.combineOuts st c word)).holdsAt (stbKey st (off + 4 * i)) 4 v := by
  intro j hj
  simp only [spansMeet, Bool.and_eq_false_iff, bne_eq_false_iff_eq, decide_eq_false_iff_not] at apart
  unfold State.combineOuts
  rw [State.byte_storeOuts_words_ne _ _ _ _ _ (by rw [State.combineWords_length]; unfold stbKey; omega)]
  exact hu j hj

/-- COMBINE leaves the results of its operation in its destination and, of a winner, their indices in the other (R137). -/
theorem exec_combine_holdsAt {s : State} {st : Stall} {seq : Word} {w : WinCmd} {c : Combine} (h : s.engineHas st seq opCombine w)
    (hc : checkCombine st s w = .run) (hp : parseCombine w.record = c) :
    Ends (.combine st seq) s fun t => ∀ i, i < c.n →
      (c.op ≠ 0 → t.holdsAt (stbKey st (c.dstIdx.loc + 4 * i)) 4 (s.combineAt st c i).index)
      ∧ (c.op = 0 ∨ spansMeet c.dst.loc (4 * c.n) c.dstIdx.loc (4 * c.n) = false →
          t.holdsAt (stbKey st (c.dst.loc + 4 * i)) 4 (s.combineAt st c i).value.toNat) := by
  have run := State.engine_runs h hc (fun _ => []) (combineBody st) (fun _ _ => []) (fun s w => s.finish st w) (fun d hd => by cases hd)
  obtain ⟨u, body⟩ := combineBody_mem st s (w := { w with issued := true, snap := [] }) hp
  refine ⟨_, done_awake h.awake _, fun i hi => ?_⟩
  have held := State.holdsAt_combineOuts u s st c.dst.loc c (·.value) i hi
  rw [run]
  by_cases hop : c.op = 0
  · rw [if_neg (not_not_intro hop)] at body
    have after := State.holdsAt_congr ((conclude_mem s _).trans body)
    exact ⟨fun hne => absurd hop hne, fun _ => (after _ _ _).mpr held⟩
  · rw [if_pos hop] at body
    have after := State.holdsAt_congr ((conclude_mem s _).trans body)
    refine ⟨fun _ => (after _ _ _).mpr ((State.holdsAt_word _ _ _).mp (State.holdsAt_combineOuts _ s st c.dstIdx.loc c _ i hi)), fun apart => ?_⟩
    exact (after _ _ _).mpr (State.holdsAt_combineOuts_apart _ s st _ _ _ c _ i hi (apart.resolve_left hop) held)

/-- The word that part `p` of a COMBINE gives for element `i`. -/
def State.partWord (s : State) (st : Nat) (c : Combine) (i p : Nat) : Word :=
  match c.srcOf p with
  | some x => BitVec.ofNat 32 (leAt (s.stbRead st (x.val.loc + 4 * i) 4) 0 4)
  | none => 0

/-- The sum over a split dot product is the tree over its parts in order (R59). -/
theorem State.combineAt_sum (s : State) (st : Nat) (c : Combine) (i : Nat) (h : c.op = 0) :
    (s.combineAt st c i).value = (treeAdd (Nat.log2 c.parts) ((List.range c.parts).map fun p => ⟨s.partWord st c i p, false, false⟩)).v := by
  unfold State.combineAt
  rw [if_pos h, List.map_map]
  rfl

/-! ### The obligation -/

/-- Settles O23: a plain VCHAIN stores the values of its chain, the stages treat NaNs and zeros as R125 says, and COMBINE stores the tree sum of
its parts or their winner with its index. -/
theorem vectorChainAndCombine : Obligations.VectorChainAndCombine := by
  refine ⟨?_, fun a b c => ⟨stageRun_of_nan a b c, stageRun_clamp_of_nan a b c, stageRun_zeros c⟩, ?_⟩
  · intro s st seq w r k v he hc hsrc hg hmask hred hpres hkind hfmt hrows _ hr hk
    obtain ⟨t, ht, rows⟩ := exec_vchain_holdsAt he (Verdict.eq_run hc) ⟨rfl, hsrc, hg, hmask, hred, hpres, hkind, hfmt, hrows⟩
    exact ⟨t, ht, rows r k hr hk⟩
  · intro s st seq w i c he hc hi val
    obtain ⟨t, ht, words⟩ := exec_combine_holdsAt he (Verdict.eq_run hc) rfl
    obtain ⟨index, value⟩ := words i hi
    refine ⟨t, ht, fun hop => ?_, fun hop => ⟨index hop, fun apart => value (.inr apart)⟩⟩
    have sum := value (.inl hop)
    rw [State.combineAt_sum s st c i hop] at sum
    exact sum

end Sys2Proof.Machine
end
